-- ==== Sys2Proof/Word.lean ====
section
/-! DEFINITION. The plain bit-vector types of the machine (spec/00_scope.md R5, R7). -/
namespace Sys2Proof

/-- A byte is 8 bits (R7). -/
abbrev Byte := BitVec 8
/-- A halfword is 16 bits (R7). -/
abbrev Half := BitVec 16
/-- A word is 32 bits (R7). -/
abbrev Word := BitVec 32
/-- A doubleword is 64 bits (R7): scalar registers, control registers, the program counter. -/
abbrev Dword := BitVec 64

end Sys2Proof
end

