-- ==== Sys2Proof/Machine/Bits.lean ====
section
/-! DEFINITION. The integer helpers of R12 (sign_extend, zero_extend, wrap_signed, sat_signed,
sat_unsigned), bit reading on naturals, little-endian bytes (R6). -/
namespace Sys2Proof.Machine
open Sys2Proof

/-- Bit `i` of a natural number read as a bit set. -/
def bitOf (v i : Nat) : Bool := v.testBit i

/-- `v[hi:lo]` as an unsigned number (R12). -/
def bitsOf (v hi lo : Nat) : Nat := (v >>> lo) % 2 ^ (hi + 1 - lo)

/-- `v[hi:lo]` of a 64-bit value as an unsigned number. -/
def field (v : Dword) (hi lo : Nat) : Nat := bitsOf v.toNat hi lo

/-- A natural number with bit `i` set to `b`. -/
def setBit (v i : Nat) (b : Bool) : Nat :=
  if b then v ||| (1 <<< i) else if v.testBit i then v - (1 <<< i) else v

/-- sign_extend(v, n) of R12, on the low `n` bits of a natural number. -/
def signExtend (v n : Nat) : Int :=
  let m := v % 2 ^ n
  if n ≠ 0 ∧ m.testBit (n - 1) then (m : Int) - (2 ^ n : Nat) else (m : Int)

/-- zero_extend(v, n) of R12. -/
def zeroExtend (v n : Nat) : Nat := v % 2 ^ n

/-- The low `n` bits of an integer, as a code. -/
def lowBits (v : Int) (n : Nat) : Nat := (v % (2 ^ n : Nat)).toNat

/-- wrap_signed(v, n) of R12. -/
def wrapSigned (v : Int) (n : Nat) : Int := signExtend (lowBits v n) n

/-- sat_signed(v, n) of R12. -/
def satSigned (v : Int) (n : Nat) : Int :=
  min (max v (-((2 ^ (n - 1) : Nat) : Int))) (((2 ^ (n - 1) : Nat) : Int) - 1)

/-- sat_unsigned(v, n) of R12. -/
def satUnsigned (v : Int) (n : Nat) : Int := min (max v 0) (((2 ^ n : Nat) : Int) - 1)

/-- write_x keeps the low 64 bits of an exact value (R120). -/
def low64 (v : Int) : Dword := BitVec.ofInt 64 v

/-- The signed value of a doubleword (sa, sb of R120). -/
def sx (v : Dword) : Int := v.toInt

/-- Byte `k` of a value (R6: byte 0 is the least significant). -/
def byteOf (v k : Nat) : Byte := BitVec.ofNat 8 (v >>> (8 * k))

/-- The `n` bytes of a value in little-endian order (R6). -/
def bytesLE (v n : Nat) : List Byte := (List.range n).map (byteOf v)

/-- The value of bytes in little-endian order (R6). -/
def ofBytesLE : List Byte → Nat
  | [] => 0
  | b :: bs => b.toNat + 256 * ofBytesLE bs

/-- floor(log2 v) for v > 0; 0 for v = 0. -/
def flog2 (v : Nat) : Nat := v.log2

/-- Number of 1 bits among the low `n` bits. -/
def popcount (v : Nat) : Nat → Nat
  | 0 => 0
  | n + 1 => popcount v n + (if v.testBit n then 1 else 0)

/-- ceil(a / b) for b > 0. -/
def ceilDiv (a b : Nat) : Nat := (a + b - 1) / b

/-- The integer square root by Newton-free bisection on bits: the largest r < 2^k with r * r ≤ v. -/
def isqrtBits (v : Nat) : Nat → Nat → Nat
  | 0, r => r
  | k + 1, r =>
    let r' := r + 2 ^ k
    isqrtBits v k (if r' * r' ≤ v then r' else r)

/-- floor(sqrt v). -/
def isqrt (v : Nat) : Nat := isqrtBits v (v.log2 / 2 + 1) 0

/-- Positions `a, a+1, …, b-1`. -/
def upFrom (a b : Nat) : List Nat := (List.range (b - a)).map (· + a)

/-- Lowest position below `n` whose bit is set. -/
def firstBit (v n : Nat) : Option Nat := (List.range n).find? (v.testBit ·)

/-- A mask of ones at positions below `n`. -/
def ones (n : Nat) : Nat := 2 ^ n - 1

end Sys2Proof.Machine
end

