-- ==== Sys2Proof/Machine/Formats.lean ====
section
/-! DEFINITION. Element formats and tags (spec/04_results_formats.md R98-R104, spec/03_encoding.md R86). -/
namespace Sys2Proof.Machine

/-- The floating-point element formats of R99. -/
inductive FFmt
  | f32 | f16 | bf16 | e5m2 | e4m3 | e3m2 | e2m3 | e2m1
  deriving DecidableEq, Repr

/-- The MX element tags of R102. -/
inductive MxFmt
  | mx4 | mx6a | mx6b | mxi8
  deriving DecidableEq, Repr

/-- A register tag (R86): an integer of 1 to 16 bits, a float format, an MX element tag.
f32 and the 32-bit integer occur only as tags of accumulator rows. -/
inductive Tag
  | int (signed : Bool) (width : Nat)
  | flt (f : FFmt)
  | mx (f : MxFmt)
  deriving DecidableEq, Repr

/-- The rounding modes of R72 and R112. -/
inductive Rm
  | rne | rtz | rdn | rup | sr
  deriving DecidableEq, Repr

/-- The rounding mode of an RM field (R72); codes 5 to 7 are never held. -/
def rmOfCode (c : Nat) : Rm :=
  if c = 0 then .rne else if c = 1 then .rtz else if c = 2 then .rdn else if c = 3 then .rup else .sr

/-- The RM code of a rounding mode (R72, R105). -/
def rmCode : Rm → Nat
  | .rne => 0 | .rtz => 1 | .rdn => 2 | .rup => 3 | .sr => 4

/-- Width in bits (R99). -/
def fmtWidth : FFmt → Nat
  | .f32 => 32 | .f16 => 16 | .bf16 => 16 | .e5m2 => 8 | .e4m3 => 8 | .e3m2 => 6 | .e2m3 => 6 | .e2m1 => 4

/-- Mantissa width m (R99). -/
def fmtMant : FFmt → Nat
  | .f32 => 23 | .f16 => 10 | .bf16 => 7 | .e5m2 => 2 | .e4m3 => 3 | .e3m2 => 2 | .e2m3 => 3 | .e2m1 => 1

/-- Exponent bias (R99). -/
def fmtBias : FFmt → Nat
  | .f32 => 127 | .f16 => 15 | .bf16 => 127 | .e5m2 => 15 | .e4m3 => 7 | .e3m2 => 3 | .e2m3 => 1 | .e2m1 => 1

/-- Whether the format has infinities (R99). -/
def fmtHasInf : FFmt → Bool
  | .f32 | .f16 | .bf16 | .e5m2 => true
  | .e4m3 | .e3m2 | .e2m3 | .e2m1 => false

/-- Whether the format has a NaN (R99). -/
def fmtHasNaN : FFmt → Bool
  | .f32 | .f16 | .bf16 | .e5m2 | .e4m3 => true
  | .e3m2 | .e2m3 | .e2m1 => false

/-- The smallest normal exponent emin_f (R100, R112). -/
def fmtEmin (f : FFmt) : Int := 1 - (fmtBias f : Int)

/-- The +max code (R100). -/
def fmtMaxCode : FFmt → Nat
  | .f32 => 0x7F7FFFFF | .f16 => 0x7BFF | .bf16 => 0x7F7F | .e5m2 => 0x7B | .e4m3 => 0x7E
  | .e3m2 => 0x1F | .e2m3 => 0x1F | .e2m1 => 0x7

/-- The +Inf code, where there is one (R100); the NaN code of e4m3 stands in the overflow rows. -/
def fmtInfCode : FFmt → Nat
  | .f32 => 0x7F800000 | .f16 => 0x7C00 | .bf16 => 0x7F80 | .e5m2 => 0x7C | .e4m3 => 0x7F
  | .e3m2 => 0x1F | .e2m3 => 0x1F | .e2m1 => 0x7

/-- The canonical quiet NaN (R100); +0 in the formats without one (R114). -/
def fmtQNaN : FFmt → Nat
  | .f32 => 0x7FC00000 | .f16 => 0x7E00 | .bf16 => 0x7FC0 | .e5m2 => 0x7E | .e4m3 => 0x7F
  | .e3m2 => 0 | .e2m3 => 0 | .e2m1 => 0

/-- The sign bit alone: the code of negative zero (R100). -/
def fmtSignBit (f : FFmt) : Nat := 2 ^ (fmtWidth f - 1)

/-- The float format of an MX element's code, where it is one (R102). -/
def mxElem : MxFmt → Option FFmt
  | .mx4 => some .e2m1 | .mx6a => some .e2m3 | .mx6b => some .e3m2 | .mxi8 => none

/-- Width of an MX element code (R86). -/
def mxWidth : MxFmt → Nat
  | .mx4 => 4 | .mx6a => 6 | .mx6b => 6 | .mxi8 => 8

/-- Plane count of an MX tag (R102). -/
def mxPlanes : MxFmt → Nat
  | .mx4 => 5 | .mx6a => 7 | .mx6b => 10 | .mxi8 => 8

/-- The implicit exponent f of an MX tag (R102). -/
def mxExp : MxFmt → Int
  | .mx4 => -1 | .mx6a => -3 | .mx6b => -4 | .mxi8 => -6

/-- Element width of a tag (R86). -/
def tagWidth : Tag → Nat
  | .int _ w => w
  | .flt f => fmtWidth f
  | .mx f => mxWidth f

/-- The tag of a code legal for a vector register (R86); i32 and f32 are accumulator types only. -/
def tagOfCode (c : Nat) : Option Tag :=
  if c < 0x10 then some (.int true (c + 1))
  else if c < 0x20 then some (.int false (c - 15))
  else if c = 0x20 then some (.flt .f16) else if c = 0x21 then some (.flt .bf16)
  else if c = 0x22 then some (.flt .e5m2) else if c = 0x23 then some (.flt .e4m3)
  else if c = 0x24 then some (.flt .e3m2) else if c = 0x25 then some (.flt .e2m3)
  else if c = 0x26 then some (.flt .e2m1)
  else if c = 0x28 then some (.mx .mx4) else if c = 0x29 then some (.mx .mx6a)
  else if c = 0x2A then some (.mx .mx6b) else if c = 0x2B then some (.mx .mxi8)
  else none

/-- The code of a tag (R86). -/
def tagCode : Tag → Nat
  | .int true w => if w = 32 then 0x30 else w - 1
  | .int false w => w + 15
  | .flt .f32 => 0x31
  | .flt .f16 => 0x20 | .flt .bf16 => 0x21 | .flt .e5m2 => 0x22 | .flt .e4m3 => 0x23
  | .flt .e3m2 => 0x24 | .flt .e2m3 => 0x25 | .flt .e2m1 => 0x26
  | .mx .mx4 => 0x28 | .mx .mx6a => 0x29 | .mx .mx6b => 0x2A | .mx .mxi8 => 0x2B

/-- INT of R108. -/
def tagIsInt : Tag → Bool
  | .int _ _ => true | .flt _ => false | .mx _ => false

/-- FLT of R108: f16 or bf16. -/
def tagIsFlt : Tag → Bool
  | .flt .f16 | .flt .bf16 => true
  | _ => false

/-- NAR of R108: e5m2, e4m3, e3m2, e2m3 or e2m1. -/
def tagIsNar : Tag → Bool
  | .flt .e5m2 | .flt .e4m3 | .flt .e3m2 | .flt .e2m3 | .flt .e2m1 => true
  | _ => false

/-- MX of R108. -/
def tagIsMx : Tag → Bool
  | .mx _ => true | .int _ _ => false | .flt _ => false

/-- INT, FLT or NAR (R108). -/
def tagNotMx (t : Tag) : Bool := tagIsInt t || tagIsFlt t || tagIsNar t

/-- ival(e, t) of R150 on an element code. -/
def ivalOf (t : Tag) (c : Nat) : Int :=
  match t with
  | .int true w => signExtend c w
  | t => (zeroExtend c (tagWidth t) : Int)

/-- narrow(v, t) of R150, as a code. -/
def narrowTo (t : Tag) (v : Int) : Nat := lowBits v (tagWidth t)

/-- narrows(v, t) of R150, as a code: the saturating forms. -/
def narrowSat (t : Tag) (v : Int) : Nat :=
  match t with
  | .int true w => lowBits (satSigned v w) w
  | t => lowBits (satUnsigned v (tagWidth t)) (tagWidth t)

/-- A tile tag of R167 is INT or MX. -/
def tagIsTile (t : Tag) : Bool := tagIsInt t || tagIsMx t

/-- Planes of a tile tag (R167). -/
def tagPlanes : Tag → Nat
  | .mx f => mxPlanes f
  | t => tagWidth t

end Sys2Proof.Machine
end

