-- ==== Sys2Proof/Machine/Float.lean ====
section
/-! DEFINITION. Exact values, round_fp, conversions and the IEEE 754 operations
(spec/04_results_formats.md R99-R101, R111, R112, R114, R115, R119; R133-R136, R153). -/
namespace Sys2Proof.Machine

/-- An exact rational: `num / den` with `den` positive. -/
structure Frac where
  num : Int
  den : Nat
  deriving DecidableEq, Repr

/-- The flags of R119: bit 0 NX, 1 UF, 2 OF, 3 DZ, 4 NV. -/
abbrev Flags := BitVec 5

/-- No flag. -/
def flagNone : Flags := 0
/-- Inexact. -/
def flagNX : Flags := 1
/-- Underflow with inexact: a tiny, inexact result (R112). -/
def flagUFNX : Flags := 3
/-- Overflow with inexact (R114). -/
def flagOFNX : Flags := 5
/-- Division by zero. -/
def flagDZ : Flags := 8
/-- Invalid. -/
def flagNV : Flags := 16

/-- 2^e as a fraction. -/
def fracPow2 (e : Int) : Frac :=
  if 0 ≤ e then ⟨((2 ^ e.toNat : Nat) : Int), 1⟩ else ⟨1, 2 ^ (-e).toNat⟩

/-- An integer as a fraction. -/
def fracInt (n : Int) : Frac := ⟨n, 1⟩

/-- Exact sum. -/
def fracAdd (a b : Frac) : Frac := ⟨a.num * b.den + b.num * a.den, a.den * b.den⟩
/-- Exact negation. -/
def fracNeg (a : Frac) : Frac := ⟨-a.num, a.den⟩
/-- Exact product. -/
def fracMul (a b : Frac) : Frac := ⟨a.num * b.num, a.den * b.den⟩
/-- Exact quotient, for a non-zero divisor. -/
def fracDiv (a b : Frac) : Frac :=
  if b.num < 0 then ⟨-(a.num * b.den), a.den * b.num.natAbs⟩ else ⟨a.num * b.den, a.den * b.num.natAbs⟩
/-- a < b. -/
def fracLt (a b : Frac) : Bool := a.num * b.den < b.num * a.den
/-- a = b as values. -/
def fracEq (a b : Frac) : Bool := a.num * b.den == b.num * a.den
/-- floor of a fraction. -/
def fracFloor (a : Frac) : Int := a.num / (a.den : Int)
/-- Whether a fraction is an integer. -/
def fracIsInt (a : Frac) : Bool := a.num % (a.den : Int) == 0

/-- floor(log2 |x|) for a non-zero fraction. -/
def fracLog2 (x : Frac) : Int :=
  let n := x.num.natAbs
  let l : Int := (n.log2 : Int) - (x.den.log2 : Int)
  let ge := if 0 ≤ l then x.den * 2 ^ l.toNat ≤ n else x.den ≤ n * 2 ^ (-l).toNat
  if ge then l else l - 1

/-- x divided by 2^qe. -/
def fracScale (x : Frac) (qe : Int) : Frac :=
  if 0 ≤ qe then ⟨x.num, x.den * 2 ^ qe.toNat⟩ else ⟨x.num * ((2 ^ (-qe).toNat : Nat) : Int), x.den⟩

/-- The choice between lo and hi of round_fp (R112), in units of the spacing q: `x` is the exact value
over q, `r` the drawn 16 bits of the stochastic mode.  Returns the multiple of q and whether inexact. -/
def roundUnits (mode : Rm) (r : Nat) (x : Frac) : Int × Bool :=
  let lo := fracFloor x
  let rem := x.num - lo * (x.den : Int)
  if rem = 0 then (lo, false)
  else
    let up : Bool :=
      match mode with
      | .rne => if 2 * rem < (x.den : Int) then false
                else if (x.den : Int) < 2 * rem then true else lo % 2 != 0
      | .rtz => decide (lo < 0)
      | .rdn => false
      | .rup => true
      | .sr => decide (65536 ≤ rem * 65536 / (x.den : Int) + (r : Int))
    (if up then lo + 1 else lo, true)

/-- The exponent at which round_fp rounds x into f, less the mantissa width: q = 2^this (R112). -/
def roundExp (f : FFmt) (x : Frac) : Int := max (fracLog2 x) (fmtEmin f) - (fmtMant f : Int)

/-- The code of a finite magnitude k × 2^qe that is representable in f, without its sign (R99). -/
def encodeMag (f : FFmt) (k : Nat) (qe : Int) : Nat :=
  if k = 0 then 0
  else
    let m := fmtMant f
    let l := k.log2
    let ex : Int := (l : Int) + qe
    if ex < fmtEmin f then k * 2 ^ (qe - (fmtEmin f - (m : Int))).toNat
    else
      let mant := (if l ≤ m then k * 2 ^ (m - l) else k / 2 ^ (l - m)) - 2 ^ m
      (ex + (fmtBias f : Int)).toNat * 2 ^ m + mant

/-- A code with its sign (R99). -/
def withSign (f : FFmt) (neg : Bool) (c : Nat) : Nat := if neg then c + fmtSignBit f else c

/-- The largest finite value of a format, as a fraction (R100). -/
def fmtMaxVal (f : FFmt) : Frac :=
  let m := fmtMant f
  let c := fmtMaxCode f
  let e := c / 2 ^ m
  fracMul ⟨((2 ^ m + c % 2 ^ m : Nat) : Int), 1⟩ (fracPow2 ((e : Int) - (fmtBias f : Int) - (m : Int)))

/-- The overflow row of R114: the code for a finite value whose rounded magnitude is above the largest
finite one. -/
def overflowCode (f : FFmt) (sat : Bool) (mode : Rm) (neg : Bool) : Nat :=
  match f with
  | .e4m3 => if sat then withSign f neg (fmtMaxCode f) else 0x7F
  | .e3m2 | .e2m3 | .e2m1 => withSign f neg (fmtMaxCode f)
  | .f32 | .f16 | .bf16 | .e5m2 =>
    let toInf := !sat && (match mode with
      | .rne | .sr => true
      | .rup => !neg
      | .rdn => neg
      | .rtz => false)
    withSign f neg (if toInf then fmtInfCode f else fmtMaxCode f)

/-- A non-zero finite exact value rounded into f with its flags (R112, R114). -/
def roundInto (f : FFmt) (sat : Bool) (mode : Rm) (r : Nat) (x : Frac) : Nat × Flags :=
  let neg := decide (x.num < 0)
  let qe := roundExp f x
  let (k, inexact) := roundUnits mode r (fracScale x qe)
  let mag := fracMul ⟨(k.natAbs : Int), 1⟩ (fracPow2 qe)
  if fracLt (fmtMaxVal f) mag then (overflowCode f sat mode neg, flagOFNX)
  else
    let c := withSign f neg (encodeMag f k.natAbs qe)
    if inexact then
      (c, if fracLt mag (fracPow2 (fmtEmin f)) then flagUFNX else flagNX)
    else (c, flagNone)

/-- A decoded float value. -/
inductive FVal
  | nan (signalling : Bool)
  | inf (neg : Bool)
  | zero (neg : Bool)
  | fin (x : Frac)
  deriving DecidableEq, Repr

/-- The value of a code (R99, R101). -/
def decodeF (f : FFmt) (c0 : Nat) : FVal :=
  let c := c0 % 2 ^ fmtWidth f
  let neg := c.testBit (fmtWidth f - 1)
  let mag := c % fmtSignBit f
  let m := fmtMant f
  let e := mag / 2 ^ m
  let mm := mag % 2 ^ m
  let eMax := fmtSignBit f / 2 ^ m - 1
  if f = .e4m3 ∧ mag = 0x7F then .nan false
  else if fmtHasInf f ∧ e = eMax then
    if mm = 0 then .inf neg
    else .nan (decide (f ≠ .e5m2) && !mm.testBit (m - 1))
  else if mag = 0 then .zero neg
  else
    let k : Nat := if e = 0 then mm else 2 ^ m + mm
    let ex : Int := (if e = 0 then 1 else (e : Int)) - (fmtBias f : Int) - (m : Int)
    .fin (fracMul ⟨if neg then -(k : Int) else (k : Int), 1⟩ (fracPow2 ex))

/-- The sign of a code. -/
def signF (f : FFmt) (c : Nat) : Bool := c.testBit (fmtWidth f - 1)

/-- Whether a value is a signalling NaN. -/
def isSNaN : FVal → Bool
  | .nan s => s
  | _ => false

/-- Whether a value is a NaN. -/
def isNaN : FVal → Bool
  | .nan _ => true
  | _ => false

/-- An exact result before rounding: a NaN with its invalid flag, an infinity with its divide-by-zero
flag, a signed zero, or a non-zero finite value (R101, R111). -/
inductive Exact
  | nan (nv : Bool)
  | inf (neg : Bool) (dz : Bool)
  | zero (neg : Bool)
  | fin (x : Frac)
  deriving DecidableEq, Repr

/-- Rounds an exact result once into f under the plain rows of R114 (R111). -/
def finish (f : FFmt) (mode : Rm) (r : Nat) : Exact → Nat × Flags
  | .nan nv => (fmtQNaN f, if nv then flagNV else flagNone)
  | .inf neg dz => (withSign f neg (fmtInfCode f), if dz then flagDZ else flagNone)
  | .zero neg => (withSign f neg 0, flagNone)
  | .fin x => roundInto f false mode r x

/-- The NaN result of an operation on inputs that hold a NaN: NV when one is signalling (R101). -/
def nanOf (l : List FVal) : Exact := .nan (l.any isSNaN)

/-- Sum of two non-NaN values under IEEE 754 with the zero rule of R112. -/
def addExact (mode : Rm) (a b : FVal) : Exact :=
  match a, b with
  | .nan s, .nan t => .nan (s || t)
  | .nan s, _ => .nan s
  | _, .nan s => .nan s
  | .inf s, .inf t => if s = t then .inf s false else .nan true
  | .inf s, _ => .inf s false
  | _, .inf s => .inf s false
  | .zero s, .zero t => if s = t then .zero s else .zero (mode = .rdn)
  | .zero _, .fin y => .fin y
  | .fin x, .zero _ => .fin x
  | .fin x, .fin y =>
    let z := fracAdd x y
    if z.num = 0 then .zero (mode = .rdn) else .fin z

/-- The value with its sign inverted. -/
def negVal : FVal → FVal
  | .nan s => .nan s
  | .inf s => .inf (!s)
  | .zero s => .zero (!s)
  | .fin x => .fin (fracNeg x)

/-- The sign of a non-NaN value. -/
def negOf : FVal → Bool
  | .nan _ => false
  | .inf s => s
  | .zero s => s
  | .fin x => decide (x.num < 0)

/-- Product of two values under IEEE 754 (R101: 0 × ∞ is invalid). -/
def mulExact (a b : FVal) : Exact :=
  match a, b with
  | .nan s, .nan t => .nan (s || t)
  | .nan s, _ => .nan s
  | _, .nan s => .nan s
  | .inf _, .zero _ => .nan true
  | .zero _, .inf _ => .nan true
  | .inf s, y => .inf (s != negOf y) false
  | x, .inf s => .inf (s != negOf x) false
  | .zero s, y => .zero (s != negOf y)
  | x, .zero s => .zero (s != negOf x)
  | .fin x, .fin y => .fin (fracMul x y)

/-- Quotient of two values under IEEE 754 (R101, R154). -/
def divExact (a b : FVal) : Exact :=
  match a, b with
  | .nan s, .nan t => .nan (s || t)
  | .nan s, _ => .nan s
  | _, .nan s => .nan s
  | .inf _, .inf _ => .nan true
  | .zero _, .zero _ => .nan true
  | .inf s, y => .inf (s != negOf y) false
  | x, .inf s => .zero (s != negOf x)
  | .zero s, y => .zero (s != negOf y)
  | x, .zero s => .inf (s != negOf x) true
  | .fin x, .fin y => .fin (fracDiv x y)

/-- An exact result read as a value, for the second step of a fused operation. -/
def exactVal : Exact → FVal
  | .nan s => .nan s
  | .inf s _ => .inf s
  | .zero s => .zero s
  | .fin x => .fin x

/-- a × b + c with one rounding; 0 × ∞ is invalid even beside a quiet NaN (R133). -/
def fmaExact (mode : Rm) (a b c : FVal) : Exact :=
  match mulExact a b with
  | .nan nv => .nan (nv || isSNaN c)
  | p => addExact mode (exactVal p) c

/-- The total order used by the minimum and maximum: −0 below +0 (R134). -/
def ltMin (a b : FVal) : Bool :=
  match a, b with
  | .inf true, .inf true => false
  | .inf true, _ => true
  | _, .inf true => false
  | .inf false, _ => false
  | _, .inf false => true
  | .zero s, .zero t => s && !t
  | .zero _, .fin y => decide (0 < y.num)
  | .fin x, .zero _ => decide (x.num < 0)
  | .fin x, .fin y => fracLt x y
  | _, _ => false

/-- FMIN and FMAX of R134 on codes: the lesser or the greater operand, NaNs as stated there. -/
def minMaxF (f : FFmt) (isMax : Bool) (a b : Nat) : Nat × Flags :=
  let va := decodeF f a
  let vb := decodeF f b
  let fl := if isSNaN va || isSNaN vb then flagNV else flagNone
  if isNaN va then (if isNaN vb then fmtQNaN f else b, fl)
  else if isNaN vb then (a, fl)
  else if isMax then (if ltMin va vb then b else a, fl)
  else (if ltMin vb va then b else a, fl)

/-- Equality of values: −0 equals +0, a NaN equals nothing. -/
def eqVal (a b : FVal) : Bool :=
  match a, b with
  | .inf s, .inf t => s == t
  | .zero _, .zero _ => true
  | .fin x, .fin y => fracEq x y
  | _, _ => false

/-- Order of values: −0 equals +0, a NaN is unordered. -/
def ltVal (a b : FVal) : Bool :=
  match a, b with
  | .nan _, _ => false
  | _, .nan _ => false
  | .zero _, .zero _ => false
  | x, y => ltMin x y

/-- The compare predicates of FCMP and VCMP (R135, R153). -/
inductive Cmp
  | eq | ne | lt | le | gt | ge | un
  deriving DecidableEq, Repr

/-- A compare of two float values with its flag (R135, R153). -/
def cmpF (c : Cmp) (a b : FVal) : Bool × Flags :=
  let nan := isNaN a || isNaN b
  let snan := isSNaN a || isSNaN b
  let quiet := if snan then flagNV else flagNone
  let loud := if nan then flagNV else flagNone
  match c with
  | .eq => (eqVal a b, quiet)
  | .ne => (!eqVal a b, quiet)
  | .un => (nan, quiet)
  | .lt => (ltVal a b, loud)
  | .le => (ltVal a b || eqVal a b, loud)
  | .gt => (ltVal b a, loud)
  | .ge => (ltVal b a || eqVal a b, loud)

/-- A compare of two integers (R153). -/
def cmpI (c : Cmp) (a b : Int) : Bool :=
  match c with
  | .eq => a == b
  | .ne => a != b
  | .lt => decide (a < b)
  | .le => decide (a ≤ b)
  | .gt => decide (b < a)
  | .ge => decide (b ≤ a)
  | .un => false

/-- Conversion of a float value into an integer of n bits, as a code of n bits (R114, columns iN and nN). -/
def toIntCode (signed : Bool) (n : Nat) (mode : Rm) (r : Nat) (v : FVal) : Nat × Flags :=
  let satI : Int → Int := fun k => if signed then satSigned k n else satUnsigned k n
  match v with
  | .nan _ => (0, flagNV)
  | .inf neg =>
    (lowBits (if signed then (if neg then -((2 ^ (n - 1) : Nat) : Int) else ((2 ^ (n - 1) : Nat) : Int) - 1)
              else (if neg then 0 else ((2 ^ n : Nat) : Int) - 1)) n, flagNV)
  | .zero _ => (0, flagNone)
  | .fin x =>
    let (k, inexact) := roundUnits mode r x
    if satI k ≠ k then (lowBits (satI k) n, flagNV)
    else (lowBits k n, if inexact then flagNX else flagNone)

/-- Conversion of a float value into a float format (R114). -/
def toFloatCode (f : FFmt) (sat : Bool) (mode : Rm) (r : Nat) (v : FVal) : Nat × Flags :=
  match v with
  | .nan s => (fmtQNaN f, if s || !fmtHasNaN f then flagNV else flagNone)
  | .inf neg =>
    match f with
    | .e4m3 => (if sat then withSign f neg (fmtMaxCode f) else 0x7F, flagNV)
    | .e3m2 | .e2m3 | .e2m1 => (withSign f neg (fmtMaxCode f), flagNV)
    | .f32 | .f16 | .bf16 | .e5m2 => (withSign f neg (fmtInfCode f), flagNone)
  | .zero neg => (withSign f neg 0, flagNone)
  | .fin x => roundInto f sat mode r x

/-- An integer value converted into a float format: only the overflow and inexact rows apply (R115). -/
def intToFloat (f : FFmt) (sat : Bool) (mode : Rm) (r : Nat) (v : Int) : Nat × Flags :=
  if v = 0 then (0, flagNone) else roundInto f sat mode r (fracInt v)

/-- VCVT and VCVT.SAT from tag s into tag d (R114, R115, R156): a code of d with its flags. -/
def convertTag (s d : Tag) (sat : Bool) (mode : Rm) (r : Nat) (c : Nat) : Nat × Flags :=
  match s, d with
  | .flt a, .flt b => if a = b then (c, flagNone) else toFloatCode b sat mode r (decodeF a c)
  | .flt a, .int sg w => toIntCode sg w mode r (decodeF a c)
  | .flt _, .mx _ => (c, flagNone)
  | .int _ _, .flt b => intToFloat b sat mode r (ivalOf s c)
  | .int _ _, t => (if sat then narrowSat t (ivalOf s c) else narrowTo t (ivalOf s c), flagNone)
  | .mx _, _ => (c, flagNone)

/-- The integer view k of an element code of a tile tag (R102, R171): in it −0 reads as 0. -/
def kview (t : Tag) (c : Nat) : Int :=
  match t with
  | .mx .mxi8 => signExtend c 8
  | .mx .mx4 => mxInt .e2m1 2 c
  | .mx .mx6a => mxInt .e2m3 8 c
  | .mx .mx6b => mxInt .e3m2 16 c
  | t => ivalOf t c
where
  /-- value × 2^(−f): an integer for every code. -/
  mxInt (f : FFmt) (scale : Int) (c : Nat) : Int :=
    match decodeF f c with
    | .fin x => fracFloor ⟨x.num * scale, x.den⟩
    | .nan _ => 0
    | .inf _ => 0
    | .zero _ => 0

end Sys2Proof.Machine
end

