-- ==== Sys2Proof/Config.lean ====
section
/-! DEFINITION. What an implementation fixes and the spec does not: the free values of the model, constants
without a body, so that nothing proved about the model rests on a value of them. -/
namespace Sys2Proof

/-- Which of the two bracketing values VRCP, VRSQ, VEXP2 and VLOG2 (numbered 0 to 3) return for a format
(named by its bias) and an input code, fixed for a given part (R155); log entry 1. -/
opaque Config.faithful : Nat → Nat → Nat → Bool

/-- The free number drawn at a point of a run: the counter `State.free`, which every step advances, and the
number of the draw within the step; log entry 2. -/
opaque Config.freeNat : Nat → Nat → Nat

/-- What the flash, the fuses and the identity keys of a package hold: whether bank A (0) or B (1) verifies
(R368), with its security version, and the fused counter (2); log entry 3. -/
opaque Config.bankGood : Nat → Bool
/-- The security version of a firmware bank, and of the fused counter at index 2 (R368); log entry 3. -/
opaque Config.bankSvn : Nat → Nat
/-- The package serial number, the firmware hash and the two signatures of R369 and R370 (fields 0 to 3), the stepping and
the VERSIONs of the capability list (4, 5; R363), the firmware image of a bank (6; R368), as bytes by field number, offset
and (for a signature) the value of the signed bytes or (for an image) the bank; log entry 3. -/
opaque Config.identityByte : Nat → Nat → Nat → BitVec 8

/-- How the packages of a group are cabled (R353): the end that a cable joins an end to, an end being 16 times the place of
a package and a port; place 0 is that of the bridging package; log entry 12. -/
opaque Config.cable : Nat → Nat

end Sys2Proof
end

