-- ==== Sys2Proof/Syntax.lean ====
section
/-! DEFINITION. The instruction set: one constructor for each row of spec/opcode_table.json, the 214 32-bit
and 24 compact instructions with their encoding fields as the format tables name them (spec/03_encoding.md),
and the 79 events and steps of the part that have no encoding (spec/95_what_each_step_holds.md), with what
each of them is about: a hart, a request, a pair, a launch and its item, or the value the host writes. -/
namespace Sys2Proof

/-- An instruction or step of the JV-480. A field named x is ignored by the part and kept so that the word can
be given back. -/
inductive Instr
  /-- ADD (R122). -/
  | add (d : BitVec 5) (a : BitVec 5) (b : BitVec 5)
  /-- SUB (R122). -/
  | sub (d : BitVec 5) (a : BitVec 5) (b : BitVec 5)
  /-- AND (R122). -/
  | and (d : BitVec 5) (a : BitVec 5) (b : BitVec 5)
  /-- OR (R122). -/
  | or (d : BitVec 5) (a : BitVec 5) (b : BitVec 5)
  /-- XOR (R122). -/
  | xor (d : BitVec 5) (a : BitVec 5) (b : BitVec 5)
  /-- ANDN (R122). -/
  | andn (d : BitVec 5) (a : BitVec 5) (b : BitVec 5)
  /-- SLL (R122). -/
  | sll (d : BitVec 5) (a : BitVec 5) (b : BitVec 5)
  /-- SRL (R122). -/
  | srl (d : BitVec 5) (a : BitVec 5) (b : BitVec 5)
  /-- SRA (R122). -/
  | sra (d : BitVec 5) (a : BitVec 5) (b : BitVec 5)
  /-- ROT (R122). -/
  | rot (d : BitVec 5) (a : BitVec 5) (b : BitVec 5)
  /-- SLT (R122). -/
  | slt (d : BitVec 5) (a : BitVec 5) (b : BitVec 5)
  /-- SLTU (R122). -/
  | sltu (d : BitVec 5) (a : BitVec 5) (b : BitVec 5)
  /-- MIN (R122). -/
  | min (d : BitVec 5) (a : BitVec 5) (b : BitVec 5)
  /-- MAX (R122). -/
  | max (d : BitVec 5) (a : BitVec 5) (b : BitVec 5)
  /-- MINU (R122). -/
  | minu (d : BitVec 5) (a : BitVec 5) (b : BitVec 5)
  /-- MAXU (R122). -/
  | maxu (d : BitVec 5) (a : BitVec 5) (b : BitVec 5)
  /-- MUL (R122). -/
  | mul (d : BitVec 5) (a : BitVec 5) (b : BitVec 5)
  /-- MULH (R122). -/
  | mulh (d : BitVec 5) (a : BitVec 5) (b : BitVec 5)
  /-- MULHU (R122). -/
  | mulhu (d : BitVec 5) (a : BitVec 5) (b : BitVec 5)
  /-- DIV (R123). -/
  | div (d : BitVec 5) (a : BitVec 5) (b : BitVec 5)
  /-- DIVU (R123). -/
  | divu (d : BitVec 5) (a : BitVec 5) (b : BitVec 5)
  /-- REM (R123). -/
  | rem (d : BitVec 5) (a : BitVec 5) (b : BitVec 5)
  /-- REMU (R123). -/
  | remu (d : BitVec 5) (a : BitVec 5) (b : BitVec 5)
  /-- CLZ (R124). -/
  | clz (d : BitVec 5) (a : BitVec 5)
  /-- CTZ (R124). -/
  | ctz (d : BitVec 5) (a : BitVec 5)
  /-- POPC (R124). -/
  | popc (d : BitVec 5) (a : BitVec 5)
  /-- BREV (R124). -/
  | brev (d : BitVec 5) (a : BitVec 5)
  /-- SEXT (R124). -/
  | sext (d : BitVec 5) (a : BitVec 5) (s : BitVec 2)
  /-- ZEXT (R124). -/
  | zext (d : BitVec 5) (a : BitVec 5) (s : BitVec 2)
  /-- FADD (R133). -/
  | fadd (d : BitVec 5) (a : BitVec 5) (b : BitVec 5) (m : BitVec 2)
  /-- FSUB (R133). -/
  | fsub (d : BitVec 5) (a : BitVec 5) (b : BitVec 5) (m : BitVec 2)
  /-- FMUL (R133). -/
  | fmul (d : BitVec 5) (a : BitVec 5) (b : BitVec 5) (m : BitVec 2)
  /-- FMA (R133). -/
  | fma (d : BitVec 5) (a : BitVec 5) (b : BitVec 5) (m : BitVec 2) (c : BitVec 5)
  /-- FMIN (R134). -/
  | fmin (d : BitVec 5) (a : BitVec 5) (b : BitVec 5) (x : BitVec 2)
  /-- FMAX (R134). -/
  | fmax (d : BitVec 5) (a : BitVec 5) (b : BitVec 5) (x : BitVec 2)
  /-- FCMP (R135). -/
  | fcmp (d : BitVec 5) (a : BitVec 5) (b : BitVec 5) (x : BitVec 2) (k : BitVec 2)
  /-- FCVT (R136). -/
  | fcvt (d : BitVec 5) (a : BitVec 5) (m : BitVec 2) (k : BitVec 3)
  /-- ADDI (R125). -/
  | addi (d : BitVec 5) (a : BitVec 5) (i : BitVec 15)
  /-- ANDI (R125). -/
  | andi (d : BitVec 5) (a : BitVec 5) (i : BitVec 15)
  /-- ORI (R125). -/
  | ori (d : BitVec 5) (a : BitVec 5) (i : BitVec 15)
  /-- XORI (R125). -/
  | xori (d : BitVec 5) (a : BitVec 5) (i : BitVec 15)
  /-- SLTI (R125). -/
  | slti (d : BitVec 5) (a : BitVec 5) (i : BitVec 15)
  /-- SLTIU (R125). -/
  | sltiu (d : BitVec 5) (a : BitVec 5) (i : BitVec 15)
  /-- SLLI (R126). -/
  | slli (d : BitVec 5) (a : BitVec 5) (s : BitVec 6)
  /-- SRLI (R126). -/
  | srli (d : BitVec 5) (a : BitVec 5) (s : BitVec 6)
  /-- SRAI (R126). -/
  | srai (d : BitVec 5) (a : BitVec 5) (s : BitVec 6)
  /-- LIH (R127). -/
  | lih (d : BitVec 5) (i : BitVec 20)
  /-- ADDPC (R127). -/
  | addpc (d : BitVec 5) (i : BitVec 20)
  /-- BEQ (R128). -/
  | beq (a : BitVec 5) (b : BitVec 5) (o : BitVec 12)
  /-- BNE (R128). -/
  | bne (a : BitVec 5) (b : BitVec 5) (o : BitVec 12)
  /-- BLT (R128). -/
  | blt (a : BitVec 5) (b : BitVec 5) (o : BitVec 12)
  /-- BGE (R128). -/
  | bge (a : BitVec 5) (b : BitVec 5) (o : BitVec 12)
  /-- BLTU (R128). -/
  | bltu (a : BitVec 5) (b : BitVec 5) (o : BitVec 12)
  /-- BGEU (R128). -/
  | bgeu (a : BitVec 5) (b : BitVec 5) (o : BitVec 12)
  /-- BSE (R131). -/
  | bse (g : BitVec 3) (o : BitVec 12)
  /-- JAL (R129). -/
  | jal (d : BitVec 5) (i : BitVec 20)
  /-- JALR (R129). -/
  | jalr (d : BitVec 5) (a : BitVec 5) (i : BitVec 15)
  /-- LDB (R231). -/
  | ldb (d : BitVec 5) (a : BitVec 5) (s : BitVec 3) (p : BitVec 2) (o : BitVec 7)
  /-- LDBU (R231). -/
  | ldbu (d : BitVec 5) (a : BitVec 5) (s : BitVec 3) (p : BitVec 2) (o : BitVec 7)
  /-- LDH (R231). -/
  | ldh (d : BitVec 5) (a : BitVec 5) (s : BitVec 3) (p : BitVec 2) (o : BitVec 7)
  /-- LDHU (R231). -/
  | ldhu (d : BitVec 5) (a : BitVec 5) (s : BitVec 3) (p : BitVec 2) (o : BitVec 7)
  /-- LDW (R231). -/
  | ldw (d : BitVec 5) (a : BitVec 5) (s : BitVec 3) (p : BitVec 2) (o : BitVec 7)
  /-- LDWU (R231). -/
  | ldwu (d : BitVec 5) (a : BitVec 5) (s : BitVec 3) (p : BitVec 2) (o : BitVec 7)
  /-- LDD (R231). -/
  | ldd (d : BitVec 5) (a : BitVec 5) (s : BitVec 3) (p : BitVec 2) (o : BitVec 7)
  /-- STB (R231). -/
  | stb (a : BitVec 5) (b : BitVec 5) (s : BitVec 3) (p : BitVec 2) (o : BitVec 7)
  /-- STH (R231). -/
  | sth (a : BitVec 5) (b : BitVec 5) (s : BitVec 3) (p : BitVec 2) (o : BitVec 7)
  /-- STW (R231). -/
  | stw (a : BitVec 5) (b : BitVec 5) (s : BitVec 3) (p : BitVec 2) (o : BitVec 7)
  /-- STD (R231). -/
  | std (a : BitVec 5) (b : BitVec 5) (s : BitVec 3) (p : BitVec 2) (o : BitVec 7)
  /-- AMO_ADD_W (R233). -/
  | amoAddW (d : BitVec 5) (a : BitVec 5) (b : BitVec 5) (s : BitVec 3) (c : BitVec 3) (q : BitVec 1) (r : BitVec 1)
  /-- AMO_AND_W (R233). -/
  | amoAndW (d : BitVec 5) (a : BitVec 5) (b : BitVec 5) (s : BitVec 3) (c : BitVec 3) (q : BitVec 1) (r : BitVec 1)
  /-- AMO_OR_W (R233). -/
  | amoOrW (d : BitVec 5) (a : BitVec 5) (b : BitVec 5) (s : BitVec 3) (c : BitVec 3) (q : BitVec 1) (r : BitVec 1)
  /-- AMO_XOR_W (R233). -/
  | amoXorW (d : BitVec 5) (a : BitVec 5) (b : BitVec 5) (s : BitVec 3) (c : BitVec 3) (q : BitVec 1) (r : BitVec 1)
  /-- AMO_MIN_W (R233). -/
  | amoMinW (d : BitVec 5) (a : BitVec 5) (b : BitVec 5) (s : BitVec 3) (c : BitVec 3) (q : BitVec 1) (r : BitVec 1)
  /-- AMO_MAX_W (R233). -/
  | amoMaxW (d : BitVec 5) (a : BitVec 5) (b : BitVec 5) (s : BitVec 3) (c : BitVec 3) (q : BitVec 1) (r : BitVec 1)
  /-- AMO_MINU_W (R233). -/
  | amoMinuW (d : BitVec 5) (a : BitVec 5) (b : BitVec 5) (s : BitVec 3) (c : BitVec 3) (q : BitVec 1) (r : BitVec 1)
  /-- AMO_MAXU_W (R233). -/
  | amoMaxuW (d : BitVec 5) (a : BitVec 5) (b : BitVec 5) (s : BitVec 3) (c : BitVec 3) (q : BitVec 1) (r : BitVec 1)
  /-- AMO_SWAP_W (R233). -/
  | amoSwapW (d : BitVec 5) (a : BitVec 5) (b : BitVec 5) (s : BitVec 3) (c : BitVec 3) (q : BitVec 1) (r : BitVec 1)
  /-- AMO_ADD_D (R233). -/
  | amoAddD (d : BitVec 5) (a : BitVec 5) (b : BitVec 5) (s : BitVec 3) (c : BitVec 3) (q : BitVec 1) (r : BitVec 1)
  /-- AMO_AND_D (R233). -/
  | amoAndD (d : BitVec 5) (a : BitVec 5) (b : BitVec 5) (s : BitVec 3) (c : BitVec 3) (q : BitVec 1) (r : BitVec 1)
  /-- AMO_OR_D (R233). -/
  | amoOrD (d : BitVec 5) (a : BitVec 5) (b : BitVec 5) (s : BitVec 3) (c : BitVec 3) (q : BitVec 1) (r : BitVec 1)
  /-- AMO_XOR_D (R233). -/
  | amoXorD (d : BitVec 5) (a : BitVec 5) (b : BitVec 5) (s : BitVec 3) (c : BitVec 3) (q : BitVec 1) (r : BitVec 1)
  /-- AMO_MIN_D (R233). -/
  | amoMinD (d : BitVec 5) (a : BitVec 5) (b : BitVec 5) (s : BitVec 3) (c : BitVec 3) (q : BitVec 1) (r : BitVec 1)
  /-- AMO_MAX_D (R233). -/
  | amoMaxD (d : BitVec 5) (a : BitVec 5) (b : BitVec 5) (s : BitVec 3) (c : BitVec 3) (q : BitVec 1) (r : BitVec 1)
  /-- AMO_MINU_D (R233). -/
  | amoMinuD (d : BitVec 5) (a : BitVec 5) (b : BitVec 5) (s : BitVec 3) (c : BitVec 3) (q : BitVec 1) (r : BitVec 1)
  /-- AMO_MAXU_D (R233). -/
  | amoMaxuD (d : BitVec 5) (a : BitVec 5) (b : BitVec 5) (s : BitVec 3) (c : BitVec 3) (q : BitVec 1) (r : BitVec 1)
  /-- AMO_SWAP_D (R233). -/
  | amoSwapD (d : BitVec 5) (a : BitVec 5) (b : BitVec 5) (s : BitVec 3) (c : BitVec 3) (q : BitVec 1) (r : BitVec 1)
  /-- CAS_W (R234). -/
  | casW (d : BitVec 5) (a : BitVec 5) (b : BitVec 5) (s : BitVec 3) (c : BitVec 3) (q : BitVec 1) (r : BitVec 1)
  /-- CAS_D (R234). -/
  | casD (d : BitVec 5) (a : BitVec 5) (b : BitVec 5) (s : BitVec 3) (c : BitVec 3) (q : BitVec 1) (r : BitVec 1)
  /-- QSEND (R295). -/
  | qsend (d : BitVec 5) (a : BitVec 5) (b : BitVec 5) (e : BitVec 1) (q : BitVec 3)
  /-- QRECV (R295). -/
  | qrecv (d : BitVec 5) (a : BitVec 5) (b : BitVec 5) (e : BitVec 1) (q : BitVec 3)
  /-- QTEST (R296). -/
  | qtest (d : BitVec 5) (q : BitVec 3)
  /-- GETC (R318). -/
  | getc (d : BitVec 5) (c : BitVec 12)
  /-- SETC (R318). -/
  | setc (d : BitVec 5) (a : BitVec 5) (c : BitVec 12)
  /-- SETCB (R318). -/
  | setcb (d : BitVec 5) (a : BitVec 5) (c : BitVec 12)
  /-- CLRCB (R318). -/
  | clrcb (d : BitVec 5) (a : BitVec 5) (c : BitVec 12)
  /-- TRAP (R326). -/
  | trap (c : BitVec 15)
  /-- RETT (R326). -/
  | rett
  /-- BRK (R326). -/
  | brk
  /-- FLUSHI (R327). -/
  | flushi
  /-- SNAP (R328). -/
  | snap
  /-- SETVL (R141). -/
  | setvl (d : BitVec 5) (a : BitVec 5)
  /-- SETVT (R140). -/
  | setvt (d : BitVec 5) (a : BitVec 5) (m : BitVec 3)
  /-- SETTL (R169). -/
  | settl (d : BitVec 5) (a : BitVec 5)
  /-- WAITS (R298). -/
  | waits (d : BitVec 5) (a : BitVec 5) (b : BitVec 5) (e : BitVec 1) (s : BitVec 9)
  /-- SEMADD (R297). -/
  | semadd (d : BitVec 5) (a : BitVec 5) (r : BitVec 1) (q : BitVec 1) (c : BitVec 3) (s : BitVec 9)
  /-- SEMSET (R297). -/
  | semset (d : BitVec 5) (a : BitVec 5) (r : BitVec 1) (q : BitVec 1) (c : BitVec 3) (s : BitVec 9)
  /-- BARJOIN (R300). -/
  | barjoin (a : BitVec 5)
  /-- BARARV (R300). -/
  | bararv (a : BitVec 5) (c : BitVec 3)
  /-- BARWT (R301). -/
  | barwt (d : BitVec 5) (a : BitVec 5) (b : BitVec 5) (e : BitVec 1) (c : BitVec 3)
  /-- BARAW (R301). -/
  | baraw (d : BitVec 5) (a : BitVec 5) (b : BitVec 5) (e : BitVec 1) (c : BitVec 3)
  /-- LOCK (R302). -/
  | lock (d : BitVec 5) (a : BitVec 5) (b : BitVec 5) (e : BitVec 1) (c : BitVec 3)
  /-- UNLOCK (R303). -/
  | unlock (a : BitVec 5) (c : BitVec 3)
  /-- LDWAIT (R304). -/
  | ldwait (d : BitVec 5) (a : BitVec 5) (b : BitVec 5) (e : BitVec 1) (c : BitVec 3) (k : BitVec 2)
  /-- WAITV (R305). -/
  | waitv (d : BitVec 5) (a : BitVec 5) (b : BitVec 5) (e : BitVec 1) (n : BitVec 4) (m : BitVec 1)
  /-- SLEEP (R306). -/
  | sleep (d : BitVec 5) (b : BitVec 5) (e : BitVec 1)
  /-- YIELD (R307). -/
  | yield (x : BitVec 21)
  /-- WOHOLD (R308). -/
  | wohold (d : BitVec 5) (a : BitVec 5)
  /-- WODROP (R309). -/
  | wodrop (a : BitVec 5)
  /-- FENSV (R224). -/
  | fensv (x : BitVec 22)
  /-- FENVS (R224). -/
  | fenvs (x : BitVec 22)
  /-- FENVV (R224). -/
  | fenvv (x : BitVec 22)
  /-- FENCE (R226). -/
  | fence (d : BitVec 5) (b : BitVec 5) (e : BitVec 1) (c : BitVec 3) (q : BitVec 1) (r : BitVec 1)
  /-- SBAR (R227). -/
  | sbar (d : BitVec 5) (b : BitVec 5) (e : BitVec 1) (s : BitVec 8)
  /-- VADD (R150). -/
  | vadd (d : BitVec 5) (a : BitVec 5) (b : BitVec 5) (k : BitVec 3) (s : BitVec 1)
  /-- VSUB (R150). -/
  | vsub (d : BitVec 5) (a : BitVec 5) (b : BitVec 5) (k : BitVec 3) (s : BitVec 1)
  /-- VRSUB (R150). -/
  | vrsub (d : BitVec 5) (a : BitVec 5) (b : BitVec 5) (k : BitVec 3) (s : BitVec 1)
  /-- VMUL (R150). -/
  | vmul (d : BitVec 5) (a : BitVec 5) (b : BitVec 5) (k : BitVec 3) (s : BitVec 1)
  /-- VMULH (R150). -/
  | vmulh (d : BitVec 5) (a : BitVec 5) (b : BitVec 5) (k : BitVec 3) (s : BitVec 1)
  /-- VMA (R150). -/
  | vma (d : BitVec 5) (a : BitVec 5) (b : BitVec 5) (k : BitVec 3) (s : BitVec 1)
  /-- VMS (R150). -/
  | vms (d : BitVec 5) (a : BitVec 5) (b : BitVec 5) (k : BitVec 3) (s : BitVec 1)
  /-- VMIN (R150). -/
  | vmin (d : BitVec 5) (a : BitVec 5) (b : BitVec 5) (k : BitVec 3) (s : BitVec 1)
  /-- VMAX (R150). -/
  | vmax (d : BitVec 5) (a : BitVec 5) (b : BitVec 5) (k : BitVec 3) (s : BitVec 1)
  /-- VABS (R150). -/
  | vabs (d : BitVec 5) (a : BitVec 5) (k : BitVec 3)
  /-- VNEG (R150). -/
  | vneg (d : BitVec 5) (a : BitVec 5) (k : BitVec 3)
  /-- VAND (R152). -/
  | vand (d : BitVec 5) (a : BitVec 5) (b : BitVec 5) (k : BitVec 3) (s : BitVec 1)
  /-- VOR (R152). -/
  | vor (d : BitVec 5) (a : BitVec 5) (b : BitVec 5) (k : BitVec 3) (s : BitVec 1)
  /-- VXOR (R152). -/
  | vxor (d : BitVec 5) (a : BitVec 5) (b : BitVec 5) (k : BitVec 3) (s : BitVec 1)
  /-- VNOT (R152). -/
  | vnot (d : BitVec 5) (a : BitVec 5) (k : BitVec 3)
  /-- VSLL (R151). -/
  | vsll (d : BitVec 5) (a : BitVec 5) (b : BitVec 5) (k : BitVec 3) (s : BitVec 1)
  /-- VSRL (R151). -/
  | vsrl (d : BitVec 5) (a : BitVec 5) (b : BitVec 5) (k : BitVec 3) (s : BitVec 1)
  /-- VSRA (R151). -/
  | vsra (d : BitVec 5) (a : BitVec 5) (b : BitVec 5) (k : BitVec 3) (s : BitVec 1)
  /-- VCLIP (R151). -/
  | vclip (d : BitVec 5) (a : BitVec 5) (b : BitVec 5) (k : BitVec 3) (s : BitVec 1)
  /-- VSEL (R152). -/
  | vsel (d : BitVec 5) (a : BitVec 5) (b : BitVec 5) (k : BitVec 3) (s : BitVec 1)
  /-- VCVT (R156). -/
  | vcvt (d : BitVec 5) (a : BitVec 5) (k : BitVec 3)
  /-- VCVT_SAT (R156). -/
  | vcvtSat (d : BitVec 5) (a : BitVec 5) (k : BitVec 3)
  /-- VRCP (R155). -/
  | vrcp (d : BitVec 5) (a : BitVec 5) (k : BitVec 3)
  /-- VRSQ (R155). -/
  | vrsq (d : BitVec 5) (a : BitVec 5) (k : BitVec 3)
  /-- VSQRT (R154). -/
  | vsqrt (d : BitVec 5) (a : BitVec 5) (k : BitVec 3)
  /-- VDIV (R153). -/
  | vdiv (d : BitVec 5) (a : BitVec 5) (b : BitVec 5) (k : BitVec 3) (s : BitVec 1)
  /-- VEXP2 (R155). -/
  | vexp2 (d : BitVec 5) (a : BitVec 5) (k : BitVec 3)
  /-- VLOG2 (R155). -/
  | vlog2 (d : BitVec 5) (a : BitVec 5) (k : BitVec 3)
  /-- VSIN (R154). -/
  | vsin (d : BitVec 5) (a : BitVec 5) (k : BitVec 3)
  /-- VCOS (R154). -/
  | vcos (d : BitVec 5) (a : BitVec 5) (k : BitVec 3)
  /-- VCMP_EQ (R153). -/
  | vcmpEq (d : BitVec 3) (a : BitVec 5) (b : BitVec 5) (k : BitVec 3) (s : BitVec 1)
  /-- VCMP_NE (R153). -/
  | vcmpNe (d : BitVec 3) (a : BitVec 5) (b : BitVec 5) (k : BitVec 3) (s : BitVec 1)
  /-- VCMP_LT (R153). -/
  | vcmpLt (d : BitVec 3) (a : BitVec 5) (b : BitVec 5) (k : BitVec 3) (s : BitVec 1)
  /-- VCMP_LE (R153). -/
  | vcmpLe (d : BitVec 3) (a : BitVec 5) (b : BitVec 5) (k : BitVec 3) (s : BitVec 1)
  /-- VCMP_GT (R153). -/
  | vcmpGt (d : BitVec 3) (a : BitVec 5) (b : BitVec 5) (k : BitVec 3) (s : BitVec 1)
  /-- VCMP_GE (R153). -/
  | vcmpGe (d : BitVec 3) (a : BitVec 5) (b : BitVec 5) (k : BitVec 3) (s : BitVec 1)
  /-- VADD_SAT (R150). -/
  | vaddSat (d : BitVec 5) (a : BitVec 5) (b : BitVec 5) (k : BitVec 3) (s : BitVec 1)
  /-- VSUB_SAT (R150). -/
  | vsubSat (d : BitVec 5) (a : BitVec 5) (b : BitVec 5) (k : BitVec 3) (s : BitVec 1)
  /-- VRSUB_SAT (R150). -/
  | vrsubSat (d : BitVec 5) (a : BitVec 5) (b : BitVec 5) (k : BitVec 3) (s : BitVec 1)
  /-- KAND (R157). -/
  | kand (d : BitVec 4) (a : BitVec 4) (b : BitVec 4)
  /-- KOR (R157). -/
  | kor (d : BitVec 4) (a : BitVec 4) (b : BitVec 4)
  /-- KXOR (R157). -/
  | kxor (d : BitVec 4) (a : BitVec 4) (b : BitVec 4)
  /-- KANDN (R157). -/
  | kandn (d : BitVec 4) (a : BitVec 4) (b : BitVec 4)
  /-- KNOT (R157). -/
  | knot (d : BitVec 4) (a : BitVec 4)
  /-- KPOPC (R157). -/
  | kpopc (d : BitVec 5) (a : BitVec 4)
  /-- KFIRST (R157). -/
  | kfirst (d : BitVec 5) (a : BitVec 4)
  /-- KMOV (R157). -/
  | kmov (d : BitVec 4) (a : BitVec 4)
  /-- VMOV (R158). -/
  | vmov (d : BitVec 5) (a : BitVec 5) (k : BitVec 3)
  /-- VBCAST (R158). -/
  | vbcast (d : BitVec 5) (b : BitVec 5) (k : BitVec 3)
  /-- VEXT (R158). -/
  | vext (d : BitVec 5) (a : BitVec 5) (b : BitVec 5)
  /-- VINS (R158). -/
  | vins (d : BitVec 5) (a : BitVec 5) (b : BitVec 5)
  /-- VSLUP (R159). -/
  | vslup (d : BitVec 5) (a : BitVec 5) (b : BitVec 5) (k : BitVec 3)
  /-- VSLDN (R159). -/
  | vsldn (d : BitVec 5) (a : BitVec 5) (b : BitVec 5) (k : BitVec 3)
  /-- VPERM (R159). -/
  | vperm (d : BitVec 5) (a : BitVec 5) (b : BitVec 5) (k : BitVec 3)
  /-- VPAIR (R159). -/
  | vpair (d : BitVec 5) (a : BitVec 5) (k : BitVec 3)
  /-- VCMPRS (R160). -/
  | vcmprs (d : BitVec 5) (a : BitVec 5) (k : BitVec 3)
  /-- VEXPND (R160). -/
  | vexpnd (d : BitVec 5) (a : BitVec 5) (k : BitVec 3)
  /-- VIOTA (R160). -/
  | viota (d : BitVec 5) (k : BitVec 3)
  /-- VTAG (R142). -/
  | vtag (d : BitVec 5) (t : BitVec 6)
  /-- VRED (R161). -/
  | vred (d : BitVec 5) (a : BitVec 5) (k : BitVec 3) (o : BitVec 3)
  /-- VRED_SEG (R161). -/
  | vredSeg (d : BitVec 5) (a : BitVec 5) (b : BitVec 3) (k : BitVec 3) (o : BitVec 3)
  /-- VSCAN (R161). -/
  | vscan (d : BitVec 5) (a : BitVec 5) (k : BitVec 3) (o : BitVec 3)
  /-- VSCAN_SEG (R161). -/
  | vscanSeg (d : BitVec 5) (a : BitVec 5) (b : BitVec 3) (k : BitVec 3) (o : BitVec 3)
  /-- VSETVF (R162). -/
  | vsetvf (d : BitVec 5) (a : BitVec 5) (b : BitVec 3) (k : BitVec 3)
  /-- VISECT (R163). -/
  | visect (d : BitVec 3) (a : BitVec 5) (b : BitVec 5) (k : BitVec 3)
  /-- VSPLIT (R164). -/
  | vsplit (d : BitVec 5) (a : BitVec 5) (b : BitVec 5) (k : BitVec 3)
  /-- VLD (R236). -/
  | vld (d : BitVec 5) (a : BitVec 5) (s : BitVec 3) (p : BitVec 2) (k : BitVec 3)
  /-- VLDS (R236). -/
  | vlds (d : BitVec 5) (a : BitVec 5) (b : BitVec 5) (s : BitVec 3) (p : BitVec 2) (k : BitVec 3)
  /-- VLDX (R236). -/
  | vldx (d : BitVec 5) (a : BitVec 5) (b : BitVec 5) (s : BitVec 3) (p : BitVec 2) (k : BitVec 3)
  /-- VLDW (R238). -/
  | vldw (d : BitVec 5) (a : BitVec 5) (b : BitVec 5) (s : BitVec 3) (p : BitVec 2) (k : BitVec 3)
  /-- VST (R236). -/
  | vst (d : BitVec 5) (a : BitVec 5) (s : BitVec 3) (p : BitVec 2) (k : BitVec 3)
  /-- VSTS (R236). -/
  | vsts (d : BitVec 5) (a : BitVec 5) (b : BitVec 5) (s : BitVec 3) (p : BitVec 2) (k : BitVec 3)
  /-- VSTX (R236). -/
  | vstx (d : BitVec 5) (a : BitVec 5) (b : BitVec 5) (s : BitVec 3) (p : BitVec 2) (k : BitVec 3)
  /-- VSCAT (R239). -/
  | vscat (d : BitVec 5) (a : BitVec 5) (b : BitVec 5) (s : BitVec 3) (k : BitVec 3) (o : BitVec 2)
  /-- ACCWIN (R240). -/
  | accwin (d : BitVec 5) (a : BitVec 5)
  /-- VACC (R241). -/
  | vacc (d : BitVec 5) (a : BitVec 5) (o : BitVec 2)
  /-- WMERGE (R242). -/
  | wmerge (a : BitVec 5) (s : BitVec 3) (p : BitVec 2) (o : BitVec 2)
  /-- VBIND (R244). -/
  | vbind (d : BitVec 5) (s : BitVec 3)
  /-- VUNBIND (R244). -/
  | vunbind (d : BitVec 5)
  /-- XCOPY (R248). -/
  | xcopy (d : BitVec 5) (a : BitVec 5) (c : BitVec 3) (q : BitVec 1) (r : BitVec 1)
  /-- DCOPY (R249). -/
  | dcopy (d : BitVec 5) (a : BitVec 5) (c : BitVec 3) (q : BitVec 1) (r : BitVec 1)
  /-- DFILL (R249). -/
  | dfill (d : BitVec 5) (a : BitVec 5) (c : BitVec 3) (q : BitVec 1) (r : BitVec 1)
  /-- TLOAD (R171). -/
  | tload (a : BitVec 5) (b : BitVec 5)
  /-- MMROW (R180). -/
  | mmrow (d : BitVec 5) (a : BitVec 5) (t : BitVec 1) (k : BitVec 3)
  /-- MMROWS (R181). -/
  | mmrows (d : BitVec 5) (a : BitVec 5) (m : BitVec 3) (t : BitVec 1) (k : BitVec 3)
  /-- ACCZ (R176). -/
  | accz (d : BitVec 5) (k : BitVec 3)
  /-- ACCRD (R178). -/
  | accrd (d : BitVec 5) (a : BitVec 5) (b : BitVec 5) (k : BitVec 3)
  /-- ACCWR (R177). -/
  | accwr (d : BitVec 5) (a : BitVec 5) (k : BitVec 3)
  /-- MXQ (R172). -/
  | mxq (d : BitVec 5) (a : BitVec 5)
  /-- MXS (R173). -/
  | mxs (a : BitVec 5)
  /-- MXD (R174). -/
  | mxd (d : BitVec 5) (a : BitVec 5)
  /-- C_ADD (R88). -/
  | cAdd (a : BitVec 5) (b : BitVec 5)
  /-- C_SUB (R88). -/
  | cSub (a : BitVec 5) (b : BitVec 5)
  /-- C_AND (R88). -/
  | cAnd (a : BitVec 5) (b : BitVec 5)
  /-- C_OR (R88). -/
  | cOr (a : BitVec 5) (b : BitVec 5)
  /-- C_XOR (R88). -/
  | cXor (a : BitVec 5) (b : BitVec 5)
  /-- C_MUL (R88). -/
  | cMul (a : BitVec 5) (b : BitVec 5)
  /-- C_ADDI (R139). -/
  | cAddi (a : BitVec 5) (i : BitVec 5)
  /-- C_ANDI (R139). -/
  | cAndi (a : BitVec 5) (i : BitVec 5)
  /-- C_SLLI (R139). -/
  | cSlli (a : BitVec 5) (i : BitVec 5)
  /-- C_SRLI (R139). -/
  | cSrli (a : BitVec 5) (i : BitVec 5)
  /-- C_SRAI (R139). -/
  | cSrai (a : BitVec 5) (i : BitVec 5)
  /-- C_MVL (R88). -/
  | cMvl (a : BitVec 5)
  /-- C_LDW (R139). -/
  | cLdw (a : BitVec 5) (i : BitVec 5)
  /-- C_LDD (R139). -/
  | cLdd (a : BitVec 5) (i : BitVec 5)
  /-- C_STW (R139). -/
  | cStw (a : BitVec 5) (i : BitVec 5)
  /-- C_STD (R139). -/
  | cStd (a : BitVec 5) (i : BitVec 5)
  /-- C_BEQZ (R139). -/
  | cBeqz (o : BitVec 10)
  /-- C_BNEZ (R139). -/
  | cBnez (o : BitVec 10)
  /-- C_SLT (R88). -/
  | cSlt (a : BitVec 5) (b : BitVec 5)
  /-- C_SLTU (R88). -/
  | cSltu (a : BitVec 5) (b : BitVec 5)
  /-- C_MIN (R88). -/
  | cMin (a : BitVec 5) (b : BitVec 5)
  /-- C_MAX (R88). -/
  | cMax (a : BitVec 5) (b : BitVec 5)
  /-- C_JR (R139). -/
  | cJr (i : BitVec 10)
  /-- C_SEXTW (R88). -/
  | cSextw (a : BitVec 5)
  /-- STALL_RELEASE (R41). -/
  | stallRelease (hart : Nat)
  /-- LOAD_DATA_RETURN (R232). -/
  | loadDataReturn (req : Nat)
  /-- STORE_PERFORMED (R232). -/
  | storePerformed (req : Nat)
  /-- PEER_COMPLETION (R212). -/
  | peerCompletion (req : Nat)
  /-- VECTOR_COMPLETE (R53). -/
  | vectorComplete (pair : Nat)
  /-- VTYPE_CHANGE_POINT (R107). -/
  | vtypeChangePoint (pair : Nat)
  /-- FLUSHI_INVALIDATE (R327). -/
  | flushiInvalidate (hart : Nat)
  /-- XLINV_WRITE (R202). -/
  | xlinvWrite (hart : Nat) (v : Dword)
  /-- XLINV_COMPLETE (R202). -/
  | xlinvComplete (hart : Nat)
  /-- SRSEED_WRITE (R113). -/
  | srseedWrite (hart : Nat) (v : Dword)
  /-- IEND_WRITE (R319). -/
  | iendWrite (hart : Nat) (v : Dword)
  /-- HART_END (R319). -/
  | hartEnd (hart : Nat)
  /-- PRIO_WRITE (R270). -/
  | prioWrite (hart : Nat) (v : Dword)
  /-- WCEIL_WRITE (R259). -/
  | wceilWrite (hart : Nat) (v : Dword)
  /-- MCEIL_WRITE (R259). -/
  | mceilWrite (hart : Nat) (v : Dword)
  /-- SEMWIN_WRITE (R313). -/
  | semwinWrite (hart : Nat) (v : Dword)
  /-- KEY_GENERATE (R314). -/
  | keyGenerate (ctx : Nat)
  /-- KEY_ERASE (R314). -/
  | keyErase (ctx : Nat)
  /-- SHARED_KEY_GENERATE (R314). -/
  | sharedKeyGenerate
  /-- EINJ_ARM (R351). -/
  | einjArm
  /-- CREG_WRITE (R318). -/
  | cregWrite (hart : Nat) (creg : BitVec 12) (v : Dword)
  /-- MMIO_REGISTER_WRITE (R355). -/
  | mmioRegisterWrite (off : Nat) (size : Nat) (v : Dword)
  /-- ASYNC_TRAP_TAKE (R322). -/
  | asyncTrapTake (hart : Nat)
  /-- UMPIRE_ANSWER (R257). -/
  | umpireAnswer (hart : Nat)
  /-- UMPIRE_REMOTE_MESSAGE (R267): `key` is the place in bits 71:0, the kind of message in 75:72, a priority in 79:76. -/
  | umpireRemoteMessage (hart : Nat) (key : Nat) (insert : Bool)
  /-- UMPIRE_SHARE_REFILL (R265). -/
  | umpireShareRefill (die : Nat)
  /-- WAIT_SATISFIED (R257). -/
  | waitSatisfied (hart : Nat)
  /-- WAIT_TIMEOUT (R257). -/
  | waitTimeout (hart : Nat)
  /-- WITHDRAWAL_ANSWER (R301). -/
  | withdrawalAnswer (hart : Nat)
  /-- PAGE_RESPONSE (R198). -/
  | pageResponse (pasid : Nat) (page : Nat) (perm : Nat) (ok : Bool)
  /-- ATS_INVALIDATE (R197). -/
  | atsInvalidate (pasid : Nat) (page : Nat) (n : Nat)
  /-- TCE_COMMAND_START (R250). -/
  | tceCommandStart (cmd : Nat)
  /-- TCE_COMMAND_FINISH (R250). -/
  | tceCommandFinish (cmd : Nat)
  /-- KICK_TAIL_WRITE (R361). -/
  | kickTailWrite (ctx : Nat) (v : Word)
  /-- LAUNCH_RECORD_READ (R34). -/
  | launchRecordRead (ctx : Nat)
  /-- LAUNCH_READY (R37). -/
  | launchReady (ltag : Nat)
  /-- LAUNCH_DEPERR (R38). -/
  | launchDeperr (ltag : Nat)
  /-- LAUNCH_PACKET (R280). -/
  | launchPacket (ltag : Nat)
  /-- PREEMPT_REQUEST (R285). -/
  | preemptRequest (ltag : Nat) (idx : Nat)
  /-- COOPERATIVE_SAVE (R286). -/
  | cooperativeSave (ltag : Nat) (idx : Nat)
  /-- FORCED_SAVE (R287). -/
  | forcedSave (ltag : Nat) (idx : Nat)
  /-- ITEM_REBIND (R284). -/
  | itemRebind (ltag : Nat) (idx : Nat)
  /-- ITEM_RETIRE (R346). -/
  | itemRetire (ltag : Nat) (idx : Nat)
  /-- LAUNCH_COMPLETION_WRITE (R35). -/
  | launchCompletionWrite (ltag : Nat)
  /-- CTXNEW (R357). -/
  | ctxnew
  /-- CTXEND (R357). -/
  | ctxend
  /-- QSET (R357). -/
  | qset
  /-- QSTOP (R357). -/
  | qstop
  /-- SEMWIN (R357). -/
  | semwin
  /-- CANCEL (R357). -/
  | cancel
  /-- HALT (R334). -/
  | halt
  /-- RESUME (R334). -/
  | resume
  /-- ATTEST (R370). -/
  | attest
  /-- EVRING (R357). -/
  | evring
  /-- LINKRATE (R357). -/
  | linkrate
  /-- PKGCFG (R357). -/
  | pkgcfg
  /-- CEIL (R357). -/
  | ceil
  /-- QUOTA (R357). -/
  | quota
  /-- SNAPREAD (R357). -/
  | snapread
  /-- MAILBOX_BADOP (R357). -/
  | mailboxBadop
  /-- MAILBOX_COMPLETE (R356). -/
  | mailboxComplete
  /-- EVHEAD_WRITE (R358). -/
  | evheadWrite (v : Word)
  /-- CPC_QUIESCE (R373). -/
  | cpcQuiesce (clus : Nat)
  /-- CPC_RETAIN (R373). -/
  | cpcRetain (clus : Nat)
  /-- CPC_CLKGATE (R373). -/
  | cpcClkgate (clus : Nat)
  /-- CPC_RAILOFF (R373). -/
  | cpcRailoff (clus : Nat)
  /-- CPC_COMMAND_DONE (R373). -/
  | cpcCommandDone (clus : Nat)
  /-- CPC_WAKE (R374). -/
  | cpcWake (clus : Nat)
  /-- CPC_WAKE_DONE (R374). -/
  | cpcWakeDone (clus : Nat)
  /-- CPC_RAIL_TIMEOUT (R374). -/
  | cpcRailTimeout (clus : Nat)
  /-- SNAPTRG_N (R376). -/
  | snaptrgN
  /-- SNAPCTL_REL (R377). -/
  | snapctlRel
  /-- PACKAGE_RESET (R368). -/
  | packageReset
  /-- GROUP_RESET (R353). -/
  | groupReset (n : Nat)
  /-- WATCHDOG_EXPIRY (R336). -/
  | watchdogExpiry
  /-- THERMAL_TRIP (R336). -/
  | thermalTrip
  /-- LINK_FAILURE (R354). -/
  | linkFailure (port : Nat) (reach : Nat)
  /-- HW_ERROR_DETECTED (R337). -/
  | hwErrorDetected (unit : Nat) (inst : Nat) (addr : Nat) (unc : Bool) (hart : Nat)
  /-- SNAPOUT_N_PULSE_END (R376). -/
  | snapoutNPulseEnd
  deriving DecidableEq, Repr

end Sys2Proof
end

