-- ==== Sys2Proof/WellFormed.lean ====
section
/-! DEFINITION. Which field values the encoding tables accept beyond the fixed bits of a row
(spec/03_encoding.md R59-R88); any other value is an encoding with the fate ILL. -/
namespace Sys2Proof

/-- SCOPE 7 has the fate ILL where the scope is read, that is where AQ or RL is set (R68, R73, R84). -/
def scopeOk (r q : BitVec 1) (c : BitVec 3) : Bool := (r = 0 && q = 0) || c ≠ 7

/-- A mask field of four bits names k0-k7 or kp (R78). -/
def maskOk (a : BitVec 4) : Bool := a.toNat ≤ 8

/-- kp may not be the destination of this mask instruction (R78). -/
def maskDestOk (d : BitVec 4) : Bool := d.toNat ≤ 7

/-- The legal operand codes of VTAG (R86). -/
def tagOk (t : BitVec 6) : Bool := t.toNat ≤ 0x26 || (0x28 ≤ t.toNat && t.toNat ≤ 0x2B)

/-- The operation codes of VRS (R80). -/
def redOk (o : BitVec 3) : Bool := o.toNat ≤ 5

/-- Whether the fields of an instruction are ones the tables accept. -/
def Instr.wf : Instr → Bool
  | .sext _ _ s | .zext _ _ s => s ≠ 3
  | .fcvt _ _ _ k => k.toNat ≤ 5
  | .amoAddW _ _ _ _ c q r | .amoAndW _ _ _ _ c q r | .amoOrW _ _ _ _ c q r | .amoXorW _ _ _ _ c q r
  | .amoMinW _ _ _ _ c q r | .amoMaxW _ _ _ _ c q r | .amoMinuW _ _ _ _ c q r | .amoMaxuW _ _ _ _ c q r
  | .amoSwapW _ _ _ _ c q r | .amoAddD _ _ _ _ c q r | .amoAndD _ _ _ _ c q r | .amoOrD _ _ _ _ c q r
  | .amoXorD _ _ _ _ c q r | .amoMinD _ _ _ _ c q r | .amoMaxD _ _ _ _ c q r | .amoMinuD _ _ _ _ c q r
  | .amoMaxuD _ _ _ _ c q r | .amoSwapD _ _ _ _ c q r | .casW _ _ _ _ c q r | .casD _ _ _ _ c q r =>
    scopeOk r q c
  | .qrecv d a _ _ _ => d = 0 || d ≠ a
  | .setvt _ _ m => m.toNat ≤ 4
  | .settl d a => d.toNat ≠ 0 && d.toNat < 30 && a.toNat ≠ 0 && a.toNat < 30
  | .semadd _ _ r q c _ | .semset _ _ r q c _ => scopeOk r q c
  | .bararv _ c | .unlock _ c => c ≠ 7
  | .barwt _ _ _ _ c | .baraw _ _ _ _ c | .lock _ _ _ _ c => c ≠ 7
  | .ldwait _ _ _ _ c k => c ≠ 7 && k ≠ 3
  | .fence _ _ _ c q r => (r ≠ 0 || q ≠ 0) && c ≠ 7
  | .sbar _ _ _ s => s ≠ 0
  | .vsel _ _ _ k _ => k ≠ 0
  | .kand d a b => maskOk d && maskOk a && maskOk b
  | .kandn d a b => maskOk d && maskOk a && maskOk b
  | .kor d a b | .kxor d a b => maskDestOk d && maskOk a && maskOk b
  | .knot d a => maskDestOk d && maskOk a
  | .kmov d a => maskOk d && maskOk a
  | .kpopc _ a | .kfirst _ a => maskOk a
  | .vslup d a _ _ | .vsldn d a _ _ => d ≠ a
  | .vperm d a b _ => d ≠ a && d ≠ b
  | .vcmprs d a k | .vexpnd d a k => k ≠ 0 && d ≠ a
  | .viota _ k => k ≠ 0
  | .vtag _ t => tagOk t
  | .vred _ _ _ o | .vscan _ _ _ o => redOk o
  | .vredSeg _ _ _ _ o | .vscanSeg _ _ _ _ o => redOk o
  | .vsetvf _ _ b k => k ≠ 0 && b ≠ k
  | .vldx d _ b _ _ _ => d ≠ b
  | .vldw d _ b _ _ _ => d.toNat ≠ 31 && d ≠ b && d.toNat + 1 ≠ b.toNat
  | .vscat _ _ _ _ _ o => o ≠ 3
  | .vacc _ _ o | .wmerge _ _ _ o => o ≠ 3
  | .xcopy _ _ c q r | .dcopy _ _ c q r | .dfill _ _ c q r => scopeOk r q c
  | .cAdd a b => a ≠ 0 || b ≠ 0
  | _ => true

end Sys2Proof
end

