-- ==== Sys2Proof/Decode.lean ====
section
/-! DEFINITION. The decoder, total on any bytes, and the encoder (spec/03_encoding.md R57-R88). The rows are
those of the spec's encoding tables: a mask and the bits it must find; fields marked ign lie outside the mask. -/
namespace Sys2Proof

/-- One row of an encoding table: the bits a word must hold under the mask, and the instruction then read. -/
structure DecRow (n : Nat) where
  mask : BitVec n
  bits : BitVec n
  read : BitVec n → Instr

/-- The field of `k` bits that begins at bit `lo`. -/
def fieldAt {n : Nat} (w : BitVec n) (lo k : Nat) : BitVec k := w.extractLsb' lo k

/-- Rows with low bits 0x3. -/
def rows03Part0 : List (DecRow 32) :=
  [ ⟨0xFFC0007F, 0x00000003, fun w => .add (fieldAt w 7 5) (fieldAt w 12 5) (fieldAt w 17 5)⟩
  , ⟨0xFFC0007F, 0x00400003, fun w => .sub (fieldAt w 7 5) (fieldAt w 12 5) (fieldAt w 17 5)⟩
  , ⟨0xFFC0007F, 0x00800003, fun w => .and (fieldAt w 7 5) (fieldAt w 12 5) (fieldAt w 17 5)⟩
  , ⟨0xFFC0007F, 0x00C00003, fun w => .or (fieldAt w 7 5) (fieldAt w 12 5) (fieldAt w 17 5)⟩
  , ⟨0xFFC0007F, 0x01000003, fun w => .xor (fieldAt w 7 5) (fieldAt w 12 5) (fieldAt w 17 5)⟩
  , ⟨0xFFC0007F, 0x01400003, fun w => .andn (fieldAt w 7 5) (fieldAt w 12 5) (fieldAt w 17 5)⟩
  , ⟨0xFFC0007F, 0x01800003, fun w => .sll (fieldAt w 7 5) (fieldAt w 12 5) (fieldAt w 17 5)⟩
  , ⟨0xFFC0007F, 0x01C00003, fun w => .srl (fieldAt w 7 5) (fieldAt w 12 5) (fieldAt w 17 5)⟩
  , ⟨0xFFC0007F, 0x02000003, fun w => .sra (fieldAt w 7 5) (fieldAt w 12 5) (fieldAt w 17 5)⟩
  , ⟨0xFFC0007F, 0x02400003, fun w => .rot (fieldAt w 7 5) (fieldAt w 12 5) (fieldAt w 17 5)⟩
  , ⟨0xFFC0007F, 0x02800003, fun w => .slt (fieldAt w 7 5) (fieldAt w 12 5) (fieldAt w 17 5)⟩
  , ⟨0xFFC0007F, 0x02C00003, fun w => .sltu (fieldAt w 7 5) (fieldAt w 12 5) (fieldAt w 17 5)⟩ ]

/-- Rows with low bits 0x3. -/
def rows03Part1 : List (DecRow 32) :=
  [ ⟨0xFFC0007F, 0x03000003, fun w => .min (fieldAt w 7 5) (fieldAt w 12 5) (fieldAt w 17 5)⟩
  , ⟨0xFFC0007F, 0x03400003, fun w => .max (fieldAt w 7 5) (fieldAt w 12 5) (fieldAt w 17 5)⟩
  , ⟨0xFFC0007F, 0x03800003, fun w => .minu (fieldAt w 7 5) (fieldAt w 12 5) (fieldAt w 17 5)⟩
  , ⟨0xFFC0007F, 0x03C00003, fun w => .maxu (fieldAt w 7 5) (fieldAt w 12 5) (fieldAt w 17 5)⟩
  , ⟨0xFFC0007F, 0x04000003, fun w => .mul (fieldAt w 7 5) (fieldAt w 12 5) (fieldAt w 17 5)⟩
  , ⟨0xFFC0007F, 0x04400003, fun w => .mulh (fieldAt w 7 5) (fieldAt w 12 5) (fieldAt w 17 5)⟩
  , ⟨0xFFC0007F, 0x04800003, fun w => .mulhu (fieldAt w 7 5) (fieldAt w 12 5) (fieldAt w 17 5)⟩
  , ⟨0xFFC0007F, 0x04C00003, fun w => .div (fieldAt w 7 5) (fieldAt w 12 5) (fieldAt w 17 5)⟩
  , ⟨0xFFC0007F, 0x05000003, fun w => .divu (fieldAt w 7 5) (fieldAt w 12 5) (fieldAt w 17 5)⟩
  , ⟨0xFFC0007F, 0x05400003, fun w => .rem (fieldAt w 7 5) (fieldAt w 12 5) (fieldAt w 17 5)⟩
  , ⟨0xFFC0007F, 0x05800003, fun w => .remu (fieldAt w 7 5) (fieldAt w 12 5) (fieldAt w 17 5)⟩
  , ⟨0xFFFE007F, 0x08000003, fun w => .clz (fieldAt w 7 5) (fieldAt w 12 5)⟩ ]

/-- Rows with low bits 0x3. -/
def rows03Part2 : List (DecRow 32) :=
  [ ⟨0xFFFE007F, 0x08400003, fun w => .ctz (fieldAt w 7 5) (fieldAt w 12 5)⟩
  , ⟨0xFFFE007F, 0x08800003, fun w => .popc (fieldAt w 7 5) (fieldAt w 12 5)⟩
  , ⟨0xFFFE007F, 0x08C00003, fun w => .brev (fieldAt w 7 5) (fieldAt w 12 5)⟩
  , ⟨0xFFF8007F, 0x09000003, fun w => .sext (fieldAt w 7 5) (fieldAt w 12 5) (fieldAt w 17 2)⟩
  , ⟨0xFFF8007F, 0x09400003, fun w => .zext (fieldAt w 7 5) (fieldAt w 12 5) (fieldAt w 17 2)⟩ ]

/-- All rows with low bits 0x3. -/
def rows03 : List (DecRow 32) := rows03Part0 ++ rows03Part1 ++ rows03Part2

/-- Rows with low bits 0x5. -/
def rows05 : List (DecRow 32) :=
  [ ⟨0xF9C0007F, 0x00000005, fun w => .fadd (fieldAt w 7 5) (fieldAt w 12 5) (fieldAt w 17 5) (fieldAt w 25 2)⟩
  , ⟨0xF9C0007F, 0x00400005, fun w => .fsub (fieldAt w 7 5) (fieldAt w 12 5) (fieldAt w 17 5) (fieldAt w 25 2)⟩
  , ⟨0xF9C0007F, 0x00800005, fun w => .fmul (fieldAt w 7 5) (fieldAt w 12 5) (fieldAt w 17 5) (fieldAt w 25 2)⟩
  , ⟨0x01C0007F, 0x00C00005, fun w => .fma (fieldAt w 7 5) (fieldAt w 12 5) (fieldAt w 17 5) (fieldAt w 25 2) (fieldAt w 27 5)⟩
  , ⟨0xF9C0007F, 0x01000005, fun w => .fmin (fieldAt w 7 5) (fieldAt w 12 5) (fieldAt w 17 5) (fieldAt w 25 2)⟩
  , ⟨0xF9C0007F, 0x01400005, fun w => .fmax (fieldAt w 7 5) (fieldAt w 12 5) (fieldAt w 17 5) (fieldAt w 25 2)⟩
  , ⟨0xE1C0007F, 0x01800005, fun w => .fcmp (fieldAt w 7 5) (fieldAt w 12 5) (fieldAt w 17 5) (fieldAt w 25 2) (fieldAt w 27 2)⟩
  , ⟨0xC1FE007F, 0x01C00005, fun w => .fcvt (fieldAt w 7 5) (fieldAt w 12 5) (fieldAt w 25 2) (fieldAt w 27 3)⟩ ]

/-- Rows with low bits 0x7. -/
def rows07 : List (DecRow 32) :=
  [ ⟨0x0000007F, 0x00000007, fun w => .addi (fieldAt w 7 5) (fieldAt w 12 5) (fieldAt w 17 15)⟩ ]

/-- Rows with low bits 0x9. -/
def rows09 : List (DecRow 32) :=
  [ ⟨0x0000007F, 0x00000009, fun w => .andi (fieldAt w 7 5) (fieldAt w 12 5) (fieldAt w 17 15)⟩ ]

/-- Rows with low bits 0xb. -/
def rows0B : List (DecRow 32) :=
  [ ⟨0x0000007F, 0x0000000B, fun w => .ori (fieldAt w 7 5) (fieldAt w 12 5) (fieldAt w 17 15)⟩ ]

/-- Rows with low bits 0xd. -/
def rows0D : List (DecRow 32) :=
  [ ⟨0x0000007F, 0x0000000D, fun w => .xori (fieldAt w 7 5) (fieldAt w 12 5) (fieldAt w 17 15)⟩ ]

/-- Rows with low bits 0xf. -/
def rows0F : List (DecRow 32) :=
  [ ⟨0x0000007F, 0x0000000F, fun w => .slti (fieldAt w 7 5) (fieldAt w 12 5) (fieldAt w 17 15)⟩ ]

/-- Rows with low bits 0x11. -/
def rows11 : List (DecRow 32) :=
  [ ⟨0x0000007F, 0x00000011, fun w => .sltiu (fieldAt w 7 5) (fieldAt w 12 5) (fieldAt w 17 15)⟩ ]

/-- Rows with low bits 0x13. -/
def rows13 : List (DecRow 32) :=
  [ ⟨0xFF80007F, 0x00000013, fun w => .slli (fieldAt w 7 5) (fieldAt w 12 5) (fieldAt w 17 6)⟩
  , ⟨0xFF80007F, 0x00800013, fun w => .srli (fieldAt w 7 5) (fieldAt w 12 5) (fieldAt w 17 6)⟩
  , ⟨0xFF80007F, 0x01000013, fun w => .srai (fieldAt w 7 5) (fieldAt w 12 5) (fieldAt w 17 6)⟩ ]

/-- Rows with low bits 0x15. -/
def rows15 : List (DecRow 32) :=
  [ ⟨0x0000007F, 0x00000015, fun w => .lih (fieldAt w 7 5) (fieldAt w 12 20)⟩ ]

/-- Rows with low bits 0x17. -/
def rows17 : List (DecRow 32) :=
  [ ⟨0x0000007F, 0x00000017, fun w => .addpc (fieldAt w 7 5) (fieldAt w 12 20)⟩ ]

/-- Rows with low bits 0x19. -/
def rows19 : List (DecRow 32) :=
  [ ⟨0x01C0007F, 0x00000019, fun w => .beq (fieldAt w 12 5) (fieldAt w 17 5) (fieldAt w 25 7 ++ fieldAt w 7 5)⟩
  , ⟨0x01C0007F, 0x00400019, fun w => .bne (fieldAt w 12 5) (fieldAt w 17 5) (fieldAt w 25 7 ++ fieldAt w 7 5)⟩
  , ⟨0x01C0007F, 0x00800019, fun w => .blt (fieldAt w 12 5) (fieldAt w 17 5) (fieldAt w 25 7 ++ fieldAt w 7 5)⟩
  , ⟨0x01C0007F, 0x00C00019, fun w => .bge (fieldAt w 12 5) (fieldAt w 17 5) (fieldAt w 25 7 ++ fieldAt w 7 5)⟩
  , ⟨0x01C0007F, 0x01000019, fun w => .bltu (fieldAt w 12 5) (fieldAt w 17 5) (fieldAt w 25 7 ++ fieldAt w 7 5)⟩
  , ⟨0x01C0007F, 0x01400019, fun w => .bgeu (fieldAt w 12 5) (fieldAt w 17 5) (fieldAt w 25 7 ++ fieldAt w 7 5)⟩
  , ⟨0x01FF807F, 0x01800019, fun w => .bse (fieldAt w 12 3) (fieldAt w 25 7 ++ fieldAt w 7 5)⟩ ]

/-- Rows with low bits 0x1b. -/
def rows1B : List (DecRow 32) :=
  [ ⟨0x0000007F, 0x0000001B, fun w => .jal (fieldAt w 7 5) (fieldAt w 12 20)⟩ ]

/-- Rows with low bits 0x1d. -/
def rows1D : List (DecRow 32) :=
  [ ⟨0x0000007F, 0x0000001D, fun w => .jalr (fieldAt w 7 5) (fieldAt w 12 5) (fieldAt w 17 15)⟩ ]

/-- Rows with low bits 0x1f. -/
def rows1F : List (DecRow 32) :=
  [ ⟨0x000E007F, 0x0000001F, fun w => .ldb (fieldAt w 7 5) (fieldAt w 12 5) (fieldAt w 22 3) (fieldAt w 25 2) (fieldAt w 27 5 ++ fieldAt w 20 2)⟩
  , ⟨0x000E007F, 0x0002001F, fun w => .ldbu (fieldAt w 7 5) (fieldAt w 12 5) (fieldAt w 22 3) (fieldAt w 25 2) (fieldAt w 27 5 ++ fieldAt w 20 2)⟩
  , ⟨0x000E007F, 0x0004001F, fun w => .ldh (fieldAt w 7 5) (fieldAt w 12 5) (fieldAt w 22 3) (fieldAt w 25 2) (fieldAt w 27 5 ++ fieldAt w 20 2)⟩
  , ⟨0x000E007F, 0x0006001F, fun w => .ldhu (fieldAt w 7 5) (fieldAt w 12 5) (fieldAt w 22 3) (fieldAt w 25 2) (fieldAt w 27 5 ++ fieldAt w 20 2)⟩
  , ⟨0x000E007F, 0x0008001F, fun w => .ldw (fieldAt w 7 5) (fieldAt w 12 5) (fieldAt w 22 3) (fieldAt w 25 2) (fieldAt w 27 5 ++ fieldAt w 20 2)⟩
  , ⟨0x000E007F, 0x000A001F, fun w => .ldwu (fieldAt w 7 5) (fieldAt w 12 5) (fieldAt w 22 3) (fieldAt w 25 2) (fieldAt w 27 5 ++ fieldAt w 20 2)⟩
  , ⟨0x000E007F, 0x000C001F, fun w => .ldd (fieldAt w 7 5) (fieldAt w 12 5) (fieldAt w 22 3) (fieldAt w 25 2) (fieldAt w 27 5 ++ fieldAt w 20 2)⟩ ]

/-- Rows with low bits 0x21. -/
def rows21 : List (DecRow 32) :=
  [ ⟨0x000003FF, 0x00000021, fun w => .stb (fieldAt w 12 5) (fieldAt w 17 5) (fieldAt w 22 3) (fieldAt w 25 2) (fieldAt w 27 5 ++ fieldAt w 10 2)⟩
  , ⟨0x000003FF, 0x00000121, fun w => .sth (fieldAt w 12 5) (fieldAt w 17 5) (fieldAt w 22 3) (fieldAt w 25 2) (fieldAt w 27 5 ++ fieldAt w 10 2)⟩
  , ⟨0x000003FF, 0x00000221, fun w => .stw (fieldAt w 12 5) (fieldAt w 17 5) (fieldAt w 22 3) (fieldAt w 25 2) (fieldAt w 27 5 ++ fieldAt w 10 2)⟩
  , ⟨0x000003FF, 0x00000321, fun w => .std (fieldAt w 12 5) (fieldAt w 17 5) (fieldAt w 22 3) (fieldAt w 25 2) (fieldAt w 27 5 ++ fieldAt w 10 2)⟩ ]

/-- Rows with low bits 0x23. -/
def rows23 : List (DecRow 32) :=
  [ ⟨0xC000007F, 0x00000023, fun w => .amoAddW (fieldAt w 7 5) (fieldAt w 12 5) (fieldAt w 17 5) (fieldAt w 22 3) (fieldAt w 25 3) (fieldAt w 28 1) (fieldAt w 29 1)⟩
  , ⟨0xC000007F, 0x40000023, fun w => .amoAndW (fieldAt w 7 5) (fieldAt w 12 5) (fieldAt w 17 5) (fieldAt w 22 3) (fieldAt w 25 3) (fieldAt w 28 1) (fieldAt w 29 1)⟩
  , ⟨0xC000007F, 0x80000023, fun w => .amoOrW (fieldAt w 7 5) (fieldAt w 12 5) (fieldAt w 17 5) (fieldAt w 22 3) (fieldAt w 25 3) (fieldAt w 28 1) (fieldAt w 29 1)⟩
  , ⟨0xC000007F, 0xC0000023, fun w => .amoXorW (fieldAt w 7 5) (fieldAt w 12 5) (fieldAt w 17 5) (fieldAt w 22 3) (fieldAt w 25 3) (fieldAt w 28 1) (fieldAt w 29 1)⟩ ]

/-- Rows with low bits 0x25. -/
def rows25 : List (DecRow 32) :=
  [ ⟨0xC000007F, 0x00000025, fun w => .amoMinW (fieldAt w 7 5) (fieldAt w 12 5) (fieldAt w 17 5) (fieldAt w 22 3) (fieldAt w 25 3) (fieldAt w 28 1) (fieldAt w 29 1)⟩
  , ⟨0xC000007F, 0x40000025, fun w => .amoMaxW (fieldAt w 7 5) (fieldAt w 12 5) (fieldAt w 17 5) (fieldAt w 22 3) (fieldAt w 25 3) (fieldAt w 28 1) (fieldAt w 29 1)⟩
  , ⟨0xC000007F, 0x80000025, fun w => .amoMinuW (fieldAt w 7 5) (fieldAt w 12 5) (fieldAt w 17 5) (fieldAt w 22 3) (fieldAt w 25 3) (fieldAt w 28 1) (fieldAt w 29 1)⟩
  , ⟨0xC000007F, 0xC0000025, fun w => .amoMaxuW (fieldAt w 7 5) (fieldAt w 12 5) (fieldAt w 17 5) (fieldAt w 22 3) (fieldAt w 25 3) (fieldAt w 28 1) (fieldAt w 29 1)⟩ ]

/-- Rows with low bits 0x27. -/
def rows27 : List (DecRow 32) :=
  [ ⟨0xC000007F, 0x00000027, fun w => .amoSwapW (fieldAt w 7 5) (fieldAt w 12 5) (fieldAt w 17 5) (fieldAt w 22 3) (fieldAt w 25 3) (fieldAt w 28 1) (fieldAt w 29 1)⟩ ]

/-- Rows with low bits 0x29. -/
def rows29 : List (DecRow 32) :=
  [ ⟨0xC000007F, 0x00000029, fun w => .amoAddD (fieldAt w 7 5) (fieldAt w 12 5) (fieldAt w 17 5) (fieldAt w 22 3) (fieldAt w 25 3) (fieldAt w 28 1) (fieldAt w 29 1)⟩
  , ⟨0xC000007F, 0x40000029, fun w => .amoAndD (fieldAt w 7 5) (fieldAt w 12 5) (fieldAt w 17 5) (fieldAt w 22 3) (fieldAt w 25 3) (fieldAt w 28 1) (fieldAt w 29 1)⟩
  , ⟨0xC000007F, 0x80000029, fun w => .amoOrD (fieldAt w 7 5) (fieldAt w 12 5) (fieldAt w 17 5) (fieldAt w 22 3) (fieldAt w 25 3) (fieldAt w 28 1) (fieldAt w 29 1)⟩
  , ⟨0xC000007F, 0xC0000029, fun w => .amoXorD (fieldAt w 7 5) (fieldAt w 12 5) (fieldAt w 17 5) (fieldAt w 22 3) (fieldAt w 25 3) (fieldAt w 28 1) (fieldAt w 29 1)⟩ ]

/-- Rows with low bits 0x2b. -/
def rows2B : List (DecRow 32) :=
  [ ⟨0xC000007F, 0x0000002B, fun w => .amoMinD (fieldAt w 7 5) (fieldAt w 12 5) (fieldAt w 17 5) (fieldAt w 22 3) (fieldAt w 25 3) (fieldAt w 28 1) (fieldAt w 29 1)⟩
  , ⟨0xC000007F, 0x4000002B, fun w => .amoMaxD (fieldAt w 7 5) (fieldAt w 12 5) (fieldAt w 17 5) (fieldAt w 22 3) (fieldAt w 25 3) (fieldAt w 28 1) (fieldAt w 29 1)⟩
  , ⟨0xC000007F, 0x8000002B, fun w => .amoMinuD (fieldAt w 7 5) (fieldAt w 12 5) (fieldAt w 17 5) (fieldAt w 22 3) (fieldAt w 25 3) (fieldAt w 28 1) (fieldAt w 29 1)⟩
  , ⟨0xC000007F, 0xC000002B, fun w => .amoMaxuD (fieldAt w 7 5) (fieldAt w 12 5) (fieldAt w 17 5) (fieldAt w 22 3) (fieldAt w 25 3) (fieldAt w 28 1) (fieldAt w 29 1)⟩ ]

/-- Rows with low bits 0x2d. -/
def rows2D : List (DecRow 32) :=
  [ ⟨0xC000007F, 0x0000002D, fun w => .amoSwapD (fieldAt w 7 5) (fieldAt w 12 5) (fieldAt w 17 5) (fieldAt w 22 3) (fieldAt w 25 3) (fieldAt w 28 1) (fieldAt w 29 1)⟩ ]

/-- Rows with low bits 0x2f. -/
def rows2F : List (DecRow 32) :=
  [ ⟨0xC000007F, 0x0000002F, fun w => .casW (fieldAt w 7 5) (fieldAt w 12 5) (fieldAt w 17 5) (fieldAt w 22 3) (fieldAt w 25 3) (fieldAt w 28 1) (fieldAt w 29 1)⟩
  , ⟨0xC000007F, 0x4000002F, fun w => .casD (fieldAt w 7 5) (fieldAt w 12 5) (fieldAt w 17 5) (fieldAt w 22 3) (fieldAt w 25 3) (fieldAt w 28 1) (fieldAt w 29 1)⟩ ]

/-- Rows with low bits 0x31. -/
def rows31 : List (DecRow 32) :=
  [ ⟨0xFC00007F, 0x00000031, fun w => .qsend (fieldAt w 7 5) (fieldAt w 12 5) (fieldAt w 17 5) (fieldAt w 22 1) (fieldAt w 23 3)⟩
  , ⟨0xFC00007F, 0x04000031, fun w => .qrecv (fieldAt w 7 5) (fieldAt w 12 5) (fieldAt w 17 5) (fieldAt w 22 1) (fieldAt w 23 3)⟩
  , ⟨0xFC7FF07F, 0x08000031, fun w => .qtest (fieldAt w 7 5) (fieldAt w 23 3)⟩ ]

/-- Rows with low bits 0x33. -/
def rows33 : List (DecRow 32) :=
  [ ⟨0x000FF07F, 0x00000033, fun w => .getc (fieldAt w 7 5) (fieldAt w 20 12)⟩
  , ⟨0x000E007F, 0x00040033, fun w => .setc (fieldAt w 7 5) (fieldAt w 12 5) (fieldAt w 20 12)⟩
  , ⟨0x000E007F, 0x00080033, fun w => .setcb (fieldAt w 7 5) (fieldAt w 12 5) (fieldAt w 20 12)⟩
  , ⟨0x000E007F, 0x000C0033, fun w => .clrcb (fieldAt w 7 5) (fieldAt w 12 5) (fieldAt w 20 12)⟩ ]

/-- Rows with low bits 0x35. -/
def rows35 : List (DecRow 32) :=
  [ ⟨0xFFC0007F, 0x00000035, fun w => .trap (fieldAt w 7 15)⟩
  , ⟨0xFFFFFFFF, 0x00400035, fun _ => .rett⟩
  , ⟨0xFFFFFFFF, 0x00800035, fun _ => .brk⟩
  , ⟨0xFFFFFFFF, 0x00C00035, fun _ => .flushi⟩
  , ⟨0xFFFFFFFF, 0x01000035, fun _ => .snap⟩ ]

/-- Rows with low bits 0x37. -/
def rows37 : List (DecRow 32) :=
  [ ⟨0xFFFE007F, 0x00000037, fun w => .setvl (fieldAt w 7 5) (fieldAt w 12 5)⟩
  , ⟨0xFE3E007F, 0x02000037, fun w => .setvt (fieldAt w 7 5) (fieldAt w 12 5) (fieldAt w 22 3)⟩
  , ⟨0xFFFE007F, 0x04000037, fun w => .settl (fieldAt w 7 5) (fieldAt w 12 5)⟩ ]

/-- Rows with low bits 0x39. -/
def rows39 : List (DecRow 32) :=
  [ ⟨0x0000007F, 0x00000039, fun w => .waits (fieldAt w 7 5) (fieldAt w 12 5) (fieldAt w 17 5) (fieldAt w 22 1) (fieldAt w 23 9)⟩ ]

/-- Rows with low bits 0x3b. -/
def rows3B : List (DecRow 32) :=
  [ ⟨0x0040007F, 0x0000003B, fun w => .semadd (fieldAt w 7 5) (fieldAt w 12 5) (fieldAt w 17 1) (fieldAt w 18 1) (fieldAt w 19 3) (fieldAt w 23 9)⟩ ]

/-- Rows with low bits 0x3d. -/
def rows3D : List (DecRow 32) :=
  [ ⟨0x0040007F, 0x0000003D, fun w => .semset (fieldAt w 7 5) (fieldAt w 12 5) (fieldAt w 17 1) (fieldAt w 18 1) (fieldAt w 19 3) (fieldAt w 23 9)⟩ ]

/-- Rows with low bits 0x3f. -/
def rows3F : List (DecRow 32) :=
  [ ⟨0xFFFE0FFF, 0x0000003F, fun w => .barjoin (fieldAt w 12 5)⟩
  , ⟨0xC7FE0FFF, 0x0080003F, fun w => .bararv (fieldAt w 12 5) (fieldAt w 27 3)⟩
  , ⟨0xC780007F, 0x0100003F, fun w => .barwt (fieldAt w 7 5) (fieldAt w 12 5) (fieldAt w 17 5) (fieldAt w 22 1) (fieldAt w 27 3)⟩
  , ⟨0xC780007F, 0x0180003F, fun w => .baraw (fieldAt w 7 5) (fieldAt w 12 5) (fieldAt w 17 5) (fieldAt w 22 1) (fieldAt w 27 3)⟩
  , ⟨0xC780007F, 0x0200003F, fun w => .lock (fieldAt w 7 5) (fieldAt w 12 5) (fieldAt w 17 5) (fieldAt w 22 1) (fieldAt w 27 3)⟩
  , ⟨0xC7FE0FFF, 0x0280003F, fun w => .unlock (fieldAt w 12 5) (fieldAt w 27 3)⟩
  , ⟨0x0780007F, 0x0300003F, fun w => .ldwait (fieldAt w 7 5) (fieldAt w 12 5) (fieldAt w 17 5) (fieldAt w 22 1) (fieldAt w 27 3) (fieldAt w 30 2)⟩
  , ⟨0x0780007F, 0x0380003F, fun w => .waitv (fieldAt w 7 5) (fieldAt w 12 5) (fieldAt w 17 5) (fieldAt w 22 1) (fieldAt w 27 4) (fieldAt w 31 1)⟩
  , ⟨0xFF81F07F, 0x0400003F, fun w => .sleep (fieldAt w 7 5) (fieldAt w 17 5) (fieldAt w 22 1)⟩
  , ⟨0x0780007F, 0x0480003F, fun w => .yield (fieldAt w 27 5 ++ fieldAt w 7 16)⟩
  , ⟨0xFFFE007F, 0x0500003F, fun w => .wohold (fieldAt w 7 5) (fieldAt w 12 5)⟩
  , ⟨0xFFFE0FFF, 0x0580003F, fun w => .wodrop (fieldAt w 12 5)⟩ ]

/-- Rows with low bits 0x41. -/
def rows41 : List (DecRow 32) :=
  [ ⟨0x0380007F, 0x00000041, fun w => .fensv (fieldAt w 26 6 ++ fieldAt w 7 16)⟩
  , ⟨0x0380007F, 0x00800041, fun w => .fenvs (fieldAt w 26 6 ++ fieldAt w 7 16)⟩
  , ⟨0x0380007F, 0x01000041, fun w => .fenvv (fieldAt w 26 6 ++ fieldAt w 7 16)⟩
  , ⟨0x8381F07F, 0x01800041, fun w => .fence (fieldAt w 7 5) (fieldAt w 17 5) (fieldAt w 22 1) (fieldAt w 26 3) (fieldAt w 29 1) (fieldAt w 30 1)⟩
  , ⟨0x1F80007F, 0x02000041, fun w => .sbar (fieldAt w 7 5) (fieldAt w 17 5) (fieldAt w 22 1) (fieldAt w 29 3 ++ fieldAt w 12 5)⟩ ]

/-- Rows with low bits 0x43. -/
def rows43Part0 : List (DecRow 32) :=
  [ ⟨0xFC00007F, 0x00000043, fun w => .vadd (fieldAt w 7 5) (fieldAt w 12 5) (fieldAt w 17 5) (fieldAt w 22 3) (fieldAt w 25 1)⟩
  , ⟨0xFC00007F, 0x04000043, fun w => .vsub (fieldAt w 7 5) (fieldAt w 12 5) (fieldAt w 17 5) (fieldAt w 22 3) (fieldAt w 25 1)⟩
  , ⟨0xFC00007F, 0x08000043, fun w => .vrsub (fieldAt w 7 5) (fieldAt w 12 5) (fieldAt w 17 5) (fieldAt w 22 3) (fieldAt w 25 1)⟩
  , ⟨0xFC00007F, 0x0C000043, fun w => .vmul (fieldAt w 7 5) (fieldAt w 12 5) (fieldAt w 17 5) (fieldAt w 22 3) (fieldAt w 25 1)⟩
  , ⟨0xFC00007F, 0x10000043, fun w => .vmulh (fieldAt w 7 5) (fieldAt w 12 5) (fieldAt w 17 5) (fieldAt w 22 3) (fieldAt w 25 1)⟩
  , ⟨0xFC00007F, 0x14000043, fun w => .vma (fieldAt w 7 5) (fieldAt w 12 5) (fieldAt w 17 5) (fieldAt w 22 3) (fieldAt w 25 1)⟩
  , ⟨0xFC00007F, 0x18000043, fun w => .vms (fieldAt w 7 5) (fieldAt w 12 5) (fieldAt w 17 5) (fieldAt w 22 3) (fieldAt w 25 1)⟩
  , ⟨0xFC00007F, 0x1C000043, fun w => .vmin (fieldAt w 7 5) (fieldAt w 12 5) (fieldAt w 17 5) (fieldAt w 22 3) (fieldAt w 25 1)⟩
  , ⟨0xFC00007F, 0x20000043, fun w => .vmax (fieldAt w 7 5) (fieldAt w 12 5) (fieldAt w 17 5) (fieldAt w 22 3) (fieldAt w 25 1)⟩
  , ⟨0xFE3E007F, 0x24000043, fun w => .vabs (fieldAt w 7 5) (fieldAt w 12 5) (fieldAt w 22 3)⟩
  , ⟨0xFE3E007F, 0x28000043, fun w => .vneg (fieldAt w 7 5) (fieldAt w 12 5) (fieldAt w 22 3)⟩
  , ⟨0xFC00007F, 0x2C000043, fun w => .vand (fieldAt w 7 5) (fieldAt w 12 5) (fieldAt w 17 5) (fieldAt w 22 3) (fieldAt w 25 1)⟩ ]

/-- Rows with low bits 0x43. -/
def rows43Part1 : List (DecRow 32) :=
  [ ⟨0xFC00007F, 0x30000043, fun w => .vor (fieldAt w 7 5) (fieldAt w 12 5) (fieldAt w 17 5) (fieldAt w 22 3) (fieldAt w 25 1)⟩
  , ⟨0xFC00007F, 0x34000043, fun w => .vxor (fieldAt w 7 5) (fieldAt w 12 5) (fieldAt w 17 5) (fieldAt w 22 3) (fieldAt w 25 1)⟩
  , ⟨0xFE3E007F, 0x38000043, fun w => .vnot (fieldAt w 7 5) (fieldAt w 12 5) (fieldAt w 22 3)⟩
  , ⟨0xFC00007F, 0x3C000043, fun w => .vsll (fieldAt w 7 5) (fieldAt w 12 5) (fieldAt w 17 5) (fieldAt w 22 3) (fieldAt w 25 1)⟩
  , ⟨0xFC00007F, 0x40000043, fun w => .vsrl (fieldAt w 7 5) (fieldAt w 12 5) (fieldAt w 17 5) (fieldAt w 22 3) (fieldAt w 25 1)⟩
  , ⟨0xFC00007F, 0x44000043, fun w => .vsra (fieldAt w 7 5) (fieldAt w 12 5) (fieldAt w 17 5) (fieldAt w 22 3) (fieldAt w 25 1)⟩
  , ⟨0xFC00007F, 0x48000043, fun w => .vclip (fieldAt w 7 5) (fieldAt w 12 5) (fieldAt w 17 5) (fieldAt w 22 3) (fieldAt w 25 1)⟩
  , ⟨0xFC00007F, 0x4C000043, fun w => .vsel (fieldAt w 7 5) (fieldAt w 12 5) (fieldAt w 17 5) (fieldAt w 22 3) (fieldAt w 25 1)⟩
  , ⟨0xFE3E007F, 0x50000043, fun w => .vcvt (fieldAt w 7 5) (fieldAt w 12 5) (fieldAt w 22 3)⟩
  , ⟨0xFE3E007F, 0x54000043, fun w => .vcvtSat (fieldAt w 7 5) (fieldAt w 12 5) (fieldAt w 22 3)⟩
  , ⟨0xFE3E007F, 0x58000043, fun w => .vrcp (fieldAt w 7 5) (fieldAt w 12 5) (fieldAt w 22 3)⟩
  , ⟨0xFE3E007F, 0x5C000043, fun w => .vrsq (fieldAt w 7 5) (fieldAt w 12 5) (fieldAt w 22 3)⟩ ]

/-- Rows with low bits 0x43. -/
def rows43Part2 : List (DecRow 32) :=
  [ ⟨0xFE3E007F, 0x60000043, fun w => .vsqrt (fieldAt w 7 5) (fieldAt w 12 5) (fieldAt w 22 3)⟩
  , ⟨0xFC00007F, 0x64000043, fun w => .vdiv (fieldAt w 7 5) (fieldAt w 12 5) (fieldAt w 17 5) (fieldAt w 22 3) (fieldAt w 25 1)⟩
  , ⟨0xFE3E007F, 0x68000043, fun w => .vexp2 (fieldAt w 7 5) (fieldAt w 12 5) (fieldAt w 22 3)⟩
  , ⟨0xFE3E007F, 0x6C000043, fun w => .vlog2 (fieldAt w 7 5) (fieldAt w 12 5) (fieldAt w 22 3)⟩
  , ⟨0xFE3E007F, 0x70000043, fun w => .vsin (fieldAt w 7 5) (fieldAt w 12 5) (fieldAt w 22 3)⟩
  , ⟨0xFE3E007F, 0x74000043, fun w => .vcos (fieldAt w 7 5) (fieldAt w 12 5) (fieldAt w 22 3)⟩
  , ⟨0xFC000C7F, 0x80000043, fun w => .vcmpEq (fieldAt w 7 3) (fieldAt w 12 5) (fieldAt w 17 5) (fieldAt w 22 3) (fieldAt w 25 1)⟩
  , ⟨0xFC000C7F, 0x84000043, fun w => .vcmpNe (fieldAt w 7 3) (fieldAt w 12 5) (fieldAt w 17 5) (fieldAt w 22 3) (fieldAt w 25 1)⟩
  , ⟨0xFC000C7F, 0x88000043, fun w => .vcmpLt (fieldAt w 7 3) (fieldAt w 12 5) (fieldAt w 17 5) (fieldAt w 22 3) (fieldAt w 25 1)⟩
  , ⟨0xFC000C7F, 0x8C000043, fun w => .vcmpLe (fieldAt w 7 3) (fieldAt w 12 5) (fieldAt w 17 5) (fieldAt w 22 3) (fieldAt w 25 1)⟩
  , ⟨0xFC000C7F, 0x90000043, fun w => .vcmpGt (fieldAt w 7 3) (fieldAt w 12 5) (fieldAt w 17 5) (fieldAt w 22 3) (fieldAt w 25 1)⟩
  , ⟨0xFC000C7F, 0x94000043, fun w => .vcmpGe (fieldAt w 7 3) (fieldAt w 12 5) (fieldAt w 17 5) (fieldAt w 22 3) (fieldAt w 25 1)⟩ ]

/-- Rows with low bits 0x43. -/
def rows43Part3 : List (DecRow 32) :=
  [ ⟨0xFC00007F, 0xA0000043, fun w => .vaddSat (fieldAt w 7 5) (fieldAt w 12 5) (fieldAt w 17 5) (fieldAt w 22 3) (fieldAt w 25 1)⟩
  , ⟨0xFC00007F, 0xA4000043, fun w => .vsubSat (fieldAt w 7 5) (fieldAt w 12 5) (fieldAt w 17 5) (fieldAt w 22 3) (fieldAt w 25 1)⟩
  , ⟨0xFC00007F, 0xA8000043, fun w => .vrsubSat (fieldAt w 7 5) (fieldAt w 12 5) (fieldAt w 17 5) (fieldAt w 22 3) (fieldAt w 25 1)⟩ ]

/-- All rows with low bits 0x43. -/
def rows43 : List (DecRow 32) := rows43Part0 ++ rows43Part1 ++ rows43Part2 ++ rows43Part3

/-- Rows with low bits 0x45. -/
def rows45 : List (DecRow 32) :=
  [ ⟨0xFFE1087F, 0x00000045, fun w => .kand (fieldAt w 7 4) (fieldAt w 12 4) (fieldAt w 17 4)⟩
  , ⟨0xFFE1087F, 0x04000045, fun w => .kor (fieldAt w 7 4) (fieldAt w 12 4) (fieldAt w 17 4)⟩
  , ⟨0xFFE1087F, 0x08000045, fun w => .kxor (fieldAt w 7 4) (fieldAt w 12 4) (fieldAt w 17 4)⟩
  , ⟨0xFFE1087F, 0x0C000045, fun w => .kandn (fieldAt w 7 4) (fieldAt w 12 4) (fieldAt w 17 4)⟩
  , ⟨0xFFFF087F, 0x10000045, fun w => .knot (fieldAt w 7 4) (fieldAt w 12 4)⟩
  , ⟨0xFFFF007F, 0x14000045, fun w => .kpopc (fieldAt w 7 5) (fieldAt w 12 4)⟩
  , ⟨0xFFFF007F, 0x18000045, fun w => .kfirst (fieldAt w 7 5) (fieldAt w 12 4)⟩
  , ⟨0xFFFF087F, 0x1C000045, fun w => .kmov (fieldAt w 7 4) (fieldAt w 12 4)⟩ ]

/-- Rows with low bits 0x47. -/
def rows47 : List (DecRow 32) :=
  [ ⟨0xFE3E007F, 0x00000047, fun w => .vmov (fieldAt w 7 5) (fieldAt w 12 5) (fieldAt w 22 3)⟩
  , ⟨0xFE01F07F, 0x06000047, fun w => .vbcast (fieldAt w 7 5) (fieldAt w 17 5) (fieldAt w 22 3)⟩
  , ⟨0xFFC0007F, 0x0A000047, fun w => .vext (fieldAt w 7 5) (fieldAt w 12 5) (fieldAt w 17 5)⟩
  , ⟨0xFFC0007F, 0x0E000047, fun w => .vins (fieldAt w 7 5) (fieldAt w 12 5) (fieldAt w 17 5)⟩
  , ⟨0xFE00007F, 0x12000047, fun w => .vslup (fieldAt w 7 5) (fieldAt w 12 5) (fieldAt w 17 5) (fieldAt w 22 3)⟩
  , ⟨0xFE00007F, 0x16000047, fun w => .vsldn (fieldAt w 7 5) (fieldAt w 12 5) (fieldAt w 17 5) (fieldAt w 22 3)⟩
  , ⟨0xFE00007F, 0x18000047, fun w => .vperm (fieldAt w 7 5) (fieldAt w 12 5) (fieldAt w 17 5) (fieldAt w 22 3)⟩
  , ⟨0xFE3E007F, 0x1C000047, fun w => .vpair (fieldAt w 7 5) (fieldAt w 12 5) (fieldAt w 22 3)⟩
  , ⟨0xFE3E007F, 0x20000047, fun w => .vcmprs (fieldAt w 7 5) (fieldAt w 12 5) (fieldAt w 22 3)⟩
  , ⟨0xFE3E007F, 0x24000047, fun w => .vexpnd (fieldAt w 7 5) (fieldAt w 12 5) (fieldAt w 22 3)⟩
  , ⟨0xFE3FF07F, 0x28000047, fun w => .viota (fieldAt w 7 5) (fieldAt w 22 3)⟩
  , ⟨0xFF81F07F, 0x2C000047, fun w => .vtag (fieldAt w 7 5) (fieldAt w 17 6)⟩ ]

/-- Rows with low bits 0x49. -/
def rows49 : List (DecRow 32) :=
  [ ⟨0xE23E007F, 0x00000049, fun w => .vred (fieldAt w 7 5) (fieldAt w 12 5) (fieldAt w 22 3) (fieldAt w 26 3)⟩
  , ⟨0xE230007F, 0x20000049, fun w => .vredSeg (fieldAt w 7 5) (fieldAt w 12 5) (fieldAt w 17 3) (fieldAt w 22 3) (fieldAt w 26 3)⟩
  , ⟨0xE23E007F, 0x40000049, fun w => .vscan (fieldAt w 7 5) (fieldAt w 12 5) (fieldAt w 22 3) (fieldAt w 26 3)⟩
  , ⟨0xE230007F, 0x60000049, fun w => .vscanSeg (fieldAt w 7 5) (fieldAt w 12 5) (fieldAt w 17 3) (fieldAt w 22 3) (fieldAt w 26 3)⟩ ]

/-- Rows with low bits 0x4b. -/
def rows4B : List (DecRow 32) :=
  [ ⟨0xFE30007F, 0x0000004B, fun w => .vsetvf (fieldAt w 7 5) (fieldAt w 12 5) (fieldAt w 17 3) (fieldAt w 22 3)⟩
  , ⟨0xFE000C7F, 0x0400004B, fun w => .visect (fieldAt w 7 3) (fieldAt w 12 5) (fieldAt w 17 5) (fieldAt w 22 3)⟩
  , ⟨0xFE00007F, 0x0A00004B, fun w => .vsplit (fieldAt w 7 5) (fieldAt w 12 5) (fieldAt w 17 5) (fieldAt w 22 3)⟩ ]

/-- Rows with low bits 0x4d. -/
def rows4D : List (DecRow 32) :=
  [ ⟨0xC03E007F, 0x0000004D, fun w => .vld (fieldAt w 7 5) (fieldAt w 12 5) (fieldAt w 22 3) (fieldAt w 25 2) (fieldAt w 27 3)⟩
  , ⟨0xC000007F, 0x4000004D, fun w => .vlds (fieldAt w 7 5) (fieldAt w 12 5) (fieldAt w 17 5) (fieldAt w 22 3) (fieldAt w 25 2) (fieldAt w 27 3)⟩
  , ⟨0xC000007F, 0x8000004D, fun w => .vldx (fieldAt w 7 5) (fieldAt w 12 5) (fieldAt w 17 5) (fieldAt w 22 3) (fieldAt w 25 2) (fieldAt w 27 3)⟩
  , ⟨0xC000007F, 0xC000004D, fun w => .vldw (fieldAt w 7 5) (fieldAt w 12 5) (fieldAt w 17 5) (fieldAt w 22 3) (fieldAt w 25 2) (fieldAt w 27 3)⟩ ]

/-- Rows with low bits 0x4f. -/
def rows4F : List (DecRow 32) :=
  [ ⟨0xC03E007F, 0x0000004F, fun w => .vst (fieldAt w 7 5) (fieldAt w 12 5) (fieldAt w 22 3) (fieldAt w 25 2) (fieldAt w 27 3)⟩
  , ⟨0xC000007F, 0x4000004F, fun w => .vsts (fieldAt w 7 5) (fieldAt w 12 5) (fieldAt w 17 5) (fieldAt w 22 3) (fieldAt w 25 2) (fieldAt w 27 3)⟩
  , ⟨0xC000007F, 0x8000004F, fun w => .vstx (fieldAt w 7 5) (fieldAt w 12 5) (fieldAt w 17 5) (fieldAt w 22 3) (fieldAt w 25 2) (fieldAt w 27 3)⟩ ]

/-- Rows with low bits 0x51. -/
def rows51 : List (DecRow 32) :=
  [ ⟨0xC000007F, 0x00000051, fun w => .vscat (fieldAt w 7 5) (fieldAt w 12 5) (fieldAt w 17 5) (fieldAt w 22 3) (fieldAt w 25 3) (fieldAt w 28 2)⟩ ]

/-- Rows with low bits 0x53. -/
def rows53 : List (DecRow 32) :=
  [ ⟨0xFFFE007F, 0x00000053, fun w => .accwin (fieldAt w 7 5) (fieldAt w 12 5)⟩
  , ⟨0xE7FE007F, 0x20000053, fun w => .vacc (fieldAt w 7 5) (fieldAt w 12 5) (fieldAt w 27 2)⟩
  , ⟨0xE03E0FFF, 0x40000053, fun w => .wmerge (fieldAt w 12 5) (fieldAt w 22 3) (fieldAt w 25 2) (fieldAt w 27 2)⟩
  , ⟨0xFE3FF07F, 0x60000053, fun w => .vbind (fieldAt w 7 5) (fieldAt w 22 3)⟩
  , ⟨0xFFFFF07F, 0x80000053, fun w => .vunbind (fieldAt w 7 5)⟩ ]

/-- Rows with low bits 0x55. -/
def rows55 : List (DecRow 32) :=
  [ ⟨0xC1FE007F, 0x00000055, fun w => .xcopy (fieldAt w 7 5) (fieldAt w 12 5) (fieldAt w 25 3) (fieldAt w 28 1) (fieldAt w 29 1)⟩
  , ⟨0xC1FE007F, 0x40000055, fun w => .dcopy (fieldAt w 7 5) (fieldAt w 12 5) (fieldAt w 25 3) (fieldAt w 28 1) (fieldAt w 29 1)⟩
  , ⟨0xC1FE007F, 0x80000055, fun w => .dfill (fieldAt w 7 5) (fieldAt w 12 5) (fieldAt w 25 3) (fieldAt w 28 1) (fieldAt w 29 1)⟩ ]

/-- Rows with low bits 0x57. -/
def rows57 : List (DecRow 32) :=
  [ ⟨0xFFC00FFF, 0x02000057, fun w => .tload (fieldAt w 12 5) (fieldAt w 17 5)⟩
  , ⟨0xFE3C007F, 0x04000057, fun w => .mmrow (fieldAt w 7 5) (fieldAt w 12 5) (fieldAt w 17 1) (fieldAt w 22 3)⟩
  , ⟨0xFE20007F, 0x08000057, fun w => .mmrows (fieldAt w 7 5) (fieldAt w 12 5) (fieldAt w 17 3) (fieldAt w 20 1) (fieldAt w 22 3)⟩
  , ⟨0xFE3FF07F, 0x0C000057, fun w => .accz (fieldAt w 7 5) (fieldAt w 22 3)⟩
  , ⟨0xFE00007F, 0x12000057, fun w => .accrd (fieldAt w 7 5) (fieldAt w 12 5) (fieldAt w 17 5) (fieldAt w 22 3)⟩
  , ⟨0xFE3E007F, 0x14000057, fun w => .accwr (fieldAt w 7 5) (fieldAt w 12 5) (fieldAt w 22 3)⟩
  , ⟨0xFFFE007F, 0x18000057, fun w => .mxq (fieldAt w 7 5) (fieldAt w 12 5)⟩
  , ⟨0xFFFE0FFF, 0x1C000057, fun w => .mxs (fieldAt w 12 5)⟩
  , ⟨0xFFFE007F, 0x20000057, fun w => .mxd (fieldAt w 7 5) (fieldAt w 12 5)⟩ ]

/-- Rows with low bits 0 (compact forms, R87). -/
def rowsCompactPart0 : List (DecRow 16) :=
  [ ⟨0x003F, 0x0000, fun w => .cAdd (fieldAt w 6 5) (fieldAt w 11 5)⟩
  , ⟨0x003F, 0x0002, fun w => .cSub (fieldAt w 6 5) (fieldAt w 11 5)⟩
  , ⟨0x003F, 0x0004, fun w => .cAnd (fieldAt w 6 5) (fieldAt w 11 5)⟩
  , ⟨0x003F, 0x0006, fun w => .cOr (fieldAt w 6 5) (fieldAt w 11 5)⟩
  , ⟨0x003F, 0x0008, fun w => .cXor (fieldAt w 6 5) (fieldAt w 11 5)⟩
  , ⟨0x003F, 0x000A, fun w => .cMul (fieldAt w 6 5) (fieldAt w 11 5)⟩
  , ⟨0x003F, 0x000C, fun w => .cAddi (fieldAt w 6 5) (fieldAt w 11 5)⟩
  , ⟨0x003F, 0x000E, fun w => .cAndi (fieldAt w 6 5) (fieldAt w 11 5)⟩
  , ⟨0x003F, 0x0010, fun w => .cSlli (fieldAt w 6 5) (fieldAt w 11 5)⟩
  , ⟨0x003F, 0x0012, fun w => .cSrli (fieldAt w 6 5) (fieldAt w 11 5)⟩
  , ⟨0x003F, 0x0014, fun w => .cSrai (fieldAt w 6 5) (fieldAt w 11 5)⟩
  , ⟨0xF83F, 0x0016, fun w => .cMvl (fieldAt w 6 5)⟩ ]

/-- Rows with low bits 0 (compact forms, R87). -/
def rowsCompactPart1 : List (DecRow 16) :=
  [ ⟨0x003F, 0x0018, fun w => .cLdw (fieldAt w 6 5) (fieldAt w 11 5)⟩
  , ⟨0x003F, 0x001A, fun w => .cLdd (fieldAt w 6 5) (fieldAt w 11 5)⟩
  , ⟨0x003F, 0x001C, fun w => .cStw (fieldAt w 6 5) (fieldAt w 11 5)⟩
  , ⟨0x003F, 0x001E, fun w => .cStd (fieldAt w 6 5) (fieldAt w 11 5)⟩
  , ⟨0x003F, 0x0020, fun w => .cBeqz (fieldAt w 6 10)⟩
  , ⟨0x003F, 0x0022, fun w => .cBnez (fieldAt w 6 10)⟩
  , ⟨0x003F, 0x0024, fun w => .cSlt (fieldAt w 6 5) (fieldAt w 11 5)⟩
  , ⟨0x003F, 0x0026, fun w => .cSltu (fieldAt w 6 5) (fieldAt w 11 5)⟩
  , ⟨0x003F, 0x0028, fun w => .cMin (fieldAt w 6 5) (fieldAt w 11 5)⟩
  , ⟨0x003F, 0x002A, fun w => .cMax (fieldAt w 6 5) (fieldAt w 11 5)⟩
  , ⟨0x003F, 0x002C, fun w => .cJr (fieldAt w 6 10)⟩
  , ⟨0xF83F, 0x002E, fun w => .cSextw (fieldAt w 6 5)⟩ ]

/-- All rows with low bits 0. -/
def rowsCompact : List (DecRow 16) := rowsCompactPart0 ++ rowsCompactPart1

/-- The rows of a 32-bit word with the given bits [6:0] (the major opcode and the length bit, R61, R62). -/
def rowsOf (low : Nat) : List (DecRow 32) :=
  if low = 0x03 then rows03
  else if low = 0x05 then rows05
  else if low = 0x07 then rows07
  else if low = 0x09 then rows09
  else if low = 0x0B then rows0B
  else if low = 0x0D then rows0D
  else if low = 0x0F then rows0F
  else if low = 0x11 then rows11
  else if low = 0x13 then rows13
  else if low = 0x15 then rows15
  else if low = 0x17 then rows17
  else if low = 0x19 then rows19
  else if low = 0x1B then rows1B
  else if low = 0x1D then rows1D
  else if low = 0x1F then rows1F
  else if low = 0x21 then rows21
  else if low = 0x23 then rows23
  else if low = 0x25 then rows25
  else if low = 0x27 then rows27
  else if low = 0x29 then rows29
  else if low = 0x2B then rows2B
  else if low = 0x2D then rows2D
  else if low = 0x2F then rows2F
  else if low = 0x31 then rows31
  else if low = 0x33 then rows33
  else if low = 0x35 then rows35
  else if low = 0x37 then rows37
  else if low = 0x39 then rows39
  else if low = 0x3B then rows3B
  else if low = 0x3D then rows3D
  else if low = 0x3F then rows3F
  else if low = 0x41 then rows41
  else if low = 0x43 then rows43
  else if low = 0x45 then rows45
  else if low = 0x47 then rows47
  else if low = 0x49 then rows49
  else if low = 0x4B then rows4B
  else if low = 0x4D then rows4D
  else if low = 0x4F then rows4F
  else if low = 0x51 then rows51
  else if low = 0x53 then rows53
  else if low = 0x55 then rows55
  else if low = 0x57 then rows57
  else []

/-- The first row whose bits the word holds. -/
def pickRow {n : Nat} (w : BitVec n) : List (DecRow n) → Option Instr
  | [] => none
  | r :: rs => if w &&& r.mask = r.bits then some (r.read w) else pickRow w rs

/-- Why bytes are no instruction; every one of these is an ILL fate but `short` (R58, R59, R62, R78, R87). -/
inductive Reject
  /-- Fewer bytes than the length bit asks for. -/
  | short
  /-- The halfword 0x0000 (R58). -/
  | zeroHalfword
  /-- No row of the tables. -/
  | reserved
  /-- A row whose fields hold a combination the tables give the fate ILL. -/
  | fields
  deriving DecidableEq, Repr

/-- What the decoder reads: an instruction and its length in bytes, or a rejection. -/
inductive Decoded
  | instr (i : Instr) (len : Nat)
  | reject (why : Reject)
  deriving DecidableEq, Repr

/-- A decoded row that must also be well formed. -/
def checkRow (len : Nat) : Option Instr → Decoded
  | none => .reject .reserved
  | some i => if i.wf then .instr i len else .reject .fields

/-- A 32-bit word (R57, R59). -/
def decodeWord (w : Word) : Decoded := checkRow 4 (pickRow w (rowsOf (w.toNat % 128)))

/-- A compact form (R57, R87, R88). -/
def decodeHalf (w : Half) : Decoded :=
  if w = 0 then .reject .zeroHalfword else checkRow 2 (pickRow w rowsCompact)

/-- Reads an instruction from a list of bytes in memory order (R6, R57). -/
def decodeBytes : List Byte → Decoded
  | b0 :: b1 :: rest =>
    if b0.toNat % 2 = 1 then
      match rest with
      | b2 :: b3 :: _ => decodeWord (b3 ++ b2 ++ b1 ++ b0)
      | _ => .reject .short
    else decodeHalf (b1 ++ b0)
  | _ => .reject .short

/-- An encoded instruction. -/
inductive Code
  | word (w : Word)
  | half (w : Half)
  /-- A step or event of the part, which has no encoding. -/
  | event
  deriving DecidableEq, Repr

/-- A field placed at bit `lo` of an `n`-bit word. -/
def putAt (n : Nat) {k : Nat} (v : BitVec k) (lo : Nat) : BitVec n := v.setWidth n <<< lo

/-- The words of an instruction, from the same tables. -/
def encode : Instr → Code
  | .add d a b => .word (0x00000003#32 ||| putAt 32 d 7 ||| putAt 32 a 12 ||| putAt 32 b 17)
  | .sub d a b => .word (0x00400003#32 ||| putAt 32 d 7 ||| putAt 32 a 12 ||| putAt 32 b 17)
  | .and d a b => .word (0x00800003#32 ||| putAt 32 d 7 ||| putAt 32 a 12 ||| putAt 32 b 17)
  | .or d a b => .word (0x00C00003#32 ||| putAt 32 d 7 ||| putAt 32 a 12 ||| putAt 32 b 17)
  | .xor d a b => .word (0x01000003#32 ||| putAt 32 d 7 ||| putAt 32 a 12 ||| putAt 32 b 17)
  | .andn d a b => .word (0x01400003#32 ||| putAt 32 d 7 ||| putAt 32 a 12 ||| putAt 32 b 17)
  | .sll d a b => .word (0x01800003#32 ||| putAt 32 d 7 ||| putAt 32 a 12 ||| putAt 32 b 17)
  | .srl d a b => .word (0x01C00003#32 ||| putAt 32 d 7 ||| putAt 32 a 12 ||| putAt 32 b 17)
  | .sra d a b => .word (0x02000003#32 ||| putAt 32 d 7 ||| putAt 32 a 12 ||| putAt 32 b 17)
  | .rot d a b => .word (0x02400003#32 ||| putAt 32 d 7 ||| putAt 32 a 12 ||| putAt 32 b 17)
  | .slt d a b => .word (0x02800003#32 ||| putAt 32 d 7 ||| putAt 32 a 12 ||| putAt 32 b 17)
  | .sltu d a b => .word (0x02C00003#32 ||| putAt 32 d 7 ||| putAt 32 a 12 ||| putAt 32 b 17)
  | .min d a b => .word (0x03000003#32 ||| putAt 32 d 7 ||| putAt 32 a 12 ||| putAt 32 b 17)
  | .max d a b => .word (0x03400003#32 ||| putAt 32 d 7 ||| putAt 32 a 12 ||| putAt 32 b 17)
  | .minu d a b => .word (0x03800003#32 ||| putAt 32 d 7 ||| putAt 32 a 12 ||| putAt 32 b 17)
  | .maxu d a b => .word (0x03C00003#32 ||| putAt 32 d 7 ||| putAt 32 a 12 ||| putAt 32 b 17)
  | .mul d a b => .word (0x04000003#32 ||| putAt 32 d 7 ||| putAt 32 a 12 ||| putAt 32 b 17)
  | .mulh d a b => .word (0x04400003#32 ||| putAt 32 d 7 ||| putAt 32 a 12 ||| putAt 32 b 17)
  | .mulhu d a b => .word (0x04800003#32 ||| putAt 32 d 7 ||| putAt 32 a 12 ||| putAt 32 b 17)
  | .div d a b => .word (0x04C00003#32 ||| putAt 32 d 7 ||| putAt 32 a 12 ||| putAt 32 b 17)
  | .divu d a b => .word (0x05000003#32 ||| putAt 32 d 7 ||| putAt 32 a 12 ||| putAt 32 b 17)
  | .rem d a b => .word (0x05400003#32 ||| putAt 32 d 7 ||| putAt 32 a 12 ||| putAt 32 b 17)
  | .remu d a b => .word (0x05800003#32 ||| putAt 32 d 7 ||| putAt 32 a 12 ||| putAt 32 b 17)
  | .clz d a => .word (0x08000003#32 ||| putAt 32 d 7 ||| putAt 32 a 12)
  | .ctz d a => .word (0x08400003#32 ||| putAt 32 d 7 ||| putAt 32 a 12)
  | .popc d a => .word (0x08800003#32 ||| putAt 32 d 7 ||| putAt 32 a 12)
  | .brev d a => .word (0x08C00003#32 ||| putAt 32 d 7 ||| putAt 32 a 12)
  | .sext d a s => .word (0x09000003#32 ||| putAt 32 d 7 ||| putAt 32 a 12 ||| putAt 32 s 17)
  | .zext d a s => .word (0x09400003#32 ||| putAt 32 d 7 ||| putAt 32 a 12 ||| putAt 32 s 17)
  | .fadd d a b m => .word (0x00000005#32 ||| putAt 32 d 7 ||| putAt 32 a 12 ||| putAt 32 b 17 ||| putAt 32 m 25)
  | .fsub d a b m => .word (0x00400005#32 ||| putAt 32 d 7 ||| putAt 32 a 12 ||| putAt 32 b 17 ||| putAt 32 m 25)
  | .fmul d a b m => .word (0x00800005#32 ||| putAt 32 d 7 ||| putAt 32 a 12 ||| putAt 32 b 17 ||| putAt 32 m 25)
  | .fma d a b m c => .word (0x00C00005#32 ||| putAt 32 d 7 ||| putAt 32 a 12 ||| putAt 32 b 17 ||| putAt 32 m 25 ||| putAt 32 c 27)
  | .fmin d a b x => .word (0x01000005#32 ||| putAt 32 d 7 ||| putAt 32 a 12 ||| putAt 32 b 17 ||| putAt 32 x 25)
  | .fmax d a b x => .word (0x01400005#32 ||| putAt 32 d 7 ||| putAt 32 a 12 ||| putAt 32 b 17 ||| putAt 32 x 25)
  | .fcmp d a b x k => .word (0x01800005#32 ||| putAt 32 d 7 ||| putAt 32 a 12 ||| putAt 32 b 17 ||| putAt 32 x 25 ||| putAt 32 k 27)
  | .fcvt d a m k => .word (0x01C00005#32 ||| putAt 32 d 7 ||| putAt 32 a 12 ||| putAt 32 m 25 ||| putAt 32 k 27)
  | .addi d a i => .word (0x00000007#32 ||| putAt 32 d 7 ||| putAt 32 a 12 ||| putAt 32 i 17)
  | .andi d a i => .word (0x00000009#32 ||| putAt 32 d 7 ||| putAt 32 a 12 ||| putAt 32 i 17)
  | .ori d a i => .word (0x0000000B#32 ||| putAt 32 d 7 ||| putAt 32 a 12 ||| putAt 32 i 17)
  | .xori d a i => .word (0x0000000D#32 ||| putAt 32 d 7 ||| putAt 32 a 12 ||| putAt 32 i 17)
  | .slti d a i => .word (0x0000000F#32 ||| putAt 32 d 7 ||| putAt 32 a 12 ||| putAt 32 i 17)
  | .sltiu d a i => .word (0x00000011#32 ||| putAt 32 d 7 ||| putAt 32 a 12 ||| putAt 32 i 17)
  | .slli d a s => .word (0x00000013#32 ||| putAt 32 d 7 ||| putAt 32 a 12 ||| putAt 32 s 17)
  | .srli d a s => .word (0x00800013#32 ||| putAt 32 d 7 ||| putAt 32 a 12 ||| putAt 32 s 17)
  | .srai d a s => .word (0x01000013#32 ||| putAt 32 d 7 ||| putAt 32 a 12 ||| putAt 32 s 17)
  | .lih d i => .word (0x00000015#32 ||| putAt 32 d 7 ||| putAt 32 i 12)
  | .addpc d i => .word (0x00000017#32 ||| putAt 32 d 7 ||| putAt 32 i 12)
  | .beq a b o => .word (0x00000019#32 ||| putAt 32 a 12 ||| putAt 32 b 17 ||| putAt 32 (fieldAt o 5 7) 25 ||| putAt 32 (fieldAt o 0 5) 7)
  | .bne a b o => .word (0x00400019#32 ||| putAt 32 a 12 ||| putAt 32 b 17 ||| putAt 32 (fieldAt o 5 7) 25 ||| putAt 32 (fieldAt o 0 5) 7)
  | .blt a b o => .word (0x00800019#32 ||| putAt 32 a 12 ||| putAt 32 b 17 ||| putAt 32 (fieldAt o 5 7) 25 ||| putAt 32 (fieldAt o 0 5) 7)
  | .bge a b o => .word (0x00C00019#32 ||| putAt 32 a 12 ||| putAt 32 b 17 ||| putAt 32 (fieldAt o 5 7) 25 ||| putAt 32 (fieldAt o 0 5) 7)
  | .bltu a b o => .word (0x01000019#32 ||| putAt 32 a 12 ||| putAt 32 b 17 ||| putAt 32 (fieldAt o 5 7) 25 ||| putAt 32 (fieldAt o 0 5) 7)
  | .bgeu a b o => .word (0x01400019#32 ||| putAt 32 a 12 ||| putAt 32 b 17 ||| putAt 32 (fieldAt o 5 7) 25 ||| putAt 32 (fieldAt o 0 5) 7)
  | .bse g o => .word (0x01800019#32 ||| putAt 32 g 12 ||| putAt 32 (fieldAt o 5 7) 25 ||| putAt 32 (fieldAt o 0 5) 7)
  | .jal d i => .word (0x0000001B#32 ||| putAt 32 d 7 ||| putAt 32 i 12)
  | .jalr d a i => .word (0x0000001D#32 ||| putAt 32 d 7 ||| putAt 32 a 12 ||| putAt 32 i 17)
  | .ldb d a s p o => .word (0x0000001F#32 ||| putAt 32 d 7 ||| putAt 32 a 12 ||| putAt 32 s 22 ||| putAt 32 p 25 ||| putAt 32 (fieldAt o 2 5) 27 ||| putAt 32 (fieldAt o 0 2) 20)
  | .ldbu d a s p o => .word (0x0002001F#32 ||| putAt 32 d 7 ||| putAt 32 a 12 ||| putAt 32 s 22 ||| putAt 32 p 25 ||| putAt 32 (fieldAt o 2 5) 27 ||| putAt 32 (fieldAt o 0 2) 20)
  | .ldh d a s p o => .word (0x0004001F#32 ||| putAt 32 d 7 ||| putAt 32 a 12 ||| putAt 32 s 22 ||| putAt 32 p 25 ||| putAt 32 (fieldAt o 2 5) 27 ||| putAt 32 (fieldAt o 0 2) 20)
  | .ldhu d a s p o => .word (0x0006001F#32 ||| putAt 32 d 7 ||| putAt 32 a 12 ||| putAt 32 s 22 ||| putAt 32 p 25 ||| putAt 32 (fieldAt o 2 5) 27 ||| putAt 32 (fieldAt o 0 2) 20)
  | .ldw d a s p o => .word (0x0008001F#32 ||| putAt 32 d 7 ||| putAt 32 a 12 ||| putAt 32 s 22 ||| putAt 32 p 25 ||| putAt 32 (fieldAt o 2 5) 27 ||| putAt 32 (fieldAt o 0 2) 20)
  | .ldwu d a s p o => .word (0x000A001F#32 ||| putAt 32 d 7 ||| putAt 32 a 12 ||| putAt 32 s 22 ||| putAt 32 p 25 ||| putAt 32 (fieldAt o 2 5) 27 ||| putAt 32 (fieldAt o 0 2) 20)
  | .ldd d a s p o => .word (0x000C001F#32 ||| putAt 32 d 7 ||| putAt 32 a 12 ||| putAt 32 s 22 ||| putAt 32 p 25 ||| putAt 32 (fieldAt o 2 5) 27 ||| putAt 32 (fieldAt o 0 2) 20)
  | .stb a b s p o => .word (0x00000021#32 ||| putAt 32 a 12 ||| putAt 32 b 17 ||| putAt 32 s 22 ||| putAt 32 p 25 ||| putAt 32 (fieldAt o 2 5) 27 ||| putAt 32 (fieldAt o 0 2) 10)
  | .sth a b s p o => .word (0x00000121#32 ||| putAt 32 a 12 ||| putAt 32 b 17 ||| putAt 32 s 22 ||| putAt 32 p 25 ||| putAt 32 (fieldAt o 2 5) 27 ||| putAt 32 (fieldAt o 0 2) 10)
  | .stw a b s p o => .word (0x00000221#32 ||| putAt 32 a 12 ||| putAt 32 b 17 ||| putAt 32 s 22 ||| putAt 32 p 25 ||| putAt 32 (fieldAt o 2 5) 27 ||| putAt 32 (fieldAt o 0 2) 10)
  | .std a b s p o => .word (0x00000321#32 ||| putAt 32 a 12 ||| putAt 32 b 17 ||| putAt 32 s 22 ||| putAt 32 p 25 ||| putAt 32 (fieldAt o 2 5) 27 ||| putAt 32 (fieldAt o 0 2) 10)
  | .amoAddW d a b s c q r => .word (0x00000023#32 ||| putAt 32 d 7 ||| putAt 32 a 12 ||| putAt 32 b 17 ||| putAt 32 s 22 ||| putAt 32 c 25 ||| putAt 32 q 28 ||| putAt 32 r 29)
  | .amoAndW d a b s c q r => .word (0x40000023#32 ||| putAt 32 d 7 ||| putAt 32 a 12 ||| putAt 32 b 17 ||| putAt 32 s 22 ||| putAt 32 c 25 ||| putAt 32 q 28 ||| putAt 32 r 29)
  | .amoOrW d a b s c q r => .word (0x80000023#32 ||| putAt 32 d 7 ||| putAt 32 a 12 ||| putAt 32 b 17 ||| putAt 32 s 22 ||| putAt 32 c 25 ||| putAt 32 q 28 ||| putAt 32 r 29)
  | .amoXorW d a b s c q r => .word (0xC0000023#32 ||| putAt 32 d 7 ||| putAt 32 a 12 ||| putAt 32 b 17 ||| putAt 32 s 22 ||| putAt 32 c 25 ||| putAt 32 q 28 ||| putAt 32 r 29)
  | .amoMinW d a b s c q r => .word (0x00000025#32 ||| putAt 32 d 7 ||| putAt 32 a 12 ||| putAt 32 b 17 ||| putAt 32 s 22 ||| putAt 32 c 25 ||| putAt 32 q 28 ||| putAt 32 r 29)
  | .amoMaxW d a b s c q r => .word (0x40000025#32 ||| putAt 32 d 7 ||| putAt 32 a 12 ||| putAt 32 b 17 ||| putAt 32 s 22 ||| putAt 32 c 25 ||| putAt 32 q 28 ||| putAt 32 r 29)
  | .amoMinuW d a b s c q r => .word (0x80000025#32 ||| putAt 32 d 7 ||| putAt 32 a 12 ||| putAt 32 b 17 ||| putAt 32 s 22 ||| putAt 32 c 25 ||| putAt 32 q 28 ||| putAt 32 r 29)
  | .amoMaxuW d a b s c q r => .word (0xC0000025#32 ||| putAt 32 d 7 ||| putAt 32 a 12 ||| putAt 32 b 17 ||| putAt 32 s 22 ||| putAt 32 c 25 ||| putAt 32 q 28 ||| putAt 32 r 29)
  | .amoSwapW d a b s c q r => .word (0x00000027#32 ||| putAt 32 d 7 ||| putAt 32 a 12 ||| putAt 32 b 17 ||| putAt 32 s 22 ||| putAt 32 c 25 ||| putAt 32 q 28 ||| putAt 32 r 29)
  | .amoAddD d a b s c q r => .word (0x00000029#32 ||| putAt 32 d 7 ||| putAt 32 a 12 ||| putAt 32 b 17 ||| putAt 32 s 22 ||| putAt 32 c 25 ||| putAt 32 q 28 ||| putAt 32 r 29)
  | .amoAndD d a b s c q r => .word (0x40000029#32 ||| putAt 32 d 7 ||| putAt 32 a 12 ||| putAt 32 b 17 ||| putAt 32 s 22 ||| putAt 32 c 25 ||| putAt 32 q 28 ||| putAt 32 r 29)
  | .amoOrD d a b s c q r => .word (0x80000029#32 ||| putAt 32 d 7 ||| putAt 32 a 12 ||| putAt 32 b 17 ||| putAt 32 s 22 ||| putAt 32 c 25 ||| putAt 32 q 28 ||| putAt 32 r 29)
  | .amoXorD d a b s c q r => .word (0xC0000029#32 ||| putAt 32 d 7 ||| putAt 32 a 12 ||| putAt 32 b 17 ||| putAt 32 s 22 ||| putAt 32 c 25 ||| putAt 32 q 28 ||| putAt 32 r 29)
  | .amoMinD d a b s c q r => .word (0x0000002B#32 ||| putAt 32 d 7 ||| putAt 32 a 12 ||| putAt 32 b 17 ||| putAt 32 s 22 ||| putAt 32 c 25 ||| putAt 32 q 28 ||| putAt 32 r 29)
  | .amoMaxD d a b s c q r => .word (0x4000002B#32 ||| putAt 32 d 7 ||| putAt 32 a 12 ||| putAt 32 b 17 ||| putAt 32 s 22 ||| putAt 32 c 25 ||| putAt 32 q 28 ||| putAt 32 r 29)
  | .amoMinuD d a b s c q r => .word (0x8000002B#32 ||| putAt 32 d 7 ||| putAt 32 a 12 ||| putAt 32 b 17 ||| putAt 32 s 22 ||| putAt 32 c 25 ||| putAt 32 q 28 ||| putAt 32 r 29)
  | .amoMaxuD d a b s c q r => .word (0xC000002B#32 ||| putAt 32 d 7 ||| putAt 32 a 12 ||| putAt 32 b 17 ||| putAt 32 s 22 ||| putAt 32 c 25 ||| putAt 32 q 28 ||| putAt 32 r 29)
  | .amoSwapD d a b s c q r => .word (0x0000002D#32 ||| putAt 32 d 7 ||| putAt 32 a 12 ||| putAt 32 b 17 ||| putAt 32 s 22 ||| putAt 32 c 25 ||| putAt 32 q 28 ||| putAt 32 r 29)
  | .casW d a b s c q r => .word (0x0000002F#32 ||| putAt 32 d 7 ||| putAt 32 a 12 ||| putAt 32 b 17 ||| putAt 32 s 22 ||| putAt 32 c 25 ||| putAt 32 q 28 ||| putAt 32 r 29)
  | .casD d a b s c q r => .word (0x4000002F#32 ||| putAt 32 d 7 ||| putAt 32 a 12 ||| putAt 32 b 17 ||| putAt 32 s 22 ||| putAt 32 c 25 ||| putAt 32 q 28 ||| putAt 32 r 29)
  | .qsend d a b e q => .word (0x00000031#32 ||| putAt 32 d 7 ||| putAt 32 a 12 ||| putAt 32 b 17 ||| putAt 32 e 22 ||| putAt 32 q 23)
  | .qrecv d a b e q => .word (0x04000031#32 ||| putAt 32 d 7 ||| putAt 32 a 12 ||| putAt 32 b 17 ||| putAt 32 e 22 ||| putAt 32 q 23)
  | .qtest d q => .word (0x08000031#32 ||| putAt 32 d 7 ||| putAt 32 q 23)
  | .getc d c => .word (0x00000033#32 ||| putAt 32 d 7 ||| putAt 32 c 20)
  | .setc d a c => .word (0x00040033#32 ||| putAt 32 d 7 ||| putAt 32 a 12 ||| putAt 32 c 20)
  | .setcb d a c => .word (0x00080033#32 ||| putAt 32 d 7 ||| putAt 32 a 12 ||| putAt 32 c 20)
  | .clrcb d a c => .word (0x000C0033#32 ||| putAt 32 d 7 ||| putAt 32 a 12 ||| putAt 32 c 20)
  | .trap c => .word (0x00000035#32 ||| putAt 32 c 7)
  | .rett => .word (0x00400035#32)
  | .brk => .word (0x00800035#32)
  | .flushi => .word (0x00C00035#32)
  | .snap => .word (0x01000035#32)
  | .setvl d a => .word (0x00000037#32 ||| putAt 32 d 7 ||| putAt 32 a 12)
  | .setvt d a m => .word (0x02000037#32 ||| putAt 32 d 7 ||| putAt 32 a 12 ||| putAt 32 m 22)
  | .settl d a => .word (0x04000037#32 ||| putAt 32 d 7 ||| putAt 32 a 12)
  | .waits d a b e s => .word (0x00000039#32 ||| putAt 32 d 7 ||| putAt 32 a 12 ||| putAt 32 b 17 ||| putAt 32 e 22 ||| putAt 32 s 23)
  | .semadd d a r q c s => .word (0x0000003B#32 ||| putAt 32 d 7 ||| putAt 32 a 12 ||| putAt 32 r 17 ||| putAt 32 q 18 ||| putAt 32 c 19 ||| putAt 32 s 23)
  | .semset d a r q c s => .word (0x0000003D#32 ||| putAt 32 d 7 ||| putAt 32 a 12 ||| putAt 32 r 17 ||| putAt 32 q 18 ||| putAt 32 c 19 ||| putAt 32 s 23)
  | .barjoin a => .word (0x0000003F#32 ||| putAt 32 a 12)
  | .bararv a c => .word (0x0080003F#32 ||| putAt 32 a 12 ||| putAt 32 c 27)
  | .barwt d a b e c => .word (0x0100003F#32 ||| putAt 32 d 7 ||| putAt 32 a 12 ||| putAt 32 b 17 ||| putAt 32 e 22 ||| putAt 32 c 27)
  | .baraw d a b e c => .word (0x0180003F#32 ||| putAt 32 d 7 ||| putAt 32 a 12 ||| putAt 32 b 17 ||| putAt 32 e 22 ||| putAt 32 c 27)
  | .lock d a b e c => .word (0x0200003F#32 ||| putAt 32 d 7 ||| putAt 32 a 12 ||| putAt 32 b 17 ||| putAt 32 e 22 ||| putAt 32 c 27)
  | .unlock a c => .word (0x0280003F#32 ||| putAt 32 a 12 ||| putAt 32 c 27)
  | .ldwait d a b e c k => .word (0x0300003F#32 ||| putAt 32 d 7 ||| putAt 32 a 12 ||| putAt 32 b 17 ||| putAt 32 e 22 ||| putAt 32 c 27 ||| putAt 32 k 30)
  | .waitv d a b e n m => .word (0x0380003F#32 ||| putAt 32 d 7 ||| putAt 32 a 12 ||| putAt 32 b 17 ||| putAt 32 e 22 ||| putAt 32 n 27 ||| putAt 32 m 31)
  | .sleep d b e => .word (0x0400003F#32 ||| putAt 32 d 7 ||| putAt 32 b 17 ||| putAt 32 e 22)
  | .yield x => .word (0x0480003F#32 ||| putAt 32 (fieldAt x 16 5) 27 ||| putAt 32 (fieldAt x 0 16) 7)
  | .wohold d a => .word (0x0500003F#32 ||| putAt 32 d 7 ||| putAt 32 a 12)
  | .wodrop a => .word (0x0580003F#32 ||| putAt 32 a 12)
  | .fensv x => .word (0x00000041#32 ||| putAt 32 (fieldAt x 16 6) 26 ||| putAt 32 (fieldAt x 0 16) 7)
  | .fenvs x => .word (0x00800041#32 ||| putAt 32 (fieldAt x 16 6) 26 ||| putAt 32 (fieldAt x 0 16) 7)
  | .fenvv x => .word (0x01000041#32 ||| putAt 32 (fieldAt x 16 6) 26 ||| putAt 32 (fieldAt x 0 16) 7)
  | .fence d b e c q r => .word (0x01800041#32 ||| putAt 32 d 7 ||| putAt 32 b 17 ||| putAt 32 e 22 ||| putAt 32 c 26 ||| putAt 32 q 29 ||| putAt 32 r 30)
  | .sbar d b e s => .word (0x02000041#32 ||| putAt 32 d 7 ||| putAt 32 b 17 ||| putAt 32 e 22 ||| putAt 32 (fieldAt s 5 3) 29 ||| putAt 32 (fieldAt s 0 5) 12)
  | .vadd d a b k s => .word (0x00000043#32 ||| putAt 32 d 7 ||| putAt 32 a 12 ||| putAt 32 b 17 ||| putAt 32 k 22 ||| putAt 32 s 25)
  | .vsub d a b k s => .word (0x04000043#32 ||| putAt 32 d 7 ||| putAt 32 a 12 ||| putAt 32 b 17 ||| putAt 32 k 22 ||| putAt 32 s 25)
  | .vrsub d a b k s => .word (0x08000043#32 ||| putAt 32 d 7 ||| putAt 32 a 12 ||| putAt 32 b 17 ||| putAt 32 k 22 ||| putAt 32 s 25)
  | .vmul d a b k s => .word (0x0C000043#32 ||| putAt 32 d 7 ||| putAt 32 a 12 ||| putAt 32 b 17 ||| putAt 32 k 22 ||| putAt 32 s 25)
  | .vmulh d a b k s => .word (0x10000043#32 ||| putAt 32 d 7 ||| putAt 32 a 12 ||| putAt 32 b 17 ||| putAt 32 k 22 ||| putAt 32 s 25)
  | .vma d a b k s => .word (0x14000043#32 ||| putAt 32 d 7 ||| putAt 32 a 12 ||| putAt 32 b 17 ||| putAt 32 k 22 ||| putAt 32 s 25)
  | .vms d a b k s => .word (0x18000043#32 ||| putAt 32 d 7 ||| putAt 32 a 12 ||| putAt 32 b 17 ||| putAt 32 k 22 ||| putAt 32 s 25)
  | .vmin d a b k s => .word (0x1C000043#32 ||| putAt 32 d 7 ||| putAt 32 a 12 ||| putAt 32 b 17 ||| putAt 32 k 22 ||| putAt 32 s 25)
  | .vmax d a b k s => .word (0x20000043#32 ||| putAt 32 d 7 ||| putAt 32 a 12 ||| putAt 32 b 17 ||| putAt 32 k 22 ||| putAt 32 s 25)
  | .vabs d a k => .word (0x24000043#32 ||| putAt 32 d 7 ||| putAt 32 a 12 ||| putAt 32 k 22)
  | .vneg d a k => .word (0x28000043#32 ||| putAt 32 d 7 ||| putAt 32 a 12 ||| putAt 32 k 22)
  | .vand d a b k s => .word (0x2C000043#32 ||| putAt 32 d 7 ||| putAt 32 a 12 ||| putAt 32 b 17 ||| putAt 32 k 22 ||| putAt 32 s 25)
  | .vor d a b k s => .word (0x30000043#32 ||| putAt 32 d 7 ||| putAt 32 a 12 ||| putAt 32 b 17 ||| putAt 32 k 22 ||| putAt 32 s 25)
  | .vxor d a b k s => .word (0x34000043#32 ||| putAt 32 d 7 ||| putAt 32 a 12 ||| putAt 32 b 17 ||| putAt 32 k 22 ||| putAt 32 s 25)
  | .vnot d a k => .word (0x38000043#32 ||| putAt 32 d 7 ||| putAt 32 a 12 ||| putAt 32 k 22)
  | .vsll d a b k s => .word (0x3C000043#32 ||| putAt 32 d 7 ||| putAt 32 a 12 ||| putAt 32 b 17 ||| putAt 32 k 22 ||| putAt 32 s 25)
  | .vsrl d a b k s => .word (0x40000043#32 ||| putAt 32 d 7 ||| putAt 32 a 12 ||| putAt 32 b 17 ||| putAt 32 k 22 ||| putAt 32 s 25)
  | .vsra d a b k s => .word (0x44000043#32 ||| putAt 32 d 7 ||| putAt 32 a 12 ||| putAt 32 b 17 ||| putAt 32 k 22 ||| putAt 32 s 25)
  | .vclip d a b k s => .word (0x48000043#32 ||| putAt 32 d 7 ||| putAt 32 a 12 ||| putAt 32 b 17 ||| putAt 32 k 22 ||| putAt 32 s 25)
  | .vsel d a b k s => .word (0x4C000043#32 ||| putAt 32 d 7 ||| putAt 32 a 12 ||| putAt 32 b 17 ||| putAt 32 k 22 ||| putAt 32 s 25)
  | .vcvt d a k => .word (0x50000043#32 ||| putAt 32 d 7 ||| putAt 32 a 12 ||| putAt 32 k 22)
  | .vcvtSat d a k => .word (0x54000043#32 ||| putAt 32 d 7 ||| putAt 32 a 12 ||| putAt 32 k 22)
  | .vrcp d a k => .word (0x58000043#32 ||| putAt 32 d 7 ||| putAt 32 a 12 ||| putAt 32 k 22)
  | .vrsq d a k => .word (0x5C000043#32 ||| putAt 32 d 7 ||| putAt 32 a 12 ||| putAt 32 k 22)
  | .vsqrt d a k => .word (0x60000043#32 ||| putAt 32 d 7 ||| putAt 32 a 12 ||| putAt 32 k 22)
  | .vdiv d a b k s => .word (0x64000043#32 ||| putAt 32 d 7 ||| putAt 32 a 12 ||| putAt 32 b 17 ||| putAt 32 k 22 ||| putAt 32 s 25)
  | .vexp2 d a k => .word (0x68000043#32 ||| putAt 32 d 7 ||| putAt 32 a 12 ||| putAt 32 k 22)
  | .vlog2 d a k => .word (0x6C000043#32 ||| putAt 32 d 7 ||| putAt 32 a 12 ||| putAt 32 k 22)
  | .vsin d a k => .word (0x70000043#32 ||| putAt 32 d 7 ||| putAt 32 a 12 ||| putAt 32 k 22)
  | .vcos d a k => .word (0x74000043#32 ||| putAt 32 d 7 ||| putAt 32 a 12 ||| putAt 32 k 22)
  | .vcmpEq d a b k s => .word (0x80000043#32 ||| putAt 32 d 7 ||| putAt 32 a 12 ||| putAt 32 b 17 ||| putAt 32 k 22 ||| putAt 32 s 25)
  | .vcmpNe d a b k s => .word (0x84000043#32 ||| putAt 32 d 7 ||| putAt 32 a 12 ||| putAt 32 b 17 ||| putAt 32 k 22 ||| putAt 32 s 25)
  | .vcmpLt d a b k s => .word (0x88000043#32 ||| putAt 32 d 7 ||| putAt 32 a 12 ||| putAt 32 b 17 ||| putAt 32 k 22 ||| putAt 32 s 25)
  | .vcmpLe d a b k s => .word (0x8C000043#32 ||| putAt 32 d 7 ||| putAt 32 a 12 ||| putAt 32 b 17 ||| putAt 32 k 22 ||| putAt 32 s 25)
  | .vcmpGt d a b k s => .word (0x90000043#32 ||| putAt 32 d 7 ||| putAt 32 a 12 ||| putAt 32 b 17 ||| putAt 32 k 22 ||| putAt 32 s 25)
  | .vcmpGe d a b k s => .word (0x94000043#32 ||| putAt 32 d 7 ||| putAt 32 a 12 ||| putAt 32 b 17 ||| putAt 32 k 22 ||| putAt 32 s 25)
  | .vaddSat d a b k s => .word (0xA0000043#32 ||| putAt 32 d 7 ||| putAt 32 a 12 ||| putAt 32 b 17 ||| putAt 32 k 22 ||| putAt 32 s 25)
  | .vsubSat d a b k s => .word (0xA4000043#32 ||| putAt 32 d 7 ||| putAt 32 a 12 ||| putAt 32 b 17 ||| putAt 32 k 22 ||| putAt 32 s 25)
  | .vrsubSat d a b k s => .word (0xA8000043#32 ||| putAt 32 d 7 ||| putAt 32 a 12 ||| putAt 32 b 17 ||| putAt 32 k 22 ||| putAt 32 s 25)
  | .kand d a b => .word (0x00000045#32 ||| putAt 32 d 7 ||| putAt 32 a 12 ||| putAt 32 b 17)
  | .kor d a b => .word (0x04000045#32 ||| putAt 32 d 7 ||| putAt 32 a 12 ||| putAt 32 b 17)
  | .kxor d a b => .word (0x08000045#32 ||| putAt 32 d 7 ||| putAt 32 a 12 ||| putAt 32 b 17)
  | .kandn d a b => .word (0x0C000045#32 ||| putAt 32 d 7 ||| putAt 32 a 12 ||| putAt 32 b 17)
  | .knot d a => .word (0x10000045#32 ||| putAt 32 d 7 ||| putAt 32 a 12)
  | .kpopc d a => .word (0x14000045#32 ||| putAt 32 d 7 ||| putAt 32 a 12)
  | .kfirst d a => .word (0x18000045#32 ||| putAt 32 d 7 ||| putAt 32 a 12)
  | .kmov d a => .word (0x1C000045#32 ||| putAt 32 d 7 ||| putAt 32 a 12)
  | .vmov d a k => .word (0x00000047#32 ||| putAt 32 d 7 ||| putAt 32 a 12 ||| putAt 32 k 22)
  | .vbcast d b k => .word (0x06000047#32 ||| putAt 32 d 7 ||| putAt 32 b 17 ||| putAt 32 k 22)
  | .vext d a b => .word (0x0A000047#32 ||| putAt 32 d 7 ||| putAt 32 a 12 ||| putAt 32 b 17)
  | .vins d a b => .word (0x0E000047#32 ||| putAt 32 d 7 ||| putAt 32 a 12 ||| putAt 32 b 17)
  | .vslup d a b k => .word (0x12000047#32 ||| putAt 32 d 7 ||| putAt 32 a 12 ||| putAt 32 b 17 ||| putAt 32 k 22)
  | .vsldn d a b k => .word (0x16000047#32 ||| putAt 32 d 7 ||| putAt 32 a 12 ||| putAt 32 b 17 ||| putAt 32 k 22)
  | .vperm d a b k => .word (0x18000047#32 ||| putAt 32 d 7 ||| putAt 32 a 12 ||| putAt 32 b 17 ||| putAt 32 k 22)
  | .vpair d a k => .word (0x1C000047#32 ||| putAt 32 d 7 ||| putAt 32 a 12 ||| putAt 32 k 22)
  | .vcmprs d a k => .word (0x20000047#32 ||| putAt 32 d 7 ||| putAt 32 a 12 ||| putAt 32 k 22)
  | .vexpnd d a k => .word (0x24000047#32 ||| putAt 32 d 7 ||| putAt 32 a 12 ||| putAt 32 k 22)
  | .viota d k => .word (0x28000047#32 ||| putAt 32 d 7 ||| putAt 32 k 22)
  | .vtag d t => .word (0x2C000047#32 ||| putAt 32 d 7 ||| putAt 32 t 17)
  | .vred d a k o => .word (0x00000049#32 ||| putAt 32 d 7 ||| putAt 32 a 12 ||| putAt 32 k 22 ||| putAt 32 o 26)
  | .vredSeg d a b k o => .word (0x20000049#32 ||| putAt 32 d 7 ||| putAt 32 a 12 ||| putAt 32 b 17 ||| putAt 32 k 22 ||| putAt 32 o 26)
  | .vscan d a k o => .word (0x40000049#32 ||| putAt 32 d 7 ||| putAt 32 a 12 ||| putAt 32 k 22 ||| putAt 32 o 26)
  | .vscanSeg d a b k o => .word (0x60000049#32 ||| putAt 32 d 7 ||| putAt 32 a 12 ||| putAt 32 b 17 ||| putAt 32 k 22 ||| putAt 32 o 26)
  | .vsetvf d a b k => .word (0x0000004B#32 ||| putAt 32 d 7 ||| putAt 32 a 12 ||| putAt 32 b 17 ||| putAt 32 k 22)
  | .visect d a b k => .word (0x0400004B#32 ||| putAt 32 d 7 ||| putAt 32 a 12 ||| putAt 32 b 17 ||| putAt 32 k 22)
  | .vsplit d a b k => .word (0x0A00004B#32 ||| putAt 32 d 7 ||| putAt 32 a 12 ||| putAt 32 b 17 ||| putAt 32 k 22)
  | .vld d a s p k => .word (0x0000004D#32 ||| putAt 32 d 7 ||| putAt 32 a 12 ||| putAt 32 s 22 ||| putAt 32 p 25 ||| putAt 32 k 27)
  | .vlds d a b s p k => .word (0x4000004D#32 ||| putAt 32 d 7 ||| putAt 32 a 12 ||| putAt 32 b 17 ||| putAt 32 s 22 ||| putAt 32 p 25 ||| putAt 32 k 27)
  | .vldx d a b s p k => .word (0x8000004D#32 ||| putAt 32 d 7 ||| putAt 32 a 12 ||| putAt 32 b 17 ||| putAt 32 s 22 ||| putAt 32 p 25 ||| putAt 32 k 27)
  | .vldw d a b s p k => .word (0xC000004D#32 ||| putAt 32 d 7 ||| putAt 32 a 12 ||| putAt 32 b 17 ||| putAt 32 s 22 ||| putAt 32 p 25 ||| putAt 32 k 27)
  | .vst d a s p k => .word (0x0000004F#32 ||| putAt 32 d 7 ||| putAt 32 a 12 ||| putAt 32 s 22 ||| putAt 32 p 25 ||| putAt 32 k 27)
  | .vsts d a b s p k => .word (0x4000004F#32 ||| putAt 32 d 7 ||| putAt 32 a 12 ||| putAt 32 b 17 ||| putAt 32 s 22 ||| putAt 32 p 25 ||| putAt 32 k 27)
  | .vstx d a b s p k => .word (0x8000004F#32 ||| putAt 32 d 7 ||| putAt 32 a 12 ||| putAt 32 b 17 ||| putAt 32 s 22 ||| putAt 32 p 25 ||| putAt 32 k 27)
  | .vscat d a b s k o => .word (0x00000051#32 ||| putAt 32 d 7 ||| putAt 32 a 12 ||| putAt 32 b 17 ||| putAt 32 s 22 ||| putAt 32 k 25 ||| putAt 32 o 28)
  | .accwin d a => .word (0x00000053#32 ||| putAt 32 d 7 ||| putAt 32 a 12)
  | .vacc d a o => .word (0x20000053#32 ||| putAt 32 d 7 ||| putAt 32 a 12 ||| putAt 32 o 27)
  | .wmerge a s p o => .word (0x40000053#32 ||| putAt 32 a 12 ||| putAt 32 s 22 ||| putAt 32 p 25 ||| putAt 32 o 27)
  | .vbind d s => .word (0x60000053#32 ||| putAt 32 d 7 ||| putAt 32 s 22)
  | .vunbind d => .word (0x80000053#32 ||| putAt 32 d 7)
  | .xcopy d a c q r => .word (0x00000055#32 ||| putAt 32 d 7 ||| putAt 32 a 12 ||| putAt 32 c 25 ||| putAt 32 q 28 ||| putAt 32 r 29)
  | .dcopy d a c q r => .word (0x40000055#32 ||| putAt 32 d 7 ||| putAt 32 a 12 ||| putAt 32 c 25 ||| putAt 32 q 28 ||| putAt 32 r 29)
  | .dfill d a c q r => .word (0x80000055#32 ||| putAt 32 d 7 ||| putAt 32 a 12 ||| putAt 32 c 25 ||| putAt 32 q 28 ||| putAt 32 r 29)
  | .tload a b => .word (0x02000057#32 ||| putAt 32 a 12 ||| putAt 32 b 17)
  | .mmrow d a t k => .word (0x04000057#32 ||| putAt 32 d 7 ||| putAt 32 a 12 ||| putAt 32 t 17 ||| putAt 32 k 22)
  | .mmrows d a m t k => .word (0x08000057#32 ||| putAt 32 d 7 ||| putAt 32 a 12 ||| putAt 32 m 17 ||| putAt 32 t 20 ||| putAt 32 k 22)
  | .accz d k => .word (0x0C000057#32 ||| putAt 32 d 7 ||| putAt 32 k 22)
  | .accrd d a b k => .word (0x12000057#32 ||| putAt 32 d 7 ||| putAt 32 a 12 ||| putAt 32 b 17 ||| putAt 32 k 22)
  | .accwr d a k => .word (0x14000057#32 ||| putAt 32 d 7 ||| putAt 32 a 12 ||| putAt 32 k 22)
  | .mxq d a => .word (0x18000057#32 ||| putAt 32 d 7 ||| putAt 32 a 12)
  | .mxs a => .word (0x1C000057#32 ||| putAt 32 a 12)
  | .mxd d a => .word (0x20000057#32 ||| putAt 32 d 7 ||| putAt 32 a 12)
  | .cAdd a b => .half (0x0000#16 ||| putAt 16 a 6 ||| putAt 16 b 11)
  | .cSub a b => .half (0x0002#16 ||| putAt 16 a 6 ||| putAt 16 b 11)
  | .cAnd a b => .half (0x0004#16 ||| putAt 16 a 6 ||| putAt 16 b 11)
  | .cOr a b => .half (0x0006#16 ||| putAt 16 a 6 ||| putAt 16 b 11)
  | .cXor a b => .half (0x0008#16 ||| putAt 16 a 6 ||| putAt 16 b 11)
  | .cMul a b => .half (0x000A#16 ||| putAt 16 a 6 ||| putAt 16 b 11)
  | .cAddi a i => .half (0x000C#16 ||| putAt 16 a 6 ||| putAt 16 i 11)
  | .cAndi a i => .half (0x000E#16 ||| putAt 16 a 6 ||| putAt 16 i 11)
  | .cSlli a i => .half (0x0010#16 ||| putAt 16 a 6 ||| putAt 16 i 11)
  | .cSrli a i => .half (0x0012#16 ||| putAt 16 a 6 ||| putAt 16 i 11)
  | .cSrai a i => .half (0x0014#16 ||| putAt 16 a 6 ||| putAt 16 i 11)
  | .cMvl a => .half (0x0016#16 ||| putAt 16 a 6)
  | .cLdw a i => .half (0x0018#16 ||| putAt 16 a 6 ||| putAt 16 i 11)
  | .cLdd a i => .half (0x001A#16 ||| putAt 16 a 6 ||| putAt 16 i 11)
  | .cStw a i => .half (0x001C#16 ||| putAt 16 a 6 ||| putAt 16 i 11)
  | .cStd a i => .half (0x001E#16 ||| putAt 16 a 6 ||| putAt 16 i 11)
  | .cBeqz o => .half (0x0020#16 ||| putAt 16 o 6)
  | .cBnez o => .half (0x0022#16 ||| putAt 16 o 6)
  | .cSlt a b => .half (0x0024#16 ||| putAt 16 a 6 ||| putAt 16 b 11)
  | .cSltu a b => .half (0x0026#16 ||| putAt 16 a 6 ||| putAt 16 b 11)
  | .cMin a b => .half (0x0028#16 ||| putAt 16 a 6 ||| putAt 16 b 11)
  | .cMax a b => .half (0x002A#16 ||| putAt 16 a 6 ||| putAt 16 b 11)
  | .cJr i => .half (0x002C#16 ||| putAt 16 i 6)
  | .cSextw a => .half (0x002E#16 ||| putAt 16 a 6)
  | .stallRelease _ => .event
  | .loadDataReturn _ => .event
  | .storePerformed _ => .event
  | .peerCompletion _ => .event
  | .vectorComplete _ => .event
  | .vtypeChangePoint _ => .event
  | .flushiInvalidate _ => .event
  | .xlinvWrite _ _ => .event
  | .xlinvComplete _ => .event
  | .srseedWrite _ _ => .event
  | .iendWrite _ _ => .event
  | .hartEnd _ => .event
  | .prioWrite _ _ => .event
  | .wceilWrite _ _ => .event
  | .mceilWrite _ _ => .event
  | .semwinWrite _ _ => .event
  | .keyGenerate _ => .event
  | .keyErase _ => .event
  | .sharedKeyGenerate => .event
  | .einjArm => .event
  | .cregWrite _ _ _ => .event
  | .mmioRegisterWrite _ _ _ => .event
  | .asyncTrapTake _ => .event
  | .umpireAnswer _ => .event
  | .umpireRemoteMessage _ _ _ => .event
  | .umpireShareRefill _ => .event
  | .waitSatisfied _ => .event
  | .waitTimeout _ => .event
  | .withdrawalAnswer _ => .event
  | .pageResponse _ _ _ _ => .event
  | .atsInvalidate _ _ _ => .event
  | .tceCommandStart _ => .event
  | .tceCommandFinish _ => .event
  | .kickTailWrite _ _ => .event
  | .launchRecordRead _ => .event
  | .launchReady _ => .event
  | .launchDeperr _ => .event
  | .launchPacket _ => .event
  | .preemptRequest _ _ => .event
  | .cooperativeSave _ _ => .event
  | .forcedSave _ _ => .event
  | .itemRebind _ _ => .event
  | .itemRetire _ _ => .event
  | .launchCompletionWrite _ => .event
  | .ctxnew => .event
  | .ctxend => .event
  | .qset => .event
  | .qstop => .event
  | .semwin => .event
  | .cancel => .event
  | .halt => .event
  | .resume => .event
  | .attest => .event
  | .evring => .event
  | .linkrate => .event
  | .pkgcfg => .event
  | .ceil => .event
  | .quota => .event
  | .snapread => .event
  | .mailboxBadop => .event
  | .mailboxComplete => .event
  | .evheadWrite _ => .event
  | .cpcQuiesce _ => .event
  | .cpcRetain _ => .event
  | .cpcClkgate _ => .event
  | .cpcRailoff _ => .event
  | .cpcCommandDone _ => .event
  | .cpcWake _ => .event
  | .cpcWakeDone _ => .event
  | .cpcRailTimeout _ => .event
  | .snaptrgN => .event
  | .snapctlRel => .event
  | .packageReset => .event
  | .groupReset _ => .event
  | .watchdogExpiry => .event
  | .thermalTrip => .event
  | .linkFailure _ _ => .event
  | .hwErrorDetected _ _ _ _ _ => .event
  | .snapoutNPulseEnd => .event

/-- The bits of an encoding as a number, compact forms zero-extended (TVAL of ILL, R321). -/
def codeNat : Code → Nat
  | .word w => w.toNat
  | .half w => w.toNat
  | .event => 0

/-- The `n` low bytes of a number in memory order. -/
def natBytes (w : Nat) : Nat → List Byte
  | 0 => []
  | n + 1 => BitVec.ofNat 8 w :: natBytes (w / 256) n

/-- The instruction the decoder reads from an opcode-table word, laid out as the hardware stores it (R6): bit 0
is the least significant bit of the first halfword; every bit above nbits, up to the longest instruction, is 0. -/
def decodeTableWord (nbits w : Nat) : Option Instr :=
  match decodeBytes (natBytes (w % 2 ^ nbits) 4) with
  | .instr i _ => some i
  | .reject _ => none

end Sys2Proof
end

