-- ==== Sys2Proof/Machine/Map.lean ====
section
/-! DEFINITION. Sparse maps from a natural key: a list of (key, value) pairs with strictly rising
keys and no entry equal to the default, so that equal maps are equal data.  Memory, vector
elements, accumulator words and the other large stores of the machine are held so. -/
namespace Sys2Proof.Machine

/-- A sparse map: strictly rising keys, no listed default. -/
abbrev SMap (α : Type) := List (Nat × α)

/-- The value at a key; `d` where nothing is listed. -/
def SMap.get {α : Type} (d : α) : SMap α → Nat → α
  | [], _ => d
  | (k, v) :: m, i => if i = k then v else if i < k then d else SMap.get d m i

/-- Writes a value at a key; writing the default removes the entry. -/
def SMap.set {α : Type} [DecidableEq α] (d : α) : SMap α → Nat → α → SMap α
  | [], i, v => if v = d then [] else [(i, v)]
  | (k, w) :: m, i, v =>
    if i = k then (if v = d then m else (i, v) :: m)
    else if i < k then (if v = d then (k, w) :: m else (i, v) :: (k, w) :: m)
    else (k, w) :: SMap.set d m i v

/-- The canonical form below a bound: keys rise strictly from at least `lo`, no default listed. -/
def SMap.wfFrom {α : Type} [DecidableEq α] (d : α) : Nat → SMap α → Bool
  | _, [] => true
  | lo, (k, v) :: m => decide (lo ≤ k) && decide (v ≠ d) && SMap.wfFrom d (k + 1) m

/-- The canonical form of a sparse map. -/
def SMap.wf {α : Type} [DecidableEq α] (d : α) (m : SMap α) : Bool := SMap.wfFrom d 0 m

/-- Writes consecutive values from a key upward. -/
def SMap.setRange {α : Type} [DecidableEq α] (d : α) (m : SMap α) (i : Nat) : List α → SMap α
  | [] => m
  | v :: vs => SMap.setRange d (SMap.set d m i v) (i + 1) vs

/-- The default at every key that `p` names. -/
def SMap.clearWhere {α : Type} (p : Nat → Bool) (m : SMap α) : SMap α :=
  m.filter (fun e => !p e.1)

/-- A record in an association list kept in rising key order; `none` where absent. -/
def lookupKey {α : Type} (m : List (Nat × α)) (i : Nat) : Option α :=
  (m.find? (fun e => e.1 == i)).map (·.2)

/-- Inserts or replaces a record, keeping keys rising. -/
def insertKey {α : Type} : List (Nat × α) → Nat → α → List (Nat × α)
  | [], i, v => [(i, v)]
  | (k, w) :: m, i, v =>
    if i = k then (i, v) :: m
    else if i < k then (i, v) :: (k, w) :: m
    else (k, w) :: insertKey m i v

/-- Removes a record. -/
def eraseKey {α : Type} (m : List (Nat × α)) (i : Nat) : List (Nat × α) :=
  m.filter (fun e => e.1 != i)

/-- Applies a function to one record, where it is present. -/
def adjustKey {α : Type} (m : List (Nat × α)) (i : Nat) (f : α → α) : List (Nat × α) :=
  m.map (fun e => if e.1 == i then (e.1, f e.2) else e)

end Sys2Proof.Machine
end

