-- ==== Sys2Proof/Machine/State.lean ====
section
/-! DEFINITION. Every piece of state the spec gives the machine, as plain data, and the state after reset.
INVENTORY.md lists each field with the rule that names it.  One hart and its pair are in focus (`cur`, `h`,
`p`); the others stand in `harts` and `pairs` by number: a hart by HARTID[18:0] (R23), a pair by that number
divided by two, a core by it divided by sixteen, a cluster by it divided by 128, a die by it divided by 1024. -/
namespace Sys2Proof.Machine
open Sys2Proof

/-- Why a run stops.  No rule of the spec stops the machine: every instruction and event ends in a next
state, so nothing of this model answers a fault. -/
inductive Fault
  /-- Raised by no definition of the model (neither safe nor unsafe: it never occurs). -/
  | never
  deriving DecidableEq, Repr

/-- Why the model has no meaning for an instruction. -/
inductive Refusal
  /-- Raised only by an arm of `exec` that has no meaning yet (safe: the run stops). -/
  | notModelled (mnemonic : String)
  deriving DecidableEq, Repr

/-! ## Harts -/

/-- A stream descriptor with its generator (R243). -/
structure Stream where
  addr : Dword := 0
  strd : Dword := 0
  len : BitVec 48 := 0
  pos : BitVec 48 := 0
  act : Bool := false
  dir : Bool := false
  breg : BitVec 5 := 0
  bnd : Bool := false
  deriving DecidableEq, Repr

/-- A breakpoint comparator: BPADDR and BPCTL (R333). -/
structure Breakpoint where
  va : BitVec 55 := 0
  ctl : BitVec 9 := 0
  deriving DecidableEq, Repr

/-- What a stalled hart waits for (R41); a stall is no wait. -/
inductive Stall
  /-- A full dispatch queue (R44). -/
  | queueFull
  /-- Earlier vector-class instructions of this hart (R119, R131, R243, R318). -/
  | vecDrain
  /-- The earlier entries of the pair's dispatch queue whose results a probe pass reads: those that write a mask, or all
  (R45). -/
  | probe (before : Nat) (mask : Option Nat)
  /-- The divider of the partition (R121). -/
  | divider
  /-- A register of which the result is available in a later cycle, or the cycle a change of flow costs (R42, R56). -/
  | interlock (until_ : Nat)
  /-- A change of VTYPE by the other hart (R107 step 1). -/
  | otherChange
  /-- An earlier access of a stream that must be performed first (R213). -/
  | strm (g : Nat)
  /-- The hart's scalar accesses in a stream, before a chunk of it is loaded (R213, R245). -/
  | chunk (g : Nat)
  /-- The core's limit of 4,096 outstanding requests (R232). -/
  | reqLimit
  /-- The data of a load, AMO or CAS (R232). -/
  | reply (req : Nat)
  /-- A vector instruction whose trap or scalar result depends on lane data (R45, R46). -/
  | vecResult (entry : Nat)
  /-- The point at which VTYPE, SRSEED or the window changes (R107). -/
  | change
  /-- Room in a queue of the cluster's copy engines (R246). -/
  | tceFull
  /-- FLUSHI's drain (R327). -/
  | flushi
  /-- XLINV's drain, begun with the value written, and the destination of its SETC (R202). -/
  | xlinv (v : Dword) (rd : Nat)
  /-- The end drain of IEND (R319), with the code and cause given, and the destination of its SETC (R318). -/
  | iend (icode cause rd : Nat)
  /-- A release that waits for the accesses it carries (R218), at a scope. -/
  | release (scope : Nat)
  /-- A QSEND that waits for the accesses to memory it carries (R218, R47). -/
  | send
  /-- Firmware stopped after a double trap on an M core (R324). -/
  | stopped
  deriving DecidableEq, Repr

/-- The issue states of R41, and a hart no item is bound to. -/
inductive Issue
  | ready | stalled (why : Stall) | waiting | halted | ended | unbound
  deriving DecidableEq, Repr

/-- What a wait waits for (R263, R292): words are named by their physical identity, semaphores by their
physical number in the layout of R30; FENCE and SBAR wait for accesses of the hart by number (R226, R227). -/
inductive WaitKind
  | qsend (q : Nat) (v : Dword)
  | qrecv (q : Nat) (rd : Nat)
  | waits (sem : Nat) (thr : Nat)
  | bar (key : Nat) (phase : Nat) (pending : Bool) (scope : Nat)
  | lock (key : Nat) (scope : Nat)
  | ldwait (key : Nat) (cond : Nat) (cmp : Dword) (scope : Nat)
  | waitv (all : Bool) (ents : List (Nat × Nat × Dword))
  | sleep
  | fence (covered : List Nat) (scope : Nat) (rel : Bool)
  | sbar (covered : List Nat) (set : Nat)
  deriving DecidableEq, Repr

/-- One edge of a path as a deadlock record holds it, from when the walk found it: the owner, its context slot, the
two doublewords of its entry (R275). -/
structure RecEnt where
  uid : Nat
  ctx : Nat
  w0 : Nat
  w1 : Nat
  deriving DecidableEq, Repr

/-- What the walk of a registration found (R271): a wait whose edges closed a cycle is out of the table; of a suspected
cycle the longest path, with the context of the hart its last edge leads to (R274). -/
inductive Found
  | clear
  | cycle (path : List RecEnt)
  | suspect (path : List RecEnt) (last : Nat)
  deriving DecidableEq, Repr

/-- A wait in progress (R255-R262): the key generations its words are read under and their addresses, its budget, what
has been counted, what the Umpire found when it inserted the edges (none: not yet inserted), whether its answer has come,
the decision reached, the SAT bits of its latest evaluation, the order of its registration. -/
structure Wait where
  kind : WaitKind
  gens : List Nat := []
  vas : List Nat := []
  rd : Nat
  len : Nat
  word : Nat
  esc : Bool
  budget : Nat
  counted : Nat := 0
  clamped : Bool
  found : Option Found := none
  answered : Bool := false
  decided : Option Nat := none
  sat : Nat := 0
  withdrawing : Option Nat := none
  seq : Nat
  die : Nat
  since : Nat
  deriving DecidableEq, Repr

/-- One hart: the state of R19 held per hart, its trap and debug registers (R320, R333), its place in the
issue machinery, and the counters instructions read.  `probeFrom` numbers the queue entries that a vector memory
instruction of the hart waits for before its probe (R45); `avail` holds by register, 32 being FPST and 33 the data of
the load it waits for, the cycle in which a result of more than one cycle is available (R56, R138); `integrity` is an
integrity violation that a write of a core of M met, until that core takes its trap (R204, R321). -/
structure Hart where
  pc : Dword := 0
  x : Vector Dword 32 := Vector.replicate 32 0
  vl : Nat := 0
  vstart : Nat := 0
  fpst : BitVec 5 := 0
  ldst : BitVec 5 := 0
  prio : BitVec 4 := 0
  level : Nat := 0
  tcause : BitVec 12 := 0
  tpc : Dword := 0
  tval : Dword := 0
  tstat : BitVec 9 := 0
  tvec : Dword := 0
  tscr : Dword := 0
  txol : Dword := 0
  bpsel : BitVec 3 := 0
  bps : Vector Breakpoint 8 := Vector.replicate 8 {}
  gsel : BitVec 3 := 0
  probeFrom : Option Nat := none
  avail : SMap Nat := []
  g : Vector Stream 8 := Vector.replicate 8 {}
  issue : Issue := .unbound
  issuedAt : Option Nat := none
  wait : Option Wait := none
  uid : Nat := 0
  engCount : Nat := 0
  chkCount : Nat := 0
  note : Bool := false
  errNote : Option Dword := none
  integrity : Bool := false
  stepArmed : Bool := false
  stepDue : Bool := false
  xol : Option (Dword × Dword) := none
  flushAt : Nat := 0
  endCode : Option (Nat × Nat × Nat) := none
  mctxsel : BitVec 11 := 0
  deriving DecidableEq, Repr

/-! ## Pairs -/

/-- One accumulator row: its tag (f32 or i32), its words, a poison bit for each (R19, R175). -/
structure AccRow where
  f32 : Bool := false
  w : SMap Word := []
  pois : Nat := 0
  deriving DecidableEq, Repr

/-- The CIM tile (R168): sizes, tag, integer views at n × KT + k, scale codes at n × nb + b, column poison.
KT 0 is the empty tile. -/
structure Tile where
  kt : Nat := 0
  nt : Nat := 0
  tag : Tag := .int true 1
  w : SMap Int := []
  sb : SMap Nat := []
  colpois : Nat := 0
  deriving DecidableEq, Repr

/-- One element access of a vector memory instruction after its probe (R200): position, physical key of the first byte,
the key generation, the address. -/
structure ElemAcc where
  i : Nat
  key : Nat
  gen : Nat
  va : Dword
  deriving DecidableEq, Repr

/-- The part an instruction has in a stream through a register it names that is bound (R245): the stream, the
register, whether it is written out, the length of the chunk, the accesses of its positions. -/
structure Bind where
  g : Nat
  reg : Nat
  out : Bool
  n : Nat
  plan : List ElemAcc
  deriving DecidableEq, Repr

/-- The trap a probe pass found (R200): cause, SUB, the faulting element, TVAL. -/
structure ElemTrap where
  cause : Nat
  sub : Nat
  elem : Nat
  tval : Dword
  deriving DecidableEq, Repr

/-- How a checked instruction's vote ends at an element that mismatched, other than with the right value (R340, R342,
R350): all three results differ, two agree on a wrong value, or a report under REPMASK, which changes no data. -/
inductive VoteKind
  | differ | wrong | report
  deriving DecidableEq, Repr

/-- The vote at an element of a checked instruction, or at a column of a matrix instruction. -/
structure Vote where
  elem : Nat
  kind : VoteKind
  deriving DecidableEq, Repr

/-- An entry of the vector dispatch queue (R44): the instruction, its PC, the copies taken at issue (VL, VSTART,
scalar operands, tags, rounding mode, the vector or mask destination), what its probe pass found, and the positions
whose index was poisoned then (R343). -/
structure VEntry where
  id : Nat
  role : Nat
  instr : Instr
  pc : Dword
  vl : Nat
  vstart : Nat
  a : Dword
  b : Dword
  tags : List Tag
  rm : Rm
  dest : Option Nat := none
  kdest : Option Nat := none
  dtag : Option Tag := none
  checked : Bool := false
  votes : List Vote := []
  strms : List Nat := []
  plan : List ElemAcc := []
  binds : List Bind := []
  trap : Option ElemTrap := none
  afterReq : Nat := 0
  skip : List Nat := []
  deriving DecidableEq, Repr

/-- A change of VTYPE, window or seed that waits for its point (R107). -/
inductive Change
  | setvt (role : Nat) (groups : Nat) (rm : Rm) (rd : Nat)
  | accwin (role : Nat) (bits : Nat) (wf : Bool) (wop : Nat) (rd : Nat)
  | seed (role : Nat) (v : Word) (rd : Nat)
  deriving DecidableEq, Repr

/-- One pair: the shared state of its two harts (R19), the launch's grants, the dispatch queue.  The context
slot is 64 where none is bound, as on the cores of M; `divUntil` is when the divider is free (R121). -/
structure Pair where
  item : Option (Nat × Nat) := none
  ctx : Nat := 64
  pairs : Nat := 1
  accrows : Nat := 0
  tcmb : Nat := 0
  tcmBase : Nat := 0
  scrb : Nat := 0
  scrBase : Nat := 0
  dsrb : Nat := 0
  dsrBase : Nat := 0
  prio : BitVec 4 := 0
  gw : List Nat := [1, 1, 1, 1]
  gc : List Nat := [0, 0, 0, 0]
  rm : Rm := .rne
  win : Nat := 0
  wf : Bool := false
  wop : Nat := 0
  window : SMap Word := []
  tags : List Tag := List.replicate 32 (.int true 1)
  v : List (SMap Half) := List.replicate 32 []
  k : List Nat := List.replicate 8 0
  kp : Nat := 0
  acc : List AccRow := List.replicate 32 {}
  tile : Tile := {}
  scale : SMap Nat := []
  scalePois : Nat := 0
  seed : Word := 0
  gens : SMap Word := []
  q : List (List Dword) := List.replicate 8 []
  dq : List VEntry := []
  chg : Option Change := none
  divUntil : Nat := 0
  deriving DecidableEq, Repr

/-! ## Requests, engines -/

/-- The atomic operations of R233. -/
inductive AmoOp
  | add | and | or | xor | min | max | minu | maxu | swap
  deriving DecidableEq, Repr

/-- What an outstanding request does at its home (R209, R231-R235, R300, R303). -/
inductive MemOp
  | load (signed : Bool)
  | store
  | amo (op : AmoOp)
  | cas
  | arrive
  | unlock
  | ack (reads : Bool)
  deriving DecidableEq, Repr

/-- A request outstanding between its issue and its answer (R232): the hart (by its owner number and its
place), its stream, its home domain (a package, or 32 for the host), the bytes it touches, its data; for a completion
that a vector instruction owes, whether it answers reads as well as writes, and the number of that instruction; for one
that an engine command owes, the item of that command. -/
structure Req where
  id : Nat
  uid : Nat
  hart : Nat
  strm : Option Nat
  dom : Nat
  op : MemOp
  key : Nat
  size : Nat
  val : Nat := 0
  cmp : Nat := 0
  rd : Nat := 0
  len : Nat := 4
  gen : Nat := 0
  ctx : Nat := 0
  pol : Nat := 0
  va : Dword := 0
  rel : Option Nat := none
  done : Bool := false
  ord : Nat := 0
  cmd : Option (Nat × Nat) := none
  deriving DecidableEq, Repr

/-- The engine commands of R246. -/
inductive EngOp
  | xcopy | dcopy | dfill
  deriving DecidableEq, Repr

/-- An engine command that has probed and committed a part: the places (key, generation) still to commit, the number
of the first of their elements, the failure that ends it, whether what it moved was poisoned; of an XCOPY into a register
every place, with the number of elements moved and the element groups they lie in (R148). -/
structure CmdProg where
  places : List (List (Nat × Nat))
  t0 : Nat
  fail : Option (Nat × Nat)
  bad : Bool
  groups : List Nat := []
  deriving DecidableEq, Repr

/-- An engine command from its queueing to its finish (R246-R250). -/
structure Cmd where
  id : Nat
  tce : Nat
  op : EngOp
  uid : Nat
  hart : Nat
  user : Bool
  ctx : Nat
  item : Nat × Nat
  ticket : Nat
  afterReq : Nat
  acq : Option Nat
  rel : Option Nat
  src : Nat
  dst : Nat
  rowlen : Nat
  rows : Nat
  sstr : Nat
  dstr : Nat
  sem : Option Nat
  xctl : Nat
  tag : Tag
  vlmax : Nat
  inUse : Bool
  crec : Nat
  crecGen : Nat
  crecVa : Nat
  prog : Option CmdProg := none
  status : Option (Nat × Nat × Nat) := none
  deriving DecidableEq, Repr

/-! ## The Umpire -/

/-- The objects of waits and holds, by physical identity (R263, R401). -/
inductive Obj
  | word (id : Nat)
  | sem (id : Nat)
  | queue (pair : Nat) (q : Nat)
  deriving DecidableEq, Repr

/-- The three kinds of hold (R265). -/
inductive HoldKind
  | lock | member | wo
  deriving DecidableEq, Repr

/-- A wait of a hart of a peer package on an object homed here, or homed elsewhere as its home tells of it (R267): the
hart, its ep as its Umpire sends it, the object, the kind of hold its edges lead to, the order of its registration here. -/
structure RemoteWait where
  uid : Nat
  prio : Nat
  obj : Obj
  kind : HoldKind
  seq : Nat
  deriving DecidableEq, Repr

/-- A hold: by whom, on what, whether the Umpire recorded it, and for a membership the phase of the pending
arrival (R265, R300). -/
structure Hold where
  obj : Obj
  kind : HoldKind
  uid : Nat
  ctx : Nat
  die : Nat
  recorded : Bool
  phase : Option Nat := none
  deriving DecidableEq, Repr

/-! ## Contexts, launches, items -/

/-- One of the 64 context slots (R311) with its per-context registers (R316) and its queue (R359, R360);
`record` is a record read whose checks wait for a page, with its index (R34, R361); `hubPages` are the pages the hub
asked for itself, and whether the host refused them (R34, R362). -/
structure Ctx where
  pasid : Nat := 0
  pgroot : Dword := 0
  gen : Nat := 0
  part : Nat := 0
  quota : Nat := 0
  bound : Nat := 1
  shw : Bool := false
  tvec : Dword := 0
  poolVa : Nat := 0
  poolLen : Nat := 0
  wceil : Nat := 0x100000000
  mceil : Nat := 0x10000000000
  prisem : BitVec 15 := 0
  dlrec : Dword := 0
  umpst : BitVec 5 := 0
  note : Bool := false
  used : Nat := 0
  pgrace : BitVec 32 := 0x30D40
  chkctl : BitVec 18 := 0
  semwin : SMap Nat := []
  pins : Option Dword := none
  recSeq : Nat := 0
  qbase : Nat := 0
  qlog : Nat := 0
  head : BitVec 32 := 0
  tail : BitVec 32 := 0
  run : Bool := false
  err : Bool := false
  ecode : Nat := 0
  record : Option (Nat × List Byte) := none
  pri : List Nat := []
  hubPages : List (Nat × Bool) := []
  xlinv : List (Nat × Nat × Nat) := []
  deriving DecidableEq, Repr

/-- The states of an item (R37); WAITING, which applies to a hart, is read off its harts. -/
inductive ItemState
  | queued | ready | bound | running | preempted | resumed | retired
  deriving DecidableEq, Repr

/-- One instance of a launch (R37): where it runs, its codes, its escape indicator (R345), a pre-emption request with
its grace (R285, R287), whether it runs in a peer package, its saved record (R329), and while saved or halted the waits
it keeps (R288), the phases of the barrier words they and its holds name in its saved TCM, and, by role, what of its harts
no record holds. -/
structure Item where
  idx : Nat
  st : ItemState := .queued
  pair : Nat := 0
  boundAt : Nat := 0
  icode : Option (Nat × Nat) := none
  escape : Bool := false
  preq : Option Nat := none
  cancel : Bool := false
  far : Bool := false
  halted : Bool := false
  haltReq : Bool := false
  saveVa : Option Nat := none
  waits : List (Nat × Wait) := []
  phases : List (Nat × Nat) := []
  prios : List (Nat × BitVec 4) := []
  harts : List (Nat × Hart) := []
  deriving DecidableEq, Repr

/-- One launch (R28, R37, R279): its record's fields, the sections and relocations of its image (R364), its age
and priority, its items, its scratchpad and die-shared bases. -/
structure Launch where
  ltag : Nat
  ctx : Nat
  qidx : Nat
  prio0 : Nat
  pairs : Nat
  accrows : Nat
  kimage : Nat
  entry : Nat
  arglen : Nat
  args : Dword
  cword : Nat
  itemst : Nat
  vgroups : Nat
  tcmb : Nat
  scrb : Nat
  dsrb : Nat
  deps : List (Nat × Nat)
  levels : List (Nat × Nat × Nat)
  pins : Dword
  secs : List (Nat × Nat) := []
  rel : Nat × Nat := (0, 0)
  st : ItemState := .queued
  readyAt : Nat := 0
  age : Nat := 0
  prio : Nat := 0
  items : List Item := []
  code : Nat := 0
  done : Bool := false
  scr : List (Nat × Nat) := []
  dsr : List Nat := []
  deriving DecidableEq, Repr

/-! ## Clusters, hub -/

/-- A cluster power controller (R372): its registers, the command accepted and the wake that follows it (from a
state, 5 while a command still runs), when it began, whether its first step is done, whether that of a QUIESCE found
something to wait for (R373), whether a wake has found the scratchpad's check failing (R374). -/
structure Cpc where
  st : Nat := 0
  busy : Bool := false
  done : Bool := false
  err : Bool := false
  ecode : Nat := 0
  scrret : Bool := true
  last : Nat := 0
  cmd : Nat := 0
  wakeFrom : Option Nat := none
  began : Nat := 0
  running : Bool := false
  loaded : Bool := false
  lost : Bool := false
  deriving DecidableEq, Repr

/-- The mailbox registers of BAR0 (R355), the copy of the running command (R356), how far it has come (1 while
it runs in steps, 2 when it has ended) and what it will return. -/
structure Mailbox where
  op : BitVec 16 := 0
  busy : Bool := false
  drop : Bool := false
  result : Nat := 0
  arg : Vector Dword 12 := Vector.replicate 12 0
  res : Vector Dword 4 := Vector.replicate 4 0
  cmdOp : Nat := 0
  cmdArg : List Dword := []
  stage : Nat := 0
  rcode : Nat := 0
  rvals : List Dword := []
  deriving DecidableEq, Repr

/-- The hub's own registers and rings: the firmware window, the event ring with the held events, boot
status, the error log, injection, snapshots, links, the power clamp, host translations and their invalidations, the saved
records that failed, the cables between the ports of the group (each end 16 times a package and a port), the reference
clock that never stops, the links of the packages' rings that are down, by package and link (R337; R197, R336, R348, R350, R353, R355, R358, R367, R368, R372, R376, R377).  After a package reset the
die-shared steps, for which the spec gives no value, are 0 on every die (R27; log entry 57). -/
structure Hub where
  mb : Mailbox := {}
  fwwinb : Dword := 0
  fwwins : BitVec 32 := 0
  fwpasid : BitVec 21 := 0
  evhead : BitVec 32 := 0
  evtail : BitVec 32 := 0
  evlost : BitVec 32 := 0
  evBase : Nat := 0
  evLog : Nat := 0
  evOn : Bool := false
  evHeld : List (List Byte) := []
  evSeq : Nat := 0
  msi : Nat := 0
  bootStage : Nat := 0
  bootResult : Nat := 0
  bootBank : Nat := 0
  bootSvn : Nat := 0
  fused : Nat := 0
  clamp : Nat := 1400
  log : List (List Byte) := []
  logSeq : Nat := 0
  logOver : Nat := 0
  agestep : Nat := 16
  einja : BitVec 52 := 0
  arm : Bool := false
  fired : Bool := false
  repmask : BitVec 16 := 0
  repsev : Bool := false
  snapHeld : Bool := false
  snapSrc : Nat := 0
  snapSeq : Nat := 0
  snap : SMap Byte := []
  snapOut : Bool := false
  snapLow : Bool := false
  dsrSteps : List Nat := [0, 0, 0, 0]
  dsrWant : Nat := 0
  linkRate : List Nat := List.replicate 16 224
  linkUp : List Bool := List.replicate 16 true
  tripped : Bool := false
  accessLog : Nat := 0
  reach : Nat := 1
  pkgs : Nat := 1
  cables : List (Nat × Nat) := []
  ringDown : List (Nat × Nat) := []
  shotCopies : List Nat := []
  refNow : Nat := 0
  sharedGen : Nat := 2
  fwGen : Nat := 3
  laneErr : SMap Nat := []
  hostMap : List (Nat × Nat × Nat) := []
  atsWait : List (List Nat) := []
  atsDone : Nat := 0
  restores : List Nat := []
  deriving DecidableEq, Repr

/-- The whole machine; `slots` holds the bind records of the dies' slot tables by pair (R281). -/
structure State where
  cur : Nat
  h : Hart
  p : Pair
  harts : List (Nat × Hart)
  pairs : List (Nat × Pair)
  mem : List Host.Cell
  poison : SMap Bool
  secGen : SMap Nat
  wlog : List (Nat × Nat × Byte)
  genSeq : Nat
  reqs : List Req
  cmds : List Cmd
  sems : SMap (BitVec 33)
  holds : List Hold
  rwaits : List RemoteWait
  pool : Nat
  shares : List Nat
  ctxs : List (Nat × Ctx)
  launches : List Launch
  cpcs : List (Nat × Cpc)
  slots : SMap Dword
  hub : Hub
  cyc : SMap Nat
  now : Nat
  stamp : Nat
  free : Nat
  nextId : Nat
  ltags : Nat
  inputs : List Instr
  yielded : Option Nat
  deriving DecidableEq, Repr

/-- A Referee core or the hub core at reset: level M, PP reads 1 on such a core (R310, R320).  Its owner number
lies above those of every item. -/
def mHart (id : Nat) : Hart := { level := 2, tstat := 1, issue := .halted, uid := 2 ^ 128 + id }

/-- The hub core's number: KIND 2 (R23). -/
def hubId : Nat := 0x40000

/-- The Referee core of a die: KIND 1 (R23). -/
def refereeId (d : Nat) : Nat := 0x20000 + 1024 * d

/-- The machine right after package reset (R368): no context, no launch, the Umpire's shares full (R265),
memory with nothing listed, the cores of M not yet started, the hub's boot before its first stage. -/
def State.reset : State :=
  { cur := hubId
    h := mHart hubId
    p := {}
    harts := (List.range 4).map (fun d => (refereeId d, mHart (refereeId d)))
    pairs := []
    mem := []
    poison := []
    secGen := []
    wlog := []
    genSeq := 4
    reqs := []
    cmds := []
    sems := []
    holds := []
    rwaits := []
    pool := 16384 - 4 * 256
    shares := [256, 256, 256, 256]
    ctxs := []
    launches := []
    cpcs := []
    slots := []
    hub := {}
    cyc := []
    now := 0
    stamp := 0
    free := 0
    nextId := 1
    ltags := 1
    inputs := []
    yielded := none }

end Sys2Proof.Machine
end

