-- ==== Sys2Proof/Machine/Ops.lean ====
section
/-! DEFINITION. The shared operations on harts, pairs, contexts and items: focus, registers, the program
counter, taking a trap and returning from one (spec/13_isolation.md R320-R326), ending a hart and an item. -/
namespace Sys2Proof.Machine
open Sys2Proof

/-! ## Numbers (R23) -/

/-- ROLE of a hart number: 0 access, 1 execute. -/
def roleOf (id : Nat) : Nat := id % 2
/-- The partition of a hart number. -/
def partOf (id : Nat) : Nat := id / 2 % 8
/-- The pair of a hart. -/
def pairOf (id : Nat) : Nat := id / 2
/-- The core of a hart. -/
def coreOf (id : Nat) : Nat := id / 16
/-- The cluster of a hart, die included. -/
def clusOf (id : Nat) : Nat := id / 128 % 32
/-- The compute die of a hart. -/
def dieOf (id : Nat) : Nat := id / 1024 % 4
/-- The package of a hart. -/
def pkgOf (id : Nat) : Nat := id / 4096 % 32
/-- KIND: 0 user core, 1 Referee core, 2 hub core. -/
def kindOf (id : Nat) : Nat := id / 131072 % 4
/-- HARTID of the core, with ROLE and PART 0 (R401). -/
def coreBase (id : Nat) : Nat := id / 16 * 16
/-- HARTID of the cluster, with ROLE, PART and CORE 0 (R401). -/
def clusBase (id : Nat) : Nat := id / 128 * 128
/-- HARTID of a compute die of this package (R401). -/
def dieBase (id d : Nat) : Nat := id / 4096 * 4096 % 131072 + d * 1024

/-- A free choice below `n`, the `k`-th of this step (log entry 2). -/
def freeBelow (s : State) (k n : Nat) : Nat := if n ≤ 1 then 0 else Config.freeNat s.free k % n

/-- The number of the instruction a request belongs to in its hart's program order. -/
def ordOf (r : Req) : Nat := if r.ord = 0 then r.id else r.ord

/-- Whether a request reads its location. -/
def reqReads (r : Req) : Bool :=
  match r.op with
  | .store => false
  | .ack reads => reads
  | .load _ | .amo _ | .cas | .arrive | .unlock => true

/-! ## Focus -/

/-- The hart with a number. -/
def getHart (s : State) (id : Nat) : Option Hart := if id = s.cur then some s.h else lookupKey s.harts id

/-- The pair with a number. -/
def getPair (s : State) (id : Nat) : Option Pair :=
  if id = pairOf s.cur then some s.p else lookupKey s.pairs id

/-- Every hart with its number. -/
def allHarts (s : State) : List (Nat × Hart) := (s.cur, s.h) :: s.harts

/-- Every pair with its number. -/
def allPairs (s : State) : List (Nat × Pair) := (pairOf s.cur, s.p) :: s.pairs

/-- Changes one hart, where it exists. -/
def modHart (s : State) (id : Nat) (f : Hart → Hart) : State :=
  if id = s.cur then { s with h := f s.h } else { s with harts := adjustKey s.harts id f }

/-- Changes one pair, where it exists. -/
def modPair (s : State) (id : Nat) (f : Pair → Pair) : State :=
  if id = pairOf s.cur then { s with p := f s.p } else { s with pairs := adjustKey s.pairs id f }

/-- Puts a hart and its pair in focus; nothing else changes.  A number that names no hart changes nothing. -/
def focus (s : State) (id : Nat) : State :=
  if id = s.cur then s
  else
    match lookupKey s.harts id with
    | none => s
    | some h =>
      let harts := eraseKey (insertKey s.harts s.cur s.h) id
      if pairOf id = pairOf s.cur then { s with cur := id, h := h, harts := harts }
      else
        let pairs := insertKey s.pairs (pairOf s.cur) s.p
        { s with cur := id, h := h, harts := harts,
                 p := (lookupKey pairs (pairOf id)).getD {}, pairs := eraseKey pairs (pairOf id) }

/-- Runs an operation with a hart in focus and puts the focus back. -/
def withHart (s : State) (id : Nat) (f : State → State) : State :=
  match getHart s id with
  | none => s
  | some _ => focus (f (focus s id)) s.cur

/-- Whether the hart in focus is on a user core. -/
def onUser (s : State) : Bool := kindOf s.cur == 0

/-- The role of the hart in focus. -/
def roleOfCur (s : State) : Nat := roleOf s.cur

/-! ## Scalar registers and the program counter (R20, R87, R120) -/

/-- x[r] of a hart; x0 reads 0 (R20). -/
def readX (h : Hart) (r : BitVec 5) : Dword := if r = 0 then 0 else h.x[r.toNat]

/-- write_x of R120: x0 discards. -/
def writeX (h : Hart) (d : BitVec 5) (v : Dword) : Hart := if d = 0 then h else { h with x := h.x.set d.toNat v }

/-- x[r] of the hart in focus. -/
def xr (s : State) (r : BitVec 5) : Dword := readX s.h r

/-- The implicit source xL of a compact form (R87). -/
def xl (s : State) : Dword := readX s.h s.h.ldst

/-- The end of an instruction: a hart stepping takes STEP after the first instruction, or out-of-line run,
completes (R326). -/
def retire (h : Hart) : Hart :=
  if h.stepArmed && h.xol.isNone then { h with stepArmed := false, stepDue := true } else h

/-- Moves past an instruction of `len` bytes; an out-of-line run goes on at offset 2 and ends beyond (R326). -/
def advanceH (len : Nat) (h : Hart) : Hart :=
  let pc := h.pc + BitVec.ofNat 64 len
  let xol := match h.xol with
    | some (a, b) => if (pc - a).toNat ≤ 2 then some (a, b) else none
    | none => none
  retire { h with pc := pc, xol := xol }

/-- A change of flow; it ends an out-of-line run (R326). -/
def jumpH (t : Dword) (h : Hart) : Hart := retire { h with pc := t, xol := none }

/-- The hart in focus moves past its instruction. -/
def advance (len : Nat) (s : State) : State := { s with h := advanceH len s.h }

/-- The hart in focus continues at a target. -/
def jumpTo (t : Dword) (s : State) : State := { s with h := jumpH t s.h }

/-- Writes a scalar destination and sets LDST to its field (R87, R120). -/
def putX (d : BitVec 5) (v : Dword) (s : State) : State := { s with h := { writeX s.h d v with ldst := d } }

/-- A scalar result, then the next instruction. -/
def resultX (len : Nat) (d : BitVec 5) (v : Dword) (s : State) : State := advance len (putX d v s)

/-- Stalls the hart in focus at its instruction, which issues again when the stall ends (R41). -/
def stall (w : Stall) (s : State) : State := { s with h := { s.h with issue := .stalled w } }

/-! ## Contexts and items -/

/-- A context slot that holds a context. -/
def getCtx (s : State) (c : Nat) : Option Ctx := lookupKey s.ctxs c

/-- The context of a slot, or an empty one. -/
def ctxOf (s : State) (c : Nat) : Ctx := (getCtx s c).getD {}

/-- Changes a context. -/
def modCtx (s : State) (c : Nat) (f : Ctx → Ctx) : State := { s with ctxs := adjustKey s.ctxs c f }

/-- The launch with a tag. -/
def getLaunch (s : State) (t : Nat) : Option Launch := s.launches.find? (fun l => l.ltag == t)

/-- Changes a launch. -/
def modLaunch (s : State) (t : Nat) (f : Launch → Launch) : State :=
  { s with launches := s.launches.map (fun l => if l.ltag == t then f l else l) }

/-- An item of a launch. -/
def getItem (l : Launch) (i : Nat) : Option Item := l.items.find? (fun it => it.idx == i)

/-- Changes an item of a launch. -/
def modItem (s : State) (t i : Nat) (f : Item → Item) : State :=
  modLaunch s t (fun l => { l with items := l.items.map (fun it => if it.idx == i then f it else it) })

/-- The owner number of a hart of an item: it stays with the item across every save (R288). -/
def uidOf (ltag idx role : Nat) : Nat := (ltag * 2 ^ 40 + idx) * 2 + role

/-- Records that an item's escape indicator is set (R345). -/
def markEscape (s : State) (it : Option (Nat × Nat)) : State :=
  match it with
  | some (t, i) => modItem s t i (fun x => { x with escape := true })
  | none => s

/-- Returns `n` Umpire entries of a context to a die's share and then to the pool (R265); an entry of no die, as the
hub core's, goes to the pool. -/
def freeEntries (s : State) (c die n : Nat) : State :=
  let have_ := s.shares.getD die 0
  let toShare := if die < 4 then min n (256 - have_) else 0
  let s := modCtx s c (fun x => { x with used := x.used - n })
  { s with shares := s.shares.set die (have_ + toShare), pool := s.pool + (n - toShare) }

/-- The die share that entries of a hart belong to: 4, the pool alone, for the hub core, which is on no die. -/
def dieFor (hart : Nat) : Nat := if kindOf hart = 2 then 4 else dieOf hart

/-- Removes the holds of a hart that ended (R265, R300, R302), its entries going to a die: words in memory keep their
values. -/
def dropHolds (s : State) (die uid : Nat) : State :=
  let mine := s.holds.filter (fun x => x.uid == uid)
  let s := { s with holds := s.holds.filter (fun x => x.uid != uid) }
  mine.foldl (fun s x => if x.recorded then freeEntries s x.ctx die 1 else s) s

/-- Frees the entry of a wait; it returns to the die of the hart that frees it (R265). -/
def freeWait (s : State) (c die : Nat) (w : Option Wait) : State :=
  match w with
  | some _ => freeEntries s c die 1
  | none => s

/-- Ends a hart with a code and a cause (R36, R319): its waits and holds are removed (R265). -/
def endHart (s : State) (id icode cause : Nat) : State :=
  match getHart s id with
  | none => s
  | some h =>
    let c := ((getPair s (pairOf id)).getD {}).ctx
    let s := dropHolds (freeWait s c (dieFor id) h.wait) (dieFor id) h.uid
    modHart s id (fun h => { h with
      issue := .ended, wait := none, stepDue := false, stepArmed := false, note := false, errNote := none,
      endCode := match h.endCode with
        | some e => some e
        | none => some (icode, cause, s.now) })

/-- Ends the item bound to a pair at once with a code (R323, R337, R346): both harts that have not ended. -/
def endPair (s : State) (pid icode cause : Nat) : State :=
  endHart (endHart s (2 * pid) icode cause) (2 * pid + 1) icode cause

/-- Whether an item is bound to a pair, here or in a peer package (R37). -/
def isBound (it : Item) : Bool := it.st == .bound || it.st == .running || it.st == .resumed

/-- The first instruction of a bound item issues: RUNNING (R37). -/
def markRunning (s : State) : State :=
  match s.p.item with
  | some (t, i) => modItem s t i (fun it => if it.st = .bound ∨ it.st = .resumed then { it with st := .running } else it)
  | none => s

/-- Ends an item wherever it is: bound to a pair, in a peer package, or saved (R346). -/
def endItem (s : State) (t i icode cause : Nat) : State :=
  match (getLaunch s t).bind (getItem · i) with
  | none => s
  | some it =>
    match it.st with
    | .bound | .running | .resumed =>
      if it.far then modItem s t i (fun x => { x with icode := some (x.icode.getD (icode, cause)) })
      else endPair s it.pair icode cause
    | .preempted =>
      let die := dieOf (2 * it.pair)
      let s := it.waits.foldl (fun s w => freeWait s ((getLaunch s t).map (·.ctx) |>.getD 0) die (some w.2)) s
      let s := dropHolds (dropHolds s die (uidOf t i 0)) die (uidOf t i 1)
      modItem s t i (fun x => { x with icode := some (x.icode.getD (icode, cause)), waits := [], phases := [], preq := none })
    | .queued | .ready | .retired => s

/-- A semaphore as this package sees it: of a peer package (cluster numbers from 32) the value is not known here, and free
(log entry 12). -/
def semSeen (s : State) (k : Nat) : BitVec 33 :=
  if 32 ≤ k / 512 then BitVec.ofNat 33 (Config.freeNat s.free (2 ^ 63 + k)) else SMap.get 0 s.sems k

/-- Every location of a context's semaphore windows in this package, as physical numbers (R313). -/
def windowSems (c : Ctx) : List Nat :=
  (c.semwin.filter (fun e => decide (e.1 < 32))).flatMap (fun e => (List.range (e.2 / 512)).map (fun n => e.1 * 512 + (e.2 % 512 + n)))

/-- The sticky error bit of a semaphore (R297). -/
def setErr (s : State) (sem : Nat) : State :=
  { s with sems := SMap.set 0 s.sems sem (SMap.get 0 s.sems sem ||| (1#33 <<< 32)) }

/-- An integrity violation ends the context (R204, R346): every item with code 5, its engine commands stop
with no record, its semaphores carry ERR, launches not yet bound are cancelled with every item NOTRUN.  It appends no
record to the error log (log entry 82). -/
def failContext (s : State) (c : Nat) : State :=
  let mine := s.launches.filter (fun l => l.ctx == c && !l.done)
  let s := { s with cmds := s.cmds.filter (fun m => m.ctx != c) }
  let s := (windowSems (ctxOf s c)).foldl setErr s
  mine.foldl (fun s l =>
    match l.st with
    | .queued | .ready =>
      modLaunch s l.ltag (fun l => { l with
        st := .retired, code := 2,
        items := l.items.map (fun it => { it with st := .retired, icode := some (7, 0) }) })
    | .bound | .running | .preempted | .resumed | .retired =>
      l.items.foldl (fun s it => endItem s l.ltag it.idx 5 0) s) s

/-! ## Traps (R320-R326) -/

/-- The trap causes of R321. -/
def causeSTEP : Nat := 0x01
def causeHWBP : Nat := 0x02
def causeFETCH : Nat := 0x03
def causeILL : Nat := 0x04
def causePRIV : Nat := 0x05
def causeACCESS : Nat := 0x06
def causeTRANS : Nat := 0x07
def causePERM : Nat := 0x08
def causePAGEREQ : Nat := 0x09
def causePOISON : Nat := 0x0A
def causeTRAP : Nat := 0x0B
def causeBRK : Nat := 0x0C
def causeESCALATE : Nat := 0x0D
def causeDEADLOCK : Nat := 0x0E
def causeUMPNOTE : Nat := 0x0F
def causeERRNOTE : Nat := 0x10
def causePREEMPT : Nat := 0x11
def causeINTEGRITY : Nat := 0x12
def causeDOUBLE : Nat := 0x13
def causeRESTORE : Nat := 0x14

/-- UMPNOTE and ERRNOTE are asynchronous (R321). -/
def causeIsAsync (c : Nat) : Bool := c == causeUMPNOTE || c == causeERRNOTE

/-- end_item_through_m of R323 for the item of the pair in focus. -/
def endItemThroughM (s : State) (code : Nat) : State :=
  if code = causeINTEGRITY then failContext (endPair s (pairOf s.cur) 5 0) s.p.ctx
  else endPair s (pairOf s.cur) 2 code

/-- The registers a trap writes: TCAUSE, TPC, TVAL, TSTAT, the level, and the PC at TVEC (R323).  TSTAT is
INH 1, STEP 0, XOL 0, PP the old level, SLDST the old LDST.  A step that was armed is given up (log entry 77). -/
def trapHart (user : Bool) (code sub : Nat) (elem : Bool) (tval tpc : Dword) (h : Hart) : Hart :=
  let pp : BitVec 9 := if h.level = 0 then 0 else 1
  { h with
    tstat := pp ||| 2#9 ||| (h.ldst.setWidth 9 <<< 4)
    tcause := BitVec.ofNat 12 (code + sub * 256 + (if elem then 2048 else 0))
    tval := tval
    tpc := tpc &&& ~~~1#64
    level := if user then 1 else h.level
    pc := h.tvec
    issue := .ready
    xol := none
    stepArmed := false
    stepDue := false
    probeFrom := none }

/-- Taking a trap: take_trap of R323, on the hart in focus. -/
def takeTrap (code sub : Nat) (elem : Bool) (tval tpc : Dword) (s : State) : State :=
  if onUser s && (code == causeINTEGRITY || code == causeDOUBLE || code == causeRESTORE) then endItemThroughM s code
  else if s.h.level ≠ 0 ∧ s.h.tstat.getLsbD 1 = true ∧ causeIsAsync code = false then
    if onUser s then endItemThroughM s causeDOUBLE
    else { s with h := { s.h with issue := .stalled .stopped } }
  else { s with h := trapHart (onUser s) code sub elem tval tpc s.h }

/-- A trap whose TPC is the instruction itself; LDST is as before the instruction (R87). -/
def trapHere (code : Nat) (tval : Dword) (s : State) : State := takeTrap code 0 false tval s.h.pc s

/-- TVAL of INTEGRITY on a core of M: R321 gives it none, and it is free (log entry 68). -/
def integrityTval (s : State) : Dword := BitVec.ofNat 64 (Config.freeNat s.free 19)

/-- An integrity violation that the instruction of the hart in focus meets: it ends the context (R204); a core of M takes
the trap INTEGRITY at M (R321, R323). -/
def violateHere (s : State) : State :=
  if onUser s then failContext s s.p.ctx else trapHere causeINTEGRITY (integrityTval s) s

/-- An integrity violation that a write met at its home, after its hart went on: it ends the context; a core of M takes
INTEGRITY before its next instruction (R323). -/
def violateLater (s : State) (hart : Option Nat) (c : Nat) : State :=
  match hart with
  | some id => if kindOf id = 0 then failContext s c else modHart s id (fun h => { h with integrity := true })
  | none => failContext s c

/-- The bits of the instruction for TVAL (R321). -/
def instrBits (i : Instr) : Dword := BitVec.ofNat 64 (codeNat (encode i))

/-- The ILL trap of an instruction. -/
def illTrap (i : Instr) (s : State) : State := trapHere causeILL (instrBits i) s

/-- The PRIV trap of an instruction. -/
def privTrap (i : Instr) (s : State) : State := trapHere causePRIV (instrBits i) s

/-- The return from a trap: RETT of R326 at S or M.  PP gives the level on a user core; LDST comes back from
SLDST; INH, STEP and XOL clear; the PC is TPC, read through TXOL when XOL was set.  A RETT that was itself
being stepped is followed by STEP. -/
def returnHart (user : Bool) (h : Hart) : Hart :=
  { h with
    level := if user then (if h.tstat.getLsbD 0 then 1 else 0) else h.level
    ldst := h.tstat.extractLsb' 4 5
    tstat := h.tstat &&& ~~~0xE#9
    pc := h.tpc
    xol := if h.tstat.getLsbD 3 then some (h.tpc, h.txol) else none
    stepArmed := h.tstat.getLsbD 2
    stepDue := h.stepArmed }

end Sys2Proof.Machine
end

