-- ==== Sys2Proof/Machine/Flags.lean ====
section
/-! DEFINITION. The flags an instruction leaves in FPST (spec/04_results_formats.md R119, R138): they are OR-ed
in, and only SETC, CLRCB and a restore take them away.  What raises each flag stands with the operations of
Float.lean. -/
namespace Sys2Proof.Machine
open Sys2Proof

/-- ORs flags into the FPST of the hart in focus (R119, R138). -/
def orFpst (fl : Flags) (s : State) : State := { s with h := { s.h with fpst := s.h.fpst ||| fl } }

/-- ORs flags into the FPST of a hart, for what its vector entries leave (R119). -/
def orFpstOf (id : Nat) (fl : Flags) (s : State) : State :=
  modHart s id (fun h => { h with fpst := h.fpst ||| fl })

/-- A float result with its flags: the scalar destination, FPST, the next instruction (R132, R138). -/
def resultF (d : BitVec 5) (r : Nat × Flags) (s : State) : State :=
  resultX 4 d (BitVec.ofNat 64 r.1) (orFpst r.2 s)

/-- A truth value as the scalar result of a compare (R122, R135). -/
def ofBool (b : Bool) : Dword := if b then 1 else 0

end Sys2Proof.Machine
end

