-- ==== Sys2Proof/Machine/Operands.lean ====
section
/-! DEFINITION. The operand forms: sources of scalar instructions (spec/05_results_scalar.md R120), immediates
(R125-R127), displacements (R128, R129, R139), offsets of scalar memory (spec/10_order_instructions.md R231). -/
namespace Sys2Proof.Machine
open Sys2Proof

/-- The outcome of a meaning. -/
abbrev Out := Host.Outcome State Fault Refusal

/-- A form whose fields hold a combination the tables refuse raises ILL before any effect (R59). -/
def legalOr (i : Instr) (s : State) (k : Out) : Out := if i.wf then k else .next (illTrap i s)

/-- sign_extend(IMM, n) as a doubleword (R125-R127). -/
def immX {n : Nat} (i : BitVec n) : Dword := i.signExtend 64

/-- sign_extend(IMM, 20) << 15 (R127). -/
def immHi (i : BitVec 20) : Dword := i.signExtend 64 <<< 15

/-- A displacement in halfwords from an address (R128, R129, R139). -/
def disp {n : Nat} (o : BitVec n) : Dword := o.signExtend 64 <<< 1

/-- The address of a scalar load or store: x[rs1] + sign_extend(OFF, 7) × s (R65, R231). -/
def memAddr (a : Dword) (o : BitVec 7) (size : Nat) : Dword := a + o.signExtend 64 * BitVec.ofNat 64 size

/-- Two register sources, one destination (R122). -/
def regOp (f : Dword → Dword → Dword) (d a b : BitVec 5) (s : State) : Out :=
  .next (resultX 4 d (f (xr s a) (xr s b)) s)

/-- One register source, one destination (R124). -/
def unaryOp (f : Dword → Dword) (d a : BitVec 5) (s : State) : Out :=
  .next (resultX 4 d (f (xr s a)) s)

/-- A register and a 15-bit immediate (R125). -/
def immOp (f : Dword → Dword → Dword) (d a : BitVec 5) (i : BitVec 15) (s : State) : Out :=
  .next (resultX 4 d (f (xr s a) (immX i)) s)

/-- A register and a shift amount (R126). -/
def shiftOp (f : Dword → Nat → Dword) (d a : BitVec 5) (n : BitVec 6) (s : State) : Out :=
  .next (resultX 4 d (f (xr s a) n.toNat) s)

/-- A conditional branch (R128). -/
def branchOp (c : Dword → Dword → Bool) (a b : BitVec 5) (o : BitVec 12) (s : State) : Out :=
  .next (if c (xr s a) (xr s b) then jumpTo (s.h.pc + disp o) s else advance 4 s)

/-- A compact register form: xA := xL op xB (R88). -/
def compactOp (f : Dword → Dword → Dword) (a b : BitVec 5) (s : State) : Out :=
  .next (resultX 2 a (f (xl s) (xr s b)) s)

/-- A compact form with an operand of its own: xA := f xL (R88). -/
def compactUnary (f : Dword → Dword) (a : BitVec 5) (s : State) : Out :=
  .next (resultX 2 a (f (xl s)) s)

/-- A compact branch on xL (R139). -/
def compactBranch (c : Dword → Bool) (o : BitVec 10) (s : State) : Out :=
  .next (if c (xl s) then jumpTo (s.h.pc + disp o) s else advance 2 s)

/-- Whether an earlier vector-class instruction of the hart in focus has not completed (R41, R131). -/
def vecPending (s : State) : Bool := s.p.dq.any (fun e => e.role == roleOfCur s)

/-- The end flag of a stream: GCTL END, set when the position has reached the length (R131, R243). -/
def streamEnd (x : Stream) : Bool := x.act && decide (x.len ≤ x.pos)

end Sys2Proof.Machine
end

