-- ==== Sys2Proof/Machine/Memory.lean ====
section
/-! DEFINITION. The memory as programs see it (spec/08_order_memory.md): bytes under a physical key, poison and
key generations by 64-byte sector, the local windows, page tables, shared virtual addressing, the check order.

A key is the physical identity of a byte: the layout of R401 for HBM (SPACE 0), TCM (1), scratchpad (2) and
die-shared SRAM (3), continued by the model for what R401 never reports: private firmware memory (8), CPC
registers (9), the snapshot window (10), the error log ring (11), host memory (from 2^68 up), and the TCM of saved items
(from 2^100 up). -/
namespace Sys2Proof.Machine
open Sys2Proof

/-! ## Keys -/

/-- HBM byte `pa` of package `p`. -/
def hbmKey (p pa : Nat) : Nat := p * 2 ^ 52 + pa
/-- TCM byte of a core. -/
def tcmKey (hart off : Nat) : Nat := 2 ^ 60 + coreBase hart % 2 ^ 19 * 2 ^ 32 + off
/-- Scratchpad byte of a cluster. -/
def scrKey (hart off : Nat) : Nat := 2 * 2 ^ 60 + clusBase hart % 2 ^ 19 * 2 ^ 32 + off
/-- Die-shared SRAM byte of a die of this package. -/
def dsrKey (hart d off : Nat) : Nat := 3 * 2 ^ 60 + dieBase hart d * 2 ^ 32 + off
/-- Private firmware memory of an M core. -/
def fwKey (hart off : Nat) : Nat := 8 * 2 ^ 60 + hart % 2 ^ 19 * 2 ^ 32 + off
/-- A CPC register. -/
def cpcKey (clus off : Nat) : Nat := 9 * 2 ^ 60 + clus * 256 + off
/-- A byte of the snapshot window. -/
def snapKey (off : Nat) : Nat := 10 * 2 ^ 60 + off
/-- A byte of the error log ring. -/
def logKey (off : Nat) : Nat := 11 * 2 ^ 60 + off
/-- A byte of the TCM allocation of a saved item, by its launch tag, its index and the offset (R288): waits and holds name
it so until the item is bound again. -/
def savedKey (t i off : Nat) : Nat := 2 ^ 100 + (t * 2 ^ 40 + i) * 2 ^ 20 + off
/-- Whether a key names a byte of a saved item's TCM. -/
def isSaved (key : Nat) : Bool := 2 ^ 100 ≤ key
/-- The launch tag and index of the item whose saved TCM a key names. -/
def savedItemOf (key : Nat) : Nat × Nat := ((key - 2 ^ 100) / 2 ^ 60, (key - 2 ^ 100) / 2 ^ 20 % 2 ^ 40)
/-- A byte of host memory under a PASID. -/
def hostKey (pasid va : Nat) : Nat := 2 ^ 68 * (pasid + 1) + va
/-- SPACE of a key. -/
def spaceOf (key : Nat) : Nat := key / 2 ^ 60
/-- Whether a key lies in HBM. -/
def isHbm (key : Nat) : Bool := key < 2 ^ 57
/-- Whether a key lies in host memory. -/
def isHost (key : Nat) : Bool := decide (2 ^ 68 ≤ key) && !isSaved key
/-- The package of an HBM key. -/
def keyPkg (key : Nat) : Nat := key / 2 ^ 52 % 32
/-- The 64-byte sector or block of a key (R192, R337). -/
def sectorOf (key : Nat) : Nat := key / 64
/-- The home domain of a location for harts of package 0: a package, or 32 for the host (R212). -/
def domOf (key : Nat) : Nat := if isHost key then 32 else if isHbm key then keyPkg key else 0

/-- Whether a location meets a scope for an agent (R216, R217); agents lie in package 0. -/
def meetsScope (hart key scope : Nat) : Bool :=
  let inPkg := domOf key == 0
  let unit : Nat :=
    if isHost key then 6
    else if isHbm key then (if keyPkg key = 0 then 5 else 6)
    else if spaceOf key = 1 then (if key / 2 ^ 32 % 2 ^ 19 = coreBase hart then 2 else 5)
    else if spaceOf key = 2 then (if key / 2 ^ 32 % 2 ^ 19 = clusBase hart then 3 else 5)
    else if spaceOf key = 3 then (if dieOf (key / 2 ^ 32 % 2 ^ 19) = dieOf hart ∧ kindOf hart ≠ 2 then 4 else 5)
    else 5
  if scope ≤ 1 then inPkg else decide (unit ≤ scope)

/-! ## Bytes -/

/-- The byte at a key; what nothing has written reads 0 (log entry 4). -/
def readByte (s : State) (key : Nat) : Byte := SMap.get 0 s.mem key

/-- Writes a byte; the old value stays known to fetch and translation until they are told (R191). -/
def writeByte (s : State) (key : Nat) (v : Byte) : State :=
  let old := readByte s key
  if old = v then s
  else { s with mem := SMap.set 0 s.mem key v, wlog := (s.stamp, key, old) :: s.wlog }

/-- The `n` bytes from a key, in little-endian order (R6). -/
def readBytes (s : State) (key : Nat) : Nat → List Byte
  | 0 => []
  | n + 1 => readByte s key :: readBytes s (key + 1) n

/-- The value of the `n` bytes from a key. -/
def readNat (s : State) (key n : Nat) : Nat := ofBytesLE (readBytes s key n)

/-- Writes bytes from a key upward. -/
def writeBytes (s : State) (key : Nat) : List Byte → State
  | [] => s
  | b :: bs => writeBytes (writeByte s key b) (key + 1) bs

/-- Writes the `n` low bytes of a value. -/
def writeNat (s : State) (key v n : Nat) : State := writeBytes s key (natBytes v n)

/-- The value a byte had at a stamp: the oldest change since then, or the present value. -/
def byteSince (s : State) (since key : Nat) : Byte :=
  ((s.wlog.filter (fun e => e.2.1 == key && since ≤ e.1)).getLast?.map (·.2.2)).getD (readByte s key)

/-! ## Poison, keys, the check order (R204-R207) -/

/-- Whether the sector or block of a key is poisoned. -/
def isPois (s : State) (key : Nat) : Bool := SMap.get false s.poison (sectorOf key)

/-- The hub without the note that a sector's poison stands in a clean L2 copy alone (R351). -/
def noCopy (u : Hub) (sec : Nat) : Hub := { u with shotCopies := u.shotCopies.filter (· != sec) }

/-- Poisons or clears the sector or block of a key; a poisoned one is written, so that no clean copy of it stands. -/
def setPois (s : State) (key : Nat) (b : Bool) : State :=
  { s with
    poison := SMap.set false s.poison (sectorOf key) b
    hub := if isPois s key && s.hub.shotCopies.contains (sectorOf key) then noCopy s.hub (sectorOf key) else s.hub }

/-- What a read of a sector finds (R204). -/
inductive Check
  | good | media | violation
  deriving DecidableEq, Repr

/-- The key generation a context reads under; 1 is an erased key, under which every tag fails (R314). -/
def genFails (s : State) (key gen : Nat) : Bool :=
  let g := SMap.get 0 s.secGen (sectorOf key)
  isHbm key && gen != 0 && (gen == 1 || (g != 0 && g != gen))

/-- Whether the one-shot error waits at this sector (R351): the sector of EINJA as it is now, and whatever was stored there
since (log entry 81). -/
def shotAt (s : State) (key : Nat) : Bool :=
  s.hub.arm && isHbm key && keyPkg key == 0 && sectorOf s.hub.einja.toNat == sectorOf key

/-- The check order of R204: ECC first, then the tag. -/
def checkSector (s : State) (key gen : Nat) : Check :=
  if shotAt s key || isPois s key then .media
  else if genFails s key gen then .violation
  else .good

/-- The old bytes that a fetch or a walk may still see, without those of a sector that was written under one key and is
now written under another: no read under the new key ever saw them (R206). -/
def freshLog (s : State) (key gen : Nat) : List (Nat × Nat × Byte) :=
  let g := SMap.get 0 s.secGen (sectorOf key)
  if g = 0 ∨ g = gen then s.wlog else s.wlog.filter (fun e => sectorOf e.2.1 != sectorOf key)

/-- Marks a sector as written under a key (R206). -/
def stampGen (s : State) (key gen : Nat) : State :=
  if isHbm key ∧ gen ≠ 0 then
    { s with secGen := SMap.set 0 s.secGen (sectorOf key) gen, wlog := freshLog s key gen }
  else s

/-- A whole sector written with bytes that carry poison or none (R192, R205). -/
def putSector (s : State) (key gen : Nat) (bs : List Byte) (bad : Bool) : State :=
  stampGen (setPois (writeBytes s key bs) key bad) key gen

/-! ## Translation -/

/-- The kinds of access of R195. -/
inductive AccKind
  | read | write | rmw | fetch
  deriving DecidableEq, Repr

/-- A resolved access: the key of its first byte and the key generation it runs under. -/
structure Acc where
  key : Nat
  gen : Nat
  deriving DecidableEq, Repr

/-- The outcome of resolving an address: an access, a cause of R201, or an integrity violation in a walk. -/
inductive Res
  | ok (a : Acc)
  | fault (cause : Nat)
  | violation
  deriving DecidableEq, Repr

/-- The stamp since which translations of a page of a context may be stale (R202). -/
def xlinvSince (c : Ctx) (va : Nat) : Nat :=
  (c.xlinv.filter (fun e => decide (e.1 ≤ va) && decide (va ≤ e.2.1))).foldl (fun m e => max m e.2.2) 0

/-- What a page-table entry may be read as (R202): as it is, or as it was before any change since the last XLINV. -/
def entryChoices (s : State) (c : Ctx) (va pa : Nat) : List Nat :=
  let since := xlinvSince c va
  let key := hbmKey 0 pa
  let stamps := (s.wlog.filter (fun e => decide (since ≤ e.1) && decide (key ≤ e.2.1) && decide (e.2.1 < key + 8))).map (·.1)
  readNat s key 8 :: stamps.eraseDups.map (fun t => ofBytesLE ((List.range 8).map (fun i => byteSince s t (key + i))))

/-- A page-table entry as a walk reads it: the choice is free, page by page and level by level (R202). -/
def readEntry (s : State) (c : Ctx) (va lev pa : Nat) : Nat :=
  let l := entryChoices s c va pa
  l.getD (freeBelow s (2 ^ 60 + 3 * (va / 2 ^ 16) + lev) l.length) (readNat s (hbmKey 0 pa) 8)

/-- The physical map of R190, seen from package 0. -/
def physMap (s : State) (pa gen : Nat) : Res :=
  if pa < 2 ^ 39 then .ok ⟨hbmKey 0 pa, gen⟩
  else if pa < 2 ^ 51 then .fault causeACCESS
  else
    let o := (pa - 2 ^ 51) % 2 ^ 40
    let p := (pa - 2 ^ 51) / 2 ^ 40
    if p < 32 ∧ o < 2 ^ 39 ∧ p ≠ 0 ∧ s.hub.reach.testBit p then .ok ⟨hbmKey p o, gen⟩
    else .fault causeACCESS

/-- The host's answer to an ATS request for a 4 KiB page (R197): the permissions granted, bit 0 to read, bit 1 to write; a
mapping that a PRI response brought and no invalidation removed stands; else the answer is the host's, and free. -/
def atsGrant (s : State) (c : Ctx) (page : Nat) : Nat :=
  match s.hub.hostMap.find? (fun e => e.1 == c.pasid && e.2.1 == page) with
  | some e => e.2.2
  | none => freeBelow s (2 ^ 61 + page) 4

/-- host_translate of R197. -/
def hostTranslate (s : State) (c : Ctx) (va : Nat) (kind : AccKind) : Res :=
  match kind with
  | .fetch => .fault causeFETCH
  | .rmw => .fault causeACCESS
  | .read | .write =>
    if (atsGrant s c (va / 4096)).testBit (if kind = .write then 1 else 0) then .ok ⟨hostKey c.pasid va, 0⟩
    else .fault causePAGEREQ

/-- leaf of R195: the order of its checks is that of the procedure, which raises TRANS for an MT of 2 or 3 before it looks
at SVA (R194; log entry 48). -/
def walkLeaf (s : State) (c : Ctx) (e lev va : Nat) (kind : AccKind) (u : Bool) : Res :=
  let span := 16 + 13 * (2 - lev)
  let denied := match kind with
    | .read => !e.testBit 2
    | .write => !e.testBit 3
    | .rmw => !(e.testBit 2 && e.testBit 3)
    | .fetch => !e.testBit 4
  if bitsOf e 6 5 ≥ 2 then .fault causeTRANS
  else if e.testBit 8 && u then .fault causePERM
  else if denied then .fault causePERM
  else if e.testBit 7 then hostTranslate s c va kind
  else if e.testBit 9 && (kind == .write || kind == .rmw) && !c.shw then .fault causePERM
  else if lev < 2 ∧ bitsOf e (span - 1) 16 ≠ 0 then .fault causeTRANS
  else physMap s (bitsOf e 51 span * 2 ^ span + va % 2 ^ span) (if e.testBit 9 then s.hub.sharedGen else c.gen)

/-- The walk of R195 from level `lev`, `n` levels being left. -/
def walk (s : State) (c : Ctx) (va : Nat) (kind : AccKind) (u : Bool) : Nat → Nat → Nat → Res
  | 0, _, _ => .fault causeTRANS
  | n + 1, lev, t =>
    if t ≥ 2 ^ 39 then .fault causeTRANS
    else
      let pa := t + 8 * bitsOf va (54 - 13 * lev) (42 - 13 * lev)
      match checkSector s (hbmKey 0 pa) c.gen with
      | .media => .fault causeTRANS
      | .violation => .violation
      | .good =>
        let e := readEntry s c va lev pa
        if !e.testBit 0 then .fault causeTRANS
        else if e.testBit 1 then walkLeaf s c e lev va kind u
        else walk s c va kind u n (lev + 1) (bitsOf e 51 16 * 2 ^ 16)

/-- translate of R195. -/
def translate (s : State) (c : Ctx) (va : Nat) (kind : AccKind) (u : Bool) : Res :=
  walk s c va kind u 3 0 (field c.pgroot 51 16 * 2 ^ 16)

/-- The local window of a user core (R188), for a pair and the place of its hart. -/
def userWindow (p : Pair) (hart off size : Nat) : Res :=
  let sel := off / 2 ^ 32
  let o := off % 2 ^ 32
  if sel = 0 then (if o + size ≤ p.tcmb then .ok ⟨tcmKey hart (p.tcmBase + o), 0⟩ else .fault causeACCESS)
  else if sel = 0x10 then (if o + size ≤ p.scrb then .ok ⟨scrKey hart (p.scrBase + o), 0⟩ else .fault causeACCESS)
  else if 0x20 ≤ sel ∧ sel < 0x24 then
    (if o + size ≤ p.dsrb then .ok ⟨dsrKey hart (sel - 0x20) (p.dsrBase + o), 0⟩ else .fault causeACCESS)
  else .fault causeACCESS

/-- The local window of an M core (R371). -/
def mWindow (hart off size : Nat) : Res :=
  let hub := kindOf hart == 2
  let o40 := off - 0x4000000000
  if off + size ≤ 2 ^ 20 then .ok ⟨fwKey hart off, 0⟩
  else if 0x4000000000 ≤ off ∧ o40 < 0x40000 then
    let d := o40 / 0x10000
    let c := o40 % 0x10000 / 0x100
    let r := o40 % 0x100
    if c < 8 ∧ r < 0x28 ∧ size = 8 ∧ (hub ∨ dieOf hart = d) then .ok ⟨cpcKey (8 * d + c) r, 0⟩ else .fault causeACCESS
  else if hub ∧ 0x4100000000 ≤ off ∧ off + size ≤ 0x4100040000 then .ok ⟨snapKey (off - 0x4100000000), 0⟩
  else if hub ∧ 0x4100040000 ≤ off ∧ off + size ≤ 0x4100048000 then .ok ⟨logKey (off - 0x4100040000), 0⟩
  else .fault causeACCESS

/-- Addresses of M cores (R400). -/
def mAddress (s : State) (hart va size : Nat) (fetch : Bool) : Res :=
  if bitsOf va 54 40 = 2 ^ 15 - 1 then
    (if fetch && decide (2 ^ 20 < va % 2 ^ 40 + size) then .fault causeFETCH else mWindow hart (va % 2 ^ 40) size)
  else if va < 2 ^ 52 then
    (if fetch && decide (2 ^ 39 ≤ va) then .fault causeFETCH else physMap s va s.hub.fwGen)
  else
    let o := va - 2 ^ 54
    if !fetch ∧ 2 ^ 54 ≤ va ∧ o + size ≤ 4096 * s.hub.fwwins.toNat ∧ s.hub.fwpasid.getLsbD 20 then
      .ok ⟨hostKey (s.hub.fwpasid.toNat % 2 ^ 20) (s.hub.fwwinb.toNat / 4096 * 4096 + o), 0⟩
    else .fault causeACCESS

/-- Resolves an address of `size` bytes for a hart of a pair and context: R187, the window bounds of R188 or
translate, the physical map of R190, R197. -/
def resolve (s : State) (p : Pair) (hart : Nat) (c : Ctx) (u : Bool) (va size : Nat) (kind : AccKind) : Res :=
  if 2 ^ 55 ≤ va then .fault causeACCESS
  else if kindOf hart ≠ 0 then mAddress s hart va size (kind == .fetch)
  else if bitsOf va 54 40 = 2 ^ 15 - 1 then
    (if kind = .fetch then .fault causeFETCH else userWindow p hart (va % 2 ^ 40) size)
  else translate s c va kind u

/-- Resolves an address of a context that no hart issued: the local window names nothing there (R34, R329). -/
def ctxAccess (s : State) (c : Ctx) (va : Nat) (kind : AccKind) (u : Bool) : Res :=
  if 2 ^ 55 ≤ va ∨ bitsOf va 54 40 = 2 ^ 15 - 1 then .fault causeACCESS else translate s c va kind u

/-- Resolves an address of the hart in focus. -/
def resolveCur (s : State) (va : Dword) (size : Nat) (kind : AccKind) : Res :=
  resolve s s.p s.cur (ctxOf s s.p.ctx) (s.h.level == 0) va.toNat size kind

/-- A PAGEREQ sends one PRI page request for the page; a second miss is merged (R198). -/
def sendPri (s : State) (c va : Nat) : State :=
  modCtx s c (fun x => if x.pri.contains (va / 4096) then x else { x with pri := x.pri ++ [va / 4096] })

/-- A host access of an M core outside the firmware window is logged to the host (R355, R400). -/
def logDrop (s : State) (va : Dword) : State :=
  if kindOf s.cur ≠ 0 ∧ 2 ^ 54 ≤ va.toNat ∧ va.toNat < 2 ^ 55 ∧ bitsOf va.toNat 54 40 ≠ 2 ^ 15 - 1 then
    { s with hub := { s.hub with accessLog := s.hub.accessLog + 1 } }
  else s

end Sys2Proof.Machine
end

