-- ==== Sys2Proof/Machine/Device.lean ====
section
/-! DEFINITION. The registers an M core reaches through its local window: the cluster power controllers, the
snapshot window, the error log ring (spec/15_attachment.md R371-R374, R377; spec/14_recovery.md R348). -/
namespace Sys2Proof.Machine
open Sys2Proof

/-- The power controller of a cluster. -/
def cpcOf (s : State) (c : Nat) : Cpc := (lookupKey s.cpcs c).getD {}

/-- Changes the power controller of a cluster. -/
def modCpc (s : State) (c : Nat) (f : Cpc → Cpc) : State := { s with cpcs := insertKey s.cpcs c (f (cpcOf s c)) }

/-- Whether the cores of a cluster are clocked: not in CLKOFF or RAILOFF (R373), nor
stopped by the thermal trip (R336). -/
def clocked (s : State) (c : Nat) : Bool := !s.hub.tripped && (cpcOf s c).st < 3

/-- The CPC register at an offset, as a doubleword (R372). -/
def cpcRead (x : Cpc) (off : Nat) : Nat :=
  if off = 0x08 then
    x.st + (if x.busy then 8 else 0) + (if x.done then 16 else 0) + (if x.err then 32 else 0) + x.ecode * 256
  else if off = 0x18 then (if x.scrret then 1 else 0)
  else if off = 0x20 then x.last % 2 ^ 32
  else 0

/-- A write of CMD (R373): 1 to 4 is accepted when nothing runs and it is the next step after STATE;
otherwise ERR with ECODE 1, and a running command is not disturbed.  Other codes are ignored. -/
def cpcCommand (now cmd : Nat) (x : Cpc) : Cpc :=
  if cmd = 0 ∨ 4 < cmd then x
  else if x.busy = false ∧ cmd = x.st + 1 then
    { x with busy := true, done := false, err := false, ecode := 0, cmd := cmd, began := now, running := false }
  else { x with err := true, ecode := 1 }

/-- A 1 written to WAKE (R374): ignored in STATE ON, a QUIESCE that runs there included, and while an earlier wake has
not finished; otherwise accepted, and it follows a running command. -/
def cpcWake (now : Nat) (x : Cpc) : Cpc :=
  if x.wakeFrom.isSome ∨ x.st = 0 then x
  else
    { x with done := false, err := false, ecode := 0, busy := true, wakeFrom := some (if x.cmd = 0 then x.st else 5),
             began := if x.cmd = 0 then now else x.began }

/-- Cycles of the core clock in one cycle of the 100 MHz reference clock. -/
def refCycle : Nat := 14

/-- Reference cycles since the command or the wake of a controller began (R372). -/
def cpcElapsed (now : Nat) (x : Cpc) : Nat := (now - x.began) / refCycle

/-- The scratchpad check of a wake fails (R374 step 3), where the wake has come to that step: ECODE 4 comes with DONE. -/
def scratchLost (now : Nat) (x : Cpc) : Cpc :=
  match x.wakeFrom with
  | some n =>
    if 2 ≤ n ∧ n < 5 ∧ x.running = true ∧ (n = 2 ∨ 50 ≤ cpcElapsed now x) then { x with lost := true } else x
  | none => x

/-- A write of a CPC register (R372). -/
def cpcWrite (now off v : Nat) (x : Cpc) : Cpc :=
  if off = 0 then cpcCommand now (v % 8) x
  else if off = 0x08 then
    { x with done := x.done && !v.testBit 4, err := x.err && !v.testBit 5 }
  else if off = 0x10 then (if v.testBit 0 then cpcWake now x else x)
  else if off = 0x18 then { x with scrret := v.testBit 0 }
  else x

/-- SNAPCTL as it reads (R377). -/
def snapCtl (u : Hub) : Nat := (if u.snapHeld then 1 else 0) + u.snapSrc * 2 + u.snapSeq % 2 ^ 32 * 2 ^ 32

/-- A byte of the snapshot window (R377). -/
def snapByte (u : Hub) (off : Nat) : Byte :=
  if off < 8 then byteOf (snapCtl u) off else if u.snapHeld then SMap.get 0 u.snap off else 0

/-- Releasing the held snapshot: writing REL (R377); SRC and the latched bytes are 0 then (log entry 86). -/
def releaseSnap (s : State) : State :=
  if s.hub.snapHeld then { s with hub := { s.hub with snapHeld := false, snapSrc := 0, snap := [] } } else s

/-- A byte of the error log ring (R348). -/
def logByte (u : Hub) (off : Nat) : Byte := ((u.log.getD (off / 32) []).getD (off % 32) 0)

/-- The bytes of the verified firmware image at a place of an M core's private memory (R368, R371): memory there holds
what differs from it (log entry 5). -/
def imageNat (s : State) (key size : Nat) : Nat :=
  ofBytesLE ((List.range size).map (fun i => Config.identityByte 6 (key % 2 ^ 32 + i) s.hub.bootBank))

/-- A read at a location: memory, or the register the location is. -/
def readLoc (s : State) (key size : Nat) : Nat :=
  if spaceOf key = 8 then readNat s key size ^^^ imageNat s key size
  else if spaceOf key = 9 then cpcRead (cpcOf s (key % 2 ^ 60 / 256)) (key % 256)
  else if spaceOf key = 10 then
    ofBytesLE ((List.range size).map (fun i => snapByte s.hub (key % 2 ^ 60 + i)))
  else if spaceOf key = 11 then
    ofBytesLE ((List.range size).map (fun i => logByte s.hub (key % 2 ^ 60 + i)))
  else readNat s key size

/-- A write at a location: memory, or the register the location is.  The log ring and the latched values of
the snapshot window are read only; REL is bit 8 of SNAPCTL. -/
def writeLoc (s : State) (key v size : Nat) : State :=
  if spaceOf key = 8 then writeNat s key (v % 2 ^ (8 * size) ^^^ imageNat s key size) size
  else if spaceOf key = 9 then modCpc s (key % 2 ^ 60 / 256) (cpcWrite s.hub.refNow (key % 256) v)
  else if spaceOf key = 10 then
    (let off := key % 2 ^ 60
     if off ≤ 1 ∧ 1 < off + size ∧ v.testBit (8 * (1 - off)) then releaseSnap s else s)
  else if spaceOf key = 11 then s
  else writeNat s key v size

end Sys2Proof.Machine
end

