-- ==== Sys2Proof/Machine/Umpire.lean ====
section
/-! DEFINITION. The Umpire (spec/11_progress_rules.md R263-R278): entries, holds, edges, effective priority,
walks, the deadlock record, the conditions of waits and the words they stand on (spec/12 R295-R305). -/
namespace Sys2Proof.Machine
open Sys2Proof

/-! ## Waits and holders -/

/-- Every wait with its owner: of bound harts and of saved items (R288). -/
def allWaits (s : State) : List (Nat × Wait) :=
  (allHarts s).filterMap (fun e => e.2.wait.map (fun w => (e.2.uid, w)))
    ++ s.launches.flatMap (fun l => l.items.flatMap (·.waits))

/-- The wait of an owner. -/
def waitOf (s : State) (uid : Nat) : Option Wait := ((allWaits s).find? (fun e => e.1 == uid)).map (·.2)

/-- The number of the hart an owner is bound to. -/
def hartOf (s : State) (uid : Nat) : Option Nat :=
  ((allHarts s).find? (fun e => e.2.uid == uid && uid != 0)).map (·.1)

/-- The launch tag and item index of an owner number. -/
def itemOfUid (uid : Nat) : Nat × Nat := (uid / 2 / 2 ^ 40, uid / 2 % 2 ^ 40)

/-- Whether an owner is a hart of a peer package (R267). -/
def isPeer (uid : Nat) : Bool := decide (2 ^ 129 ≤ uid)

/-- The base priority of a live owner, bound or saved; none once it has ended. -/
def prioOf (s : State) (uid : Nat) : Option Nat :=
  match (allHarts s).find? (fun e => e.2.uid == uid) with
  | some e => if e.2.issue = .ended then none else some e.2.prio.toNat
  | none =>
    ((s.launches.flatMap (fun l => l.items.flatMap (·.prios))).find? (fun e => e.1 == uid)).map (·.2.toNat)

/-- The context slot of an owner. -/
def ctxOfUid (s : State) (uid : Nat) : Nat := ((getLaunch s (itemOfUid uid).1).map (·.ctx)).getD 64

/-- The aligned 8-byte word that contains a key (R263). -/
def wordOf (key : Nat) : Nat := key / 8 * 8

/-- The objects a wait stands on (R263). -/
def objsOf (uid : Nat) : WaitKind → List Obj
  | .qsend q _ => [.queue (uid / 2) q]
  | .qrecv q _ => [.queue (uid / 2) q]
  | .waits sem _ => [.sem sem]
  | .bar key _ _ _ => [.word (wordOf key)]
  | .lock key _ => [.word (wordOf key)]
  | .ldwait key _ _ _ => [.word (wordOf key)]
  | .waitv _ ents => ents.map (fun e => .word (wordOf e.1))
  | .sleep => []
  | .fence _ _ _ => []
  | .sbar _ _ => []

/-- PHASE of a barrier word (R299). -/
def barPhase (w : Nat) : Nat := bitsOf w 63 48

/-- An item by its launch tag and index. -/
def itemAt (s : State) (x : Nat × Nat) : Option Item := (getLaunch s x.1).bind (getItem · x.2)

/-- PHASE of the barrier word at a key; of one in the TCM of a saved item, as it was saved (R288). -/
def phaseAt (s : State) (key : Nat) : Nat :=
  if isSaved key then (((itemAt s (savedItemOf key)).bind (fun it => lookupKey it.phases key)).getD 0)
  else barPhase (readLoc s key 8)

/-- The owners of the recorded holds of one kind on an object that owe something there (R263): of a barrier, the members
that have not arrived in its present phase. -/
def owersOf (s : State) (k : HoldKind) (o : Obj) : List Nat :=
  let held := s.holds.filter (fun h => h.recorded && h.obj == o && h.kind == k)
  match k, o with
  | .member, .word key => (held.filter (fun h => h.phase != some (phaseAt s key))).map (·.uid)
  | _, _ => held.map (·.uid)

/-- The owners a wait has an edge to through one object (R263). -/
def holdersOf (s : State) (uid : Nat) (k : WaitKind) (o : Obj) : List Nat :=
  match k with
  | .qsend _ _ | .qrecv _ _ =>
    let partner := if uid % 2 = 0 then uid + 1 else uid - 1
    if (prioOf s partner).isSome then [partner] else []
  | .lock _ _ => owersOf s .lock o
  | .bar _ _ _ _ => owersOf s .member o
  | .waits _ _ | .ldwait _ _ _ _ | .waitv _ _ => owersOf s .wo o
  | .sleep | .fence _ _ _ | .sbar _ _ => []

/-- The edges a wait has while it is registered: object and holder (R263). -/
def rawEdges (s : State) (uid : Nat) (w : Wait) : List (Obj × Nat) :=
  (objsOf uid w.kind).flatMap (fun o => (holdersOf s uid w.kind o).map (fun h => (o, h)))

/-- Whether the edges of a wait stand in the table: inserted, closing no cycle, neither decided nor in withdrawal (R256,
R265, R271, R301). -/
def inTable (w : Wait) : Bool :=
  w.decided.isNone && w.withdrawing.isNone &&
  (match w.found with
   | some .clear => true
   | some (.suspect _ _) => true
   | some (.cycle _) => false
   | none => false)

/-- The edges of a wait now. -/
def edgesOf (s : State) (uid : Nat) (w : Wait) : List (Obj × Nat) := if inTable w then rawEdges s uid w else []

/-! ## Effective priority (R268) -/

/-- ep along chains of at most `n` edges. -/
def epOf (s : State) : Nat → Nat → Nat
  | 0, uid => (prioOf s uid).getD 0
  | n + 1, uid =>
    let waiters := (allWaits s).filter (fun e => (edgesOf s e.1 e.2).any (fun d => d.2 == uid))
    let far := s.rwaits.filter (fun r => (owersOf s r.kind r.obj).contains uid)
    far.foldl (fun m r => max m r.prio) (waiters.foldl (fun m e => max m (epOf s n e.1)) ((prioOf s uid).getD 0))

/-- The effective priority of an owner (R268). -/
def ep (s : State) (uid : Nat) : Nat := epOf s 16 uid

/-- A hart is boosted while a registered wait has an edge to it (R268). -/
def isBoosted (s : State) (uid : Nat) : Bool :=
  (allWaits s).any (fun e => (edgesOf s e.1 e.2).any (fun d => d.2 == uid))
    || s.rwaits.any (fun r => (owersOf s r.kind r.obj).contains uid)

/-! ## Entries (R265) -/

/-- Claims one entry for a wait: refused at the context's quota or when the die's share is empty.  The hub
core has no compute die; it claims from the pool. -/
def claimEntry (s : State) : Option State :=
  let c := s.p.ctx
  let x := ctxOf s c
  let die := dieOf s.cur
  if kindOf s.cur = 2 then
    (if s.pool = 0 then none else some (modCtx { s with pool := s.pool - 1 } c (fun x => { x with used := x.used + 1 })))
  else if kindOf s.cur = 0 ∧ x.quota ≤ x.used then none
  else
    match s.shares.getD die 0 with
    | 0 => none
    | n + 1 => some (modCtx { s with shares := s.shares.set die n } c (fun x => { x with used := x.used + 1 }))

/-- Sets bits of UMPST; with NOTE set, the hart that caused them gets the notice (R277). -/
def setUmpst (s : State) (c bit : Nat) (hart : Option Nat) : State :=
  let s := modCtx s c (fun x => { x with umpst := x.umpst ||| (1#5 <<< bit) })
  if (ctxOf s c).note then
    match hart with
    | some id => modHart s id (fun h => { h with note := true })
    | none => s
  else s

/-- Whether a context holds every entry of its quota (R265, R289); a core of M has no context and no quota. -/
def quotaFull (s : State) (c : Nat) : Bool := ((getCtx s c).map (fun x => decide (x.quota ≤ x.used))).getD false

/-- Records a hold of the owner; it takes an entry from the die's share or the pool, else it is kept unrecorded and
LOSTHOLD is set (R265).  A context never uses entries beyond its quota, so a hold beyond it is kept so too (R289; log entry
76). -/
def addHold (s : State) (uid c die : Nat) (o : Obj) (k : HoldKind) (hart : Option Nat) : State × Bool :=
  let put (s : State) (r : Bool) : State :=
    { s with holds := s.holds ++ [{ obj := o, kind := k, uid := uid, ctx := c, die := die, recorded := r }] }
  let lost : State × Bool := (setUmpst (put s false) c 1 hart, false)
  if quotaFull s c then lost
  else
    match s.shares.getD die 0 with
    | n + 1 =>
      (put (modCtx { s with shares := s.shares.set die n } c (fun x => { x with used := x.used + 1 })) true, true)
    | 0 =>
      if s.pool = 0 then lost
      else (put (modCtx { s with pool := s.pool - 1 } c (fun x => { x with used := x.used + 1 })) true, true)

/-- The die of an owner: where it is bound, else where it was last. -/
def holdDieOf (s : State) (uid last : Nat) : Nat := ((hartOf s uid).map dieFor).getD last

/-- Removes the holds that a test names; the entries freed by a hart of a die return there (R265).  A peer's hold has no
entry here (R267). -/
def removeHolds (s : State) (die : Nat) (t : Hold → Bool) : State :=
  let gone := s.holds.filter t
  let s := { s with holds := s.holds.filter (fun h => !t h) }
  gone.foldl (fun s h => if h.recorded && !isPeer h.uid then freeEntries s h.ctx die 1 else s) s

/-- Moves entries from the pool into a share below 128 until it holds 256 or the pool is empty (R265). -/
def refillShare (s : State) (die : Nat) : State :=
  let have_ := s.shares.getD die 0
  if have_ < 128 ∧ die < 4 then
    let n := min (256 - have_) s.pool
    { s with shares := s.shares.set die (have_ + n), pool := s.pool - n }
  else s

/-! ## Conditions -/

/-- COND of LDWAIT and WAITV: 0 ne, 1 eq, 2 geu (R304, R305). -/
def condHolds (cond word cmp : Nat) : Bool :=
  if cond = 0 then word != cmp else if cond = 1 then word == cmp else decide (cmp ≤ word)

/-- VALUE of a semaphore (R297). -/
def semValue (v : BitVec 33) : Nat := v.toNat % 2 ^ 32
/-- ERR of a semaphore (R297). -/
def semErr (v : BitVec 33) : Bool := v.getLsbD 32

/-- The entries of a WAITV that hold now, as a bit set (R305). -/
def waitvSat (s : State) : List (Nat × Nat × Dword) → Nat → Nat
  | [], _ => 0
  | e :: es, i =>
    (if condHolds e.2.1 (readLoc s e.1 8) e.2.2.toNat then 2 ^ i else 0) + waitvSat s es (i + 1)

/-- The words a wait reads at each evaluation (R292). -/
def wordsOf : WaitKind → List Nat
  | .bar key _ _ _ => [key]
  | .lock key _ => [key]
  | .ldwait key _ _ _ => [key]
  | .waitv _ ents => ents.map (·.1)
  | .qsend _ _ | .qrecv _ _ | .waits _ _ | .sleep | .fence _ _ _ | .sbar _ _ => []

/-- What reading words in order under their key generations finds: the first that is not good (R204). -/
def wordsCheck (s : State) : List Nat → List Nat → Check
  | [], _ => .good
  | k :: ks, gs =>
    match checkSector s k (gs.headD 0) with
    | .good => wordsCheck s ks gs.tail
    | c => c

/-- Whether an outstanding request is one a FENCE waits for (R226): its instruction is covered, it meets SCOPE, and where
only reads are covered it reads. -/
def fenceWaits (ids : List Nat) (scope : Nat) (rel : Bool) (r : Req) : Bool :=
  ids.contains (ordOf r) && meetsScope r.hart r.key scope && (rel || reqReads r)

/-- Whether a set of streams names one of an access. -/
def setNames (set : Nat) (g : Option Nat) : Bool := (g.map set.testBit).getD false

/-- Whether an outstanding request is one an SBAR waits for (R227): its instruction is covered, and its stream named. -/
def sbarWaits (ids : List Nat) (set : Nat) (r : Req) : Bool := ids.contains (ordOf r) && setNames set r.strm

/-- What an evaluation of a wait's condition finds in its words: 0 OK, or nothing (R292-R305).  A waiting LOCK is
satisfied only by a handoff (R302). -/
def condHeld (s : State) (p : Pair) (k : WaitKind) : Option Nat :=
  match k with
  | .qsend q _ => if (p.q.getD q []).length < 16 then some 0 else none
  | .qrecv q _ => if (p.q.getD q []) ≠ [] then some 0 else none
  | .waits sem thr =>
    let v := semSeen s sem
    if semErr v then some 7 else if thr ≤ semValue v then some 0 else none
  | .bar key ph _ _ => if barPhase (readLoc s key 8) ≠ ph then some 0 else none
  | .lock _ _ => none
  | .ldwait key c cmp _ => if condHolds c (readLoc s key 8) cmp.toNat then some 0 else none
  | .waitv all ents =>
    let sat := waitvSat s ents 0
    if (if all then sat == ones ents.length else sat != 0) then some 0 else none
  | .sleep => none
  | .fence ids scope rel =>
    if s.reqs.any (fenceWaits ids scope rel) || p.dq.any (fun e => ids.contains e.id) then none else some 0
  | .sbar ids set => if s.reqs.any (sbarWaits ids set) || p.dq.any (fun e => ids.contains e.id) then none else some 0

/-- The outcome of an evaluation that ends the context: no status of R261. -/
def codeViolation : Nat := 256

/-- What an evaluation of a wait finds now: 0 OK or 7 POISON, nothing, or an integrity violation in a word (R204,
R261). -/
def condNow (s : State) (pid : Nat) (k : WaitKind) (gens : List Nat) : Option Nat :=
  match wordsCheck s (wordsOf k) gens with
  | .media => some 7
  | .violation => some codeViolation
  | .good => condHeld s ((getPair s pid).getD {}) k

/-- SAT of a wait: what its decision found, else the entries of a WAITV that hold now (R260, R305), one on a poisoned word
by the bits that the word holds (log entry 87). -/
def satOf (s : State) (w : Wait) : Nat :=
  match w.kind with
  | .waitv _ ents => if w.decided.isSome then w.sat else waitvSat s ents 0
  | .qsend _ _ | .qrecv _ _ | .waits _ _ | .bar _ _ _ _ | .lock _ _ | .ldwait _ _ _ _ | .sleep | .fence _ _ _ | .sbar _ _ => 0

/-! ## Walks (R271) -/

/-- What a walk has found so far: a cycle, a path that reached its limit, one that leaves the package, the longest path
with the holder its last edge leads to, the edges examined. -/
structure Walk where
  cycle : Option (List (Nat × Obj)) := none
  suspect : Bool := false
  far : Option (List (Nat × Obj)) := none
  best : List (Nat × Obj) × Nat := ([], 0)
  count : Nat := 0
  deriving DecidableEq, Repr

/-- An any-mode WAITV of two or more entries is never walked through (R305). -/
def walkable (w : Wait) : Bool :=
  match w.kind with
  | .waitv false (_ :: _ :: _) => false
  | _ => true

/-- The longer of two paths; of equal ones the first. -/
def longer (a b : List (Nat × Obj) × Nat) : List (Nat × Obj) × Nat := if a.1.length < b.1.length then b else a

/-- Whether an object's home is another package, which keeps its holder relation (R267). -/
def homedFar : Obj → Bool
  | .word k => isHbm k && keyPkg k != 0
  | .sem k => decide (32 ≤ k / 512)
  | .queue _ _ => false

/-- The walk of a registered wait on an object homed in another package leaves this one (R267). -/
def noteFar (u : Nat) (w : Wait) (path : List (Nat × Obj)) (a : Walk) : Walk :=
  match (objsOf u w.kind).find? homedFar with
  | some o => if inTable w then { a with far := some (a.far.getD (path ++ [(u, o)])) } else a
  | none => a

/-- The walk from owner `u` for the new wait of `x`, with `n` edges left on the path (R271). -/
def walkFrom (s : State) (x : Nat) : Nat → Nat → List (Nat × Obj) → Walk → Walk
  | 0, u, _, a => if (waitOf s u).isSome then { a with suspect := true } else a
  | n + 1, u, path, a =>
    match waitOf s u with
    | none => a
    | some w =>
      if !walkable w then a
      else
        (edgesOf s u w).foldl (fun a e =>
          if a.cycle.isSome then a
          else if 256 ≤ a.count then { a with suspect := true }
          else
            let path' := path ++ [(u, e.1)]
            let a := { a with count := a.count + 1, best := longer a.best (path', e.2) }
            if e.2 = x then { a with cycle := some path' }
            else if isPeer e.2 then { a with far := some (a.far.getD path') }
            else walkFrom s x n e.2 path' a) (noteFar u w path a)

/-! ## The deadlock record (R275) -/

/-- OKIND of a wait. -/
def okindOf : WaitKind → Nat
  | .lock _ _ => 0 | .bar _ _ _ _ => 1 | .waits _ _ => 2 | .ldwait _ _ _ _ => 3 | .waitv _ _ => 3
  | .qrecv _ _ => 4 | .qsend _ _ => 5 | .sleep => 0 | .fence _ _ _ => 0 | .sbar _ _ => 0

/-- OBJ of an object. -/
def objId : Obj → Nat
  | .word id => id
  | .sem id => id
  | .queue _ q => q

/-- A word as a record names it: in a saved item's TCM, where that last was (R401). -/
def recordKey (s : State) (key : Nat) : Nat :=
  if isSaved key then
    match getLaunch s (savedItemOf key).1, itemAt s (savedItemOf key) with
    | some l, some it => tcmKey (2 * it.pair) (it.pair % 8 * (2 ^ 19 / max 1 l.pairs) + (key - 2 ^ 100) % 2 ^ 20)
    | _, _ => 0
  else key

/-- One entry of a record, as the table stands. -/
def recEntry (s : State) (e : Nat × Obj) : RecEnt :=
  let uid := e.1
  let last := match hartOf s uid with
    | some id => id
    | none =>
      2 * ((((getLaunch s (itemOfUid uid).1).bind (getItem · (itemOfUid uid).2)).map (·.pair)).getD 0) + uid % 2
  let res := if (hartOf s uid).isSome then 1 else 0
  let okind := match waitOf s uid with
    | some w => okindOf w.kind
    | none => 0
  let w0 := last % 2 ^ 19 + ctxOfUid s uid % 64 * 2 ^ 19 + res * 2 ^ 25 + ep s uid % 16 * 2 ^ 26 + okind * 2 ^ 32
  { uid := uid, ctx := ctxOfUid s uid, w0 := w0, w1 := recordKey s (objId e.2) }

/-- The entries a walk through another package adds: its harts, contexts and objects are free (log entry 12). -/
def farEntries (s : State) (n : Nat) : List RecEnt :=
  (List.range n).map (fun i =>
    let hart := 4096 * (1 + freeBelow s (3510 + 4 * i) 31) + freeBelow s (3511 + 4 * i) 4096
    let ctx := freeBelow s (3512 + 4 * i) 64
    { uid := 2 ^ 129 + hart, ctx := ctx
      w0 := hart + ctx * 2 ^ 19 + freeBelow s (3513 + 4 * i) 32 * 2 ^ 25 + freeBelow s (3514 + 4 * i) 6 * 2 ^ 32
      w1 := Config.freeNat s.free (3600 + i) % 2 ^ 64 })

/-- The context of the hart a path's last edge leads to; of a peer's it is not known here, and free (log entry 12). -/
def endCtx (s : State) (uid : Nat) : Nat := if isPeer uid then freeBelow s 3509 64 else ctxOfUid s uid

/-- What the walk for a wait whose edges were just inserted finds (R271); one that leaves the package may come back, or
end there, as the other tables stand (R267; log entry 12). -/
def walkFound (s : State) (uid : Nat) (w : Wait) : Found :=
  if !walkable w then .clear
  else
    let a := walkFrom s uid 16 uid [] {}
    let made (p : List (Nat × Obj)) : List RecEnt := (p.take 16).map (recEntry s)
    let longest : Found := .suspect (made a.best.1) (endCtx s a.best.2)
    match a.cycle, a.far with
    | some path, _ => .cycle (made path)
    | none, some path =>
      let back := made path ++ farEntries s (1 + freeBelow s 3501 (15 - path.length))
      (match freeBelow s 3500 3 with
       | 0 => if a.suspect then longest else .clear
       | 1 => if path.length < 16 then .cycle back else longest
       | _ => if path.length < 16 then .suspect back (freeBelow s 3509 64) else longest)
    | none, none => if a.suspect then longest else .clear

/-- The wait with the result of its registration: its edges are inserted and the walk runs on the table as it then
stands (R266, R271). -/
def foundFor (s1 : State) (uid : Nat) (w : Wait) : Wait := { w with found := some (walkFound s1 uid w) }

/-- Whether a wait still has to be inserted. -/
def unregistered (w : Wait) : Bool := w.found.isNone && w.decided.isNone && w.withdrawing.isNone

/-- The Umpire registers the wait of the hart in focus (R266, R271). -/
def insertCur (s : State) : State :=
  match s.h.wait with
  | some w =>
    if unregistered w then
      let s1 := { s with h := { s.h with wait := some { w with found := some .clear } } }
      { s1 with h := { s1.h with wait := some (foundFor s1 s.h.uid w) } }
    else s
  | none => s

/-- The Umpire registers the wait of an owner whose item is saved (R288). -/
def insertSaved (s : State) (uid : Nat) : State :=
  let (t, i) := itemOfUid uid
  let put (s : State) (f : Wait → Wait) : State :=
    modItem s t i (fun it => { it with waits := it.waits.map (fun e => if e.1 == uid then (e.1, f e.2) else e) })
  match ((getLaunch s t).bind (getItem · i)).bind (fun it => it.waits.find? (fun e => e.1 == uid)) with
  | some (_, w) =>
    if unregistered w then
      let s1 := put s (fun w => { w with found := some .clear })
      put s1 (fun _ => foundFor s1 uid w)
    else s
  | none => s

/-- The 16 bytes of an entry. -/
def entBytes (e : RecEnt) : List Byte := natBytes e.w0 8 ++ natBytes e.w1 8

/-- The 272 bytes of a record: KIND, the path, whether it was cut, SEQ, WHEN. -/
def deadlockRecord (kind : Nat) (path : List RecEnt) (cut : Bool) (seq since : Nat) : List Byte :=
  let path := path.take 16
  let head := kind + path.length * 256 + (if cut then 2 ^ 16 else 0) + seq % 2 ^ 32 * 2 ^ 32
  let ents := path.flatMap entBytes
  natBytes head 8 ++ natBytes since 8 ++ ents ++ List.replicate (256 - ents.length) 0

end Sys2Proof.Machine
end

