-- ==== Sys2Proof/Machine/Events.lean ====
section
/-! DEFINITION. Reports of the hub: events to the host (spec/15_attachment.md R358), the package error log and
the notices it raises (spec/14_recovery.md R348, R349). -/
namespace Sys2Proof.Machine
open Sys2Proof

/-- CYC of a core: cycles while clocked, and a held value while not (R24).  How the CYCs of different cores stand to
each other is not stated: the model counts those of clocked cores by one package count (log entry 56).  `cyc` holds, for
a core that is not in step with the package count, twice the value it holds or the offset it lags by. -/
def cycOf (s : State) (hart : Nat) : Nat :=
  let c := SMap.get 0 s.cyc (coreOf hart)
  if c % 2 = 1 then c / 2 else s.now - c / 2

/-- Whether firmware may reach `n` bytes of host memory at a window offset (R336, R355). -/
def windowOk (s : State) (off n : Nat) : Bool :=
  s.hub.fwpasid.getLsbD 20 && decide (off + n ≤ 4096 * s.hub.fwwins.toNat)

/-- The key of host memory at a window offset. -/
def windowKey (s : State) (off : Nat) : Nat :=
  hostKey (s.hub.fwpasid.toNat % 2 ^ 20) (s.hub.fwwinb.toNat / 4096 * 4096 + off)

/-- Firmware writes bytes at a window offset in accesses of 64 bytes (log entry 64): each is checked by itself, and one
outside the window is dropped and logged (R355). -/
def windowWrite (s : State) (off : Nat) (bs : List Byte) : State :=
  if windowOk s off bs.length then writeBytes s (windowKey s off) bs
  else
    (List.range (ceilDiv bs.length 64)).foldl (fun s i =>
      let part := (bs.drop (64 * i)).take 64
      if windowOk s (off + 64 * i) part.length then writeBytes s (windowKey s (off + 64 * i)) part
      else { s with hub := { s.hub with accessLog := s.hub.accessLog + 1 } }) s

/-- Number of records of the event ring. -/
def ringSize (u : Hub) : Nat := 2 ^ u.evLog

/-- Whether the ring has room (R358); before any EVRING there is none, and events are held and dropped as at a full ring
(log entry 69). -/
def ringRoom (u : Hub) : Bool := u.evOn && decide ((u.evtail - u.evhead).toNat < ringSize u)

/-- Writes one event record into the ring and advances EVTAIL; MSI-X fires when EVTAIL becomes unequal to
EVHEAD (R358). -/
def writeEvent (s : State) (bs : List Byte) : State :=
  let u := s.hub
  let s := windowWrite s (u.evBase + 320 * (u.evtail.toNat % ringSize u)) bs
  { s with hub := { s.hub with
      evtail := u.evtail + 1
      msi := if u.evtail = u.evhead then u.msi + 1 else u.msi } }

/-- The 320 bytes of an event (R358). -/
def eventBytes (s : State) (type : Nat) (ctx : Option Nat) (body : List Byte) : List Byte :=
  let c := match ctx with
    | some c => c % 64 * 2 ^ 13 + 2 ^ 19
    | none => 0
  let head := type + c + s.hub.evSeq % 2 ^ 32 * 2 ^ 32
  let b := body.take 304
  natBytes head 8 ++ natBytes (cycOf s hubId) 8 ++ b ++ List.replicate (304 - b.length) 0

/-- Sends an event: into the ring, or held up to 256, or dropped and counted in EVLOST (R358).  SEQ counts every event from
0, a dropped one included (log entry 84). -/
def sendEvent (s : State) (type : Nat) (ctx : Option Nat) (body : List Byte) : State :=
  let bs := eventBytes s type ctx body
  let s := { s with hub := { s.hub with evSeq := s.hub.evSeq + 1 } }
  if ringRoom s.hub && s.hub.evHeld.isEmpty then writeEvent s bs
  else if s.hub.evHeld.length < 256 then { s with hub := { s.hub with evHeld := s.hub.evHeld ++ [bs] } }
  else { s with hub := { s.hub with evlost := if s.hub.evlost = BitVec.allOnes 32 then s.hub.evlost else s.hub.evlost + 1 } }

/-- Moves held events into the ring while it has room. -/
def drainHeld : Nat → State → State
  | 0, s => s
  | n + 1, s =>
    match s.hub.evHeld with
    | [] => s
    | bs :: rest =>
      if ringRoom s.hub then drainHeld n (writeEvent { s with hub := { s.hub with evHeld := rest } } bs) else s

/-! ## The error log (R348) -/

/-- One detected event. -/
structure ErrInfo where
  unit : Nat
  sev : Nat
  inj : Bool := false
  rep : Bool := false
  ctx : Option Nat := none
  hart : Option Nat := none
  inst : Nat := 0
  addr : Nat := 0
  deriving DecidableEq, Repr

/-- The 32 bytes of a log record. -/
def errBytes (s : State) (e : ErrInfo) : List Byte :=
  let b (x : Bool) (n : Nat) : Nat := if x then 2 ^ n else 0
  let head := e.unit + e.sev * 16 + b e.inj 6 + b e.rep 7 + e.ctx.getD 0 % 64 * 256 + b e.ctx.isSome 14
    + s.hub.logSeq % 2 ^ 32 * 2 ^ 32
  let where_ := e.hart.getD 0 % 2 ^ 19 + b e.hart.isSome 19 + e.inst % 2 ^ 12 * 2 ^ 20
  natBytes head 8 ++ natBytes where_ 8 ++ natBytes e.addr 8 ++ natBytes (cycOf s (e.hart.getD hubId)) 8

/-- Appends a record to the ring of 1,024; a full ring loses its oldest record and counts it; the host is told of
both (R348, R358). -/
def appendLog (s : State) (e : ErrInfo) : State :=
  let bs := errBytes s e
  let u := s.hub
  let slot := u.logSeq % 1024
  let s := { s with hub := { u with
    log := if u.log.length < 1024 then u.log ++ [bs] else u.log.set slot bs
    logSeq := u.logSeq + 1
    logOver := if u.log.length < 1024 then u.logOver else min (u.logOver + 1) (2 ^ 32 - 1) } }
  let s := if u.log.length < 1024 then s else sendEvent s 8 none (natBytes s.hub.logOver 4)
  sendEvent s 2 e.ctx bs

/-- ERRNOTE on the hart an event is attributed to (R349): while one is pending, further events coalesce. -/
def noteError (s : State) (e : ErrInfo) : State :=
  match e.hart, e.ctx with
  | some id, some c =>
    let chk := (ctxOf s c).chkctl
    if (e.sev = 0 ∧ chk.getLsbD 16) ∨ (e.sev = 1 ∧ chk.getLsbD 17) then
      let tval := e.unit + e.sev * 16 + (if e.inj then 64 else 0)
        + (if 5 ≤ e.unit ∧ e.unit ≤ 9 then e.addr % 2 ^ 32 * 2 ^ 32 else 0)
      modHart s id (fun h => { h with errNote := match h.errNote with
        | some t => some t
        | none => some (BitVec.ofNat 64 tval) })
    else s
  | _, _ => s

/-- The context of a hart, where it has one. -/
def ctxOfHart (s : State) (id : Nat) : Option Nat := ((getPair s (pairOf id)).map (·.ctx)).filter (fun c => (getCtx s c).isSome)

/-- A detected event: logged, and told to the hart that met it (R348, R349). -/
def detect (s : State) (e : ErrInfo) : State := noteError (appendLog s e) e

/-- The leaf that maps an address of a context, as a walk reads it (R202), `n` levels being left. -/
def leafAt (s : State) (c : Ctx) (va : Nat) : Nat → Nat → Nat → Option Nat
  | 0, _, _ => none
  | n + 1, lev, t =>
    let e := readEntry s c va lev (t + 8 * bitsOf va (54 - 13 * lev) (42 - 13 * lev))
    if !e.testBit 0 then none
    else if e.testBit 1 then some e
    else leafAt s c va n (lev + 1) (bitsOf e 51 16 * 2 ^ 16)

/-- The memory type of an address of a context (R194); the cores of M, which have none, read HBM as a cached page does
(R400). -/
def pageType (s : State) (c va : Nat) : Option Nat :=
  if 64 ≤ c then some 0
  else (leafAt s (ctxOf s c) va 3 0 (field (ctxOf s c).pgroot 51 16 * 2 ^ 16)).map (fun e => bitsOf e 6 5)

/-- Whether a read that misses allocates in its home slice (R203): never on an uncached page; on a cached one as POL
says, normal and keep allocating; of a read without a POL field it is not stated. -/
def allocates (s : State) (c va : Nat) (pol : Option Nat) : Option Bool :=
  match pageType s c va with
  | some 0 => pol.map (fun p => p == 0 || p == 2)
  | some _ => some false
  | none => none

/-- The one-shot fires at a read of its sector (R351): ARM clears, FIRED is set, the record carries INJ; when the
read allocates, the L2 copy, which is clean, holds the poison; where that is not stated it is free.  The event is of a
context and, where one is known, of a hart. -/
def fireFor (s : State) (ctx hart : Option Nat) (key : Nat) (alloc : Option Bool) : State :=
  if shotAt s key then
    let s := { s with hub := { s.hub with arm := false, fired := true } }
    let s := detect s { unit := 0, sev := 1, inj := true, ctx := ctx, hart := hart, addr := sectorOf key * 64 }
    if alloc.getD (freeBelow s 11 2 == 1) && !isPois s key then
      setPois { s with hub := { s.hub with shotCopies := sectorOf key :: s.hub.shotCopies } } key true
    else s
  else s

/-- A context slot as an event names it, where it holds a context (R348). -/
def liveCtx (s : State) (c : Nat) : Option Nat := (some c).filter (fun c => (getCtx s c).isSome)

/-- The one-shot fires at a read of a hart, or of the hub. -/
def fireShot (s : State) (hart : Option Nat) (key : Nat) (alloc : Option Bool) : State :=
  fireFor s (hart.bind (ctxOfHart s)) hart key alloc

/-- The sector that waits for the one-shot among the table entries a walk reads (R195, R202, R351), `n` levels being
left. -/
def walkShot (s : State) (c : Ctx) (va : Nat) : Nat → Nat → Nat → Option Nat
  | 0, _, _ => none
  | n + 1, lev, t =>
    let pa := t + 8 * bitsOf va (54 - 13 * lev) (42 - 13 * lev)
    if shotAt s (hbmKey 0 pa) then some (hbmKey 0 pa)
    else
      let e := readEntry s c va lev pa
      if e.testBit 0 && !e.testBit 1 then walkShot s c va n (lev + 1) (bitsOf e 51 16 * 2 ^ 16) else none

/-- The one-shot fires at a walk's own read of its sector (R195, R351). -/
def fireWalk (s : State) (c : Nat) (va : Nat) (hart : Option Nat) : State :=
  match walkShot s (ctxOf s c) va 3 0 (field (ctxOf s c).pgroot 51 16 * 2 ^ 16) with
  | some k => fireFor s (liveCtx s c) hart k none
  | none => s

/-- Whether an agent translates: a user hart, or the hub for a context. -/
def walks (hart : Option Nat) : Bool := ((hart.map kindOf).getD 0) == 0

/-- A resolution that failed for an agent and a context: a walk that met the one-shot is reported (R195, R351), and a
PAGEREQ sends its page request (R198). -/
def walkDone (s : State) (c : Nat) (hart : Option Nat) (cause va : Nat) : State :=
  let s := if cause = causeTRANS ∧ walks hart = true ∧ s.hub.arm = true then fireWalk s c va hart else s
  if cause = causePAGEREQ then sendPri s c va else s

/-- A failed resolution of an access of the hart in focus: the trap of its cause with TVAL the address, a
page request sent for PAGEREQ, what follows a violation (R195, R201, R204). -/
def memFault (r : Res) (va : Dword) (s : State) : State :=
  match r with
  | .ok _ => s
  | .violation => violateHere s
  | .fault c => trapHere c va (walkDone s s.p.ctx (some s.cur) c va.toNat)

/-- A skipped poisoned index marks the item (R343, R345) and, with NOTEU, notifies the hart (R338); TVAL names UNIT 5 and
SEV 1, its upper half 0 (log entry 70). -/
def noteSkip (s : State) (hart : Nat) : State :=
  match getPair s (pairOf hart) with
  | none => s
  | some p =>
    let s := markEscape s p.item
    if (ctxOf s p.ctx).chkctl.getLsbD 17 then
      modHart s hart (fun h => { h with errNote := match h.errNote with
        | some t => some t
        | none => some (BitVec.ofNat 64 (5 + 16)) })
    else s

end Sys2Proof.Machine
end

