-- ==== Sys2Proof/Machine/Requests.lean ====
section
/-! DEFINITION. Scalar accesses from their issue to their answer (spec/10_order_instructions.md R231-R235):
what stalls them, the checks before they are queued, the order in which they may be performed
(spec/09_order_rules.md R211-R218, R402) and what each does at its home. -/
namespace Sys2Proof.Machine
open Sys2Proof

/-! ## Breakpoints (R333) -/

/-- Whether comparator `b` matches an address. -/
def bpMatches (b : Breakpoint) (a : Nat) : Bool :=
  let ign := min (bitsOf b.ctl.toNat 8 3) 55
  a % 2 ^ 55 / 2 ^ ign == b.va.toNat / 2 ^ ign

/-- The lowest comparator that matches one of the bytes of a data access, with the first byte it matches. -/
def bpData (h : Hart) (va size : Nat) (rd wr : Bool) : Option (Nat × Nat) :=
  (List.range 8).findSome? (fun n =>
    let b := h.bps.toList.getD n {}
    if (rd && b.ctl.getLsbD 1) || (wr && b.ctl.getLsbD 2) then
      ((List.range size).find? (fun i => bpMatches b (va + i))).map (fun i => (n, va + i))
    else none)

/-- The lowest comparator that matches an instruction address. -/
def bpExec (h : Hart) (pc : Nat) : Option Nat :=
  (List.range 8).find? (fun n => let b := h.bps.toList.getD n {}; b.ctl.getLsbD 0 && bpMatches b pc)

/-! ## Issue -/

/-- Whether a stream has an earlier vector memory instruction of the hart in focus not yet performed (R213). -/
def strmBusy (s : State) (g : Nat) : Bool :=
  s.p.dq.any (fun e => e.role == roleOfCur s && e.strms.contains g)

/-- Whether a stream has an earlier scalar access of the hart in focus not yet performed (R213). -/
def chunkBusy (s : State) (g : Nat) : Bool :=
  s.reqs.any (fun r => r.uid == s.h.uid && r.strm == some g && !r.done)

/-- Whether the core in focus has its 4,096 requests outstanding (R232). -/
def coreFull (s : State) : Bool := decide (4096 ≤ (s.reqs.filter (fun r => coreOf r.hart == coreOf s.cur)).length)

/-- Whether an entry writes a mask register (R45). -/
def writesMask (e : VEntry) (k : Nat) : Bool :=
  e.kdest == some k ||
  (match e.instr with
   | .vsetvf _ _ a b => a.toNat == k || b.toNat == k
   | .vldw _ _ _ _ _ d => d.toNat == k
   | _ => false)

/-- Whether an entry stands in the queue whose result a probe pass of the hart in focus reads: one of its own, or one
issued before the instruction first came to issue (R45, R47), that writes the mask the pass reads; where it reads more
than a mask, any. -/
def probeBlocked (s : State) (before : Nat) (mask : Option Nat) : Bool :=
  s.p.dq.any (fun e => (e.role == roleOfCur s || decide (e.id < before)) && (mask.map (writesMask e)).getD true)

/-- The first entry number that the instruction at the PC need not wait for. -/
def probeFrom (s : State) : Nat := s.h.probeFrom.getD s.nextId

/-- What stalls a scalar access at issue (R213, R232). -/
def accessStall (s : State) (g : Option Nat) : Option Stall :=
  match g with
  | some g => if strmBusy s g then some (.strm g) else if coreFull s then some .reqLimit else none
  | none => if coreFull s then some .reqLimit else none

/-- The outcome of the checks of a scalar access: the access, or the state after its trap. -/
inductive Checked
  | ok (a : Acc)
  | trapped (s : State)
  deriving DecidableEq, Repr

/-- The checks of R232 in their order, then the data breakpoints (R322). -/
def checkAccess (s : State) (va : Dword) (size : Nat) (kind : AccKind) (rd wr : Bool) : Checked :=
  if va.toNat % size ≠ 0 then .trapped (trapHere causeACCESS va s)
  else
    match resolveCur s va size kind with
    | .ok a =>
      (match bpData s.h va.toNat size rd wr with
       | some (n, m) => .trapped (takeTrap causeHWBP n false (BitVec.ofNat 64 m) s.h.pc s)
       | none => .ok a)
    | r => .trapped (memFault r va (logDrop s va))

/-- Queues a request of the hart in focus and returns its number. -/
def pushReq (s : State) (r : Req) : State :=
  { s with reqs := s.reqs ++ [{ r with id := s.nextId, uid := s.h.uid, hart := s.cur, ctx := s.p.ctx }]
           nextId := s.nextId + 1 }

/-- A scalar load (R231, R232): after its checks the hart stalls until the data has returned. -/
def loadOp (len size : Nat) (signed : Bool) (d : BitVec 5) (va : Dword) (g pol : Nat) (s : State) : State :=
  match accessStall s (some g) with
  | some w => stall w s
  | none =>
    match checkAccess s va size .read true false with
    | .trapped s' => s'
    | .ok a =>
      stall (.reply s.nextId) (pushReq s
        { id := 0, uid := 0, hart := 0, strm := some g, dom := domOf a.key, op := .load signed, key := a.key,
          size := size, rd := d.toNat, len := len, gen := a.gen, pol := pol, va := va })

/-- A scalar store (R231, R232): queued, to be performed later. -/
def storeOp (len size : Nat) (v : Dword) (va : Dword) (g pol : Nat) (s : State) : State :=
  match accessStall s (some g) with
  | some w => stall w s
  | none =>
    match checkAccess s va size .write false true with
    | .trapped s' => s'
    | .ok a =>
      advance len (pushReq s
        { id := 0, uid := 0, hart := 0, strm := some g, dom := domOf a.key, op := .store, key := a.key,
          size := size, val := v.toNat % 2 ^ (8 * size), gen := a.gen, pol := pol, va := va })

/-- An AMO or CAS (R233-R235): after its checks the hart stalls until the old value has returned. -/
def atomicOp (op : MemOp) (size : Nat) (d : BitVec 5) (va v cmp : Dword) (g : Nat) (rl : Bool) (scope : Nat)
    (s : State) : State :=
  match accessStall s (some g) with
  | some w => stall w s
  | none =>
    match checkAccess s va size .rmw true true with
    | .trapped s' => s'
    | .ok a =>
      stall (.reply s.nextId) (pushReq s
        { id := 0, uid := 0, hart := 0, strm := some g, dom := domOf a.key, op := op, key := a.key, size := size,
          val := v.toNat % 2 ^ (8 * size), cmp := cmp.toNat % 2 ^ (8 * size), rd := d.toNat, gen := a.gen,
          va := va, rel := if rl then some scope else none })

/-! ## Order -/

/-- Every element access of an entry. -/
def entryPlan (e : VEntry) : List ElemAcc := e.plan ++ e.binds.flatMap (·.plan)

/-- Whether an entry makes accesses: to memory, or to registers, masks, kp, rows or the tile, which are locations of its
pair (R208); a fence and VTAG make none. -/
def entryTouches (e : VEntry) : Bool :=
  match e.instr with
  | .fensv _ | .fenvv _ | .vtag _ _ => false
  | _ => true

/-- Whether an entry reads a location. -/
def entryReads (e : VEntry) : Bool :=
  match e.instr with
  | .vbcast _ _ k => k != 0
  | .accz _ k => k != 0
  | .vins _ _ _ => false
  | _ => entryTouches e

/-- The stream of a vector memory instruction, and whether it reads memory there. -/
def memStream : Instr → Option (Nat × Bool)
  | .vld _ _ g _ _ => some (g.toNat, true)
  | .vlds _ _ _ g _ _ => some (g.toNat, true)
  | .vldx _ _ _ g _ _ => some (g.toNat, true)
  | .vldw _ _ _ g _ _ => some (g.toNat, true)
  | .vst _ _ g _ _ => some (g.toNat, false)
  | .vsts _ _ _ g _ _ => some (g.toNat, false)
  | .vstx _ _ _ g _ _ => some (g.toNat, false)
  | .vscat _ _ _ g _ _ => some (g.toNat, true)
  | .wmerge _ g _ _ => some (g.toNat, true)
  | _ => none

/-- The accesses a queued entry has still to make in streams: each stream, whether it reads there, the places.  A read
chunk of a bound register was loaded at issue (R245). -/
def entryStreams (e : VEntry) : List (Nat × Bool × List ElemAcc) :=
  ((memStream e.instr).map (fun m => (m.1, m.2, e.plan))).toList ++
    (e.binds.filter (·.out)).map (fun b => (b.g, false, b.plan))

/-- Whether a release of a hart at a scope must still wait: an earlier access of the hart, in any stream, to
a location that meets the scope is not yet performed (R218), a peer's completion included (R212).  The registers of the
pair meet every scope (R216, R217). -/
def relBlocked (s : State) (uid hart before scope : Nat) : Bool :=
  s.reqs.any (fun r => r.uid == uid && decide (ordOf r < before) && meetsScope hart r.key scope)
    || (((getPair s (pairOf hart)).getD {}).dq.any (fun e =>
      e.role == roleOf hart && decide (e.id < before) && entryTouches e))

/-- Whether a QSEND of the hart in focus must still wait: as relBlocked at pair scope (R217), but of queued instructions only
for their accesses to memory; those to registers its token orders (R47), but not against an engine (R381; log entry 79). -/
def sendBlocked (s : State) : Bool :=
  s.reqs.any (fun r => r.uid == s.h.uid && decide (ordOf r < s.nextId) && meetsScope s.cur r.key 1)
    || s.p.dq.any (fun e => e.role == roleOf s.cur && decide (e.id < s.nextId) &&
      (entryPlan e).any (fun a => meetsScope s.cur a.key 1))

/-- Whether a request may be performed now: after every earlier access of its hart in its stream and home
domain (R213), and as a release after what it carries (R218); so waits a CAS whose comparison will fail (log entry 25). -/
def mayPerform (s : State) (r : Req) : Bool :=
  !r.done &&
  !(r.strm.isSome && s.reqs.any (fun q =>
      q.uid == r.uid && decide (q.id < r.id) && q.strm == r.strm && q.dom == r.dom && !q.done)) &&
  (match r.rel with
   | some sc => !relBlocked s r.uid r.hart r.id sc
   | none => true)

/-! ## At the home -/

/-- The value an AMO writes (R233). -/
def amoNew (op : AmoOp) (n old b : Nat) : Nat :=
  match op with
  | .add => (old + b) % 2 ^ n
  | .and => old &&& b
  | .or => old ||| b
  | .xor => old ^^^ b
  | .min => if signExtend b n < signExtend old n then b else old
  | .max => if signExtend old n < signExtend b n then b else old
  | .minu => min old b
  | .maxu => max old b
  | .swap => b

/-- A barrier word after one arrival, with the phase the arrival counted in (R299, R300). -/
def barArrive (w : Nat) : Nat × Nat :=
  let joined := w % 2 ^ 24
  let arrived := bitsOf w 47 24 + 1
  let phase := barPhase w
  if joined ≤ arrived then (joined + (phase + 1) % 2 ^ 16 * 2 ^ 48, phase)
  else (joined + arrived % 2 ^ 24 * 2 ^ 24 + phase * 2 ^ 48, phase)

/-- A barrier word after one leave and its completion test (R299, R309); JOINED 0 stays 0 (log entry 65). -/
def barLeave (w : Nat) : Nat :=
  let joined := w % 2 ^ 24 - 1
  let arrived := bitsOf w 47 24
  let phase := barPhase w
  if 0 < arrived ∧ joined ≤ arrived then joined + (phase + 1) % 2 ^ 16 * 2 ^ 48
  else joined + arrived * 2 ^ 24 + phase * 2 ^ 48

/-- A barrier word after one join; JOINED saturates (R299, R300). -/
def barJoin (w : Nat) : Nat :=
  if w % 2 ^ 24 = 2 ^ 24 - 1 then w else w + 1

/-- A barrier word after a withdrawal in its phase (R301); ARRIVED 0, as after a plain store, stays 0 (log entry 65). -/
def barWithdraw (w : Nat) : Nat := if bitsOf w 47 24 = 0 then w else w - 2 ^ 24

/-- Changes the membership hold of an owner on a barrier word (R300). -/
def setPending (s : State) (uid key : Nat) (ph : Option Nat) : State :=
  { s with holds := s.holds.map (fun h =>
      if h.kind = .member ∧ h.uid = uid ∧ h.obj = .word (wordOf key) then { h with phase := ph } else h) }

/-- Whether an owner is a member of a barrier. -/
def isMember (s : State) (uid key : Nat) : Bool :=
  s.holds.any (fun h => h.kind == .member && h.uid == uid && h.obj == .word (wordOf key))

/-- The pending arrival of an owner on a barrier (R300). -/
def pendingOf (s : State) (uid key : Nat) : Option Nat :=
  (s.holds.find? (fun h => h.kind == .member && h.uid == uid && h.obj == .word (wordOf key))).bind (·.phase)

/-- A write of at most 16 bytes at its home (R192, R205): the sector is checked first, a poisoned sector stays
poisoned, and the sector is then written under the access's key. -/
def storeHome (s : State) (hart : Option Nat) (ctx key gen v size : Nat) : State :=
  match checkSector s key gen with
  | .violation => violateLater s hart ctx
  | .media => stampGen (writeLoc (setPois (fireFor s (liveCtx s ctx) hart key (some true)) key true) key v size) key gen
  | .good => stampGen (writeLoc s key v size) key gen

/-- One arrival at a barrier by an owner (R300): the word, then the member's pending arrival; none where the sector is
another key's (R204).  On a poisoned word it goes by the stored bits (log entry 28). -/
def doArrive (s : State) (hart : Option Nat) (ctx uid key gen : Nat) : State :=
  if checkSector s key gen = .violation then violateLater s hart ctx
  else
    let (w, ph) := barArrive (readLoc s key 8)
    setPending (storeHome s hart ctx key gen w 8) uid key (some ph)

/-- The decision of a wait, made in its owner's registration wherever the owner is (R257, R303). -/
def decideWait (s : State) (uid code sat : Nat) : State :=
  let f (w : Wait) : Wait := { w with decided := some code, sat := sat }
  match hartOf s uid with
  | some id => modHart s id (fun h => { h with wait := h.wait.map f })
  | none =>
    let (t, i) := itemOfUid uid
    modItem s t i (fun it => { it with waits := it.waits.map (fun e => if e.1 == uid then (e.1, f e.2) else e) })

/-- Whether a wait may still be decided: no decision yet, no withdrawal, not ended by a cycle (R271). -/
def undecided (w : Wait) : Bool :=
  w.decided.isNone && w.withdrawing.isNone &&
  (match w.found with
   | some (.cycle _) => false
   | _ => true)

/-- The LOCK waits on a word that have no decision yet. -/
def lockWaits (s : State) (key : Nat) : List (Nat × Wait) :=
  (allWaits s).filter (fun e => undecided e.2 &&
    (match e.2.kind with
     | .lock k _ => wordOf k == wordOf key
     | _ => false))

/-- The waiter UNLOCK chooses: the highest ep, then the earliest registered (R303). -/
def bestWaiter (s : State) (l : List (Nat × Wait)) : Option (Nat × Wait) :=
  l.foldl (fun b e =>
    match b with
    | none => some e
    | some m => if ep s m.1 < ep s e.1 ∨ (ep s e.1 = ep s m.1 ∧ e.2.seq < m.2.seq) then some e else some m) none

/-- The LOCK waits of peer packages on a word (R267). -/
def farLocks (s : State) (key : Nat) : List RemoteWait :=
  s.rwaits.filter (fun r => r.kind == .lock && r.obj == .word (wordOf key))

/-- The peer's waiter UNLOCK would choose, where it goes before a waiter of this package (R267, R303). -/
def farWaiter (s : State) (key : Nat) (near : Option (Nat × Wait)) : Option RemoteWait :=
  let best := (farLocks s key).foldl (fun (b : Option RemoteWait) r =>
    match b with
    | none => some r
    | some m => if m.prio < r.prio ∨ (r.prio = m.prio ∧ r.seq < m.seq) then some r else some m) none
  match best, near with
  | some r, some e => if ep s e.1 < r.prio ∨ (r.prio = ep s e.1 ∧ r.seq < e.2.seq) then some r else none
  | r, none => r
  | none, some _ => none

/-- The hold of a hart of a peer package, whose own Umpire accounts its entry (R267). -/
def farHold (o : Obj) (k : HoldKind) (uid : Nat) : Hold :=
  { obj := o, kind := k, uid := uid, ctx := 64, die := 4, recorded := true }

/-- UNLOCK at the home (R303): the hold of whichever hart held the lock goes; the lock passes to the chosen
waiter, whose LOCK is decided OK in the same step, or the word becomes 0.  `die` is where the freed entry returns. -/
def doUnlock (s : State) (hart : Option Nat) (ctx key gen die : Nat) : State :=
  let isLock (h : Hold) : Bool := h.kind == .lock && h.obj == .word (wordOf key)
  if checkSector s key gen = .violation then violateLater s hart ctx
  else
    -- a word in the sector of an armed one-shot is read and met there, 0 or not (R351)
    let s := if checkSector s key gen = .media ∧ readLoc s key 8 = 0 then fireFor s (liveCtx s ctx) hart key none else s
    if readLoc s key 8 = 0 then removeHolds s die isLock
    else
      let near := bestWaiter s (lockWaits s key)
      match farWaiter s key near, near with
      | some r, _ =>
        let s := removeHolds s die isLock
        let s := { s with holds := s.holds ++ [farHold r.obj .lock r.uid],
                          rwaits := s.rwaits.filter (fun x => !(x.uid == r.uid && x.obj == r.obj)) }
        storeHome s hart ctx key gen 1 8
      | none, some (uid, w) =>
        let s := removeHolds s die isLock
        let s := (addHold s uid (ctxOfUid s uid) (holdDieOf s uid w.die) (.word (wordOf key)) .lock (hartOf s uid)).1
        decideWait (storeHome s hart ctx key gen 1 8) uid 0 0
      | none, none => removeHolds (storeHome s hart ctx key gen 0 8) die isLock

/-- Removes a request, or leaves it until the completion of a peer package or the host returns (R212). -/
def settle (s : State) (r : Req) (write : Bool) : State :=
  if write && r.dom != 0 then
    { s with reqs := s.reqs.map (fun q => if q.id == r.id then { q with done := true } else q) }
  else { s with reqs := s.reqs.filter (fun q => q.id != r.id) }

/-- The answer of a read reaches the hart that waits for it: rd, LDST and the next instruction (R232), or the
POISON trap at the instruction (R205). -/
def answer (s : State) (r : Req) (v : Option Dword) : State :=
  match getHart s r.hart with
  | none => s
  | some h =>
    if h.issue = .stalled (.reply r.id) ∧ h.uid = r.uid then
      withHart s r.hart (fun s =>
        let s := { s with h := { s.h with issue := .ready } }
        match v with
        | some v => resultX r.len (BitVec.ofNat 5 r.rd) v s
        | none => trapHere causePOISON r.va s)
    else s

/-- The answer of a read that met an integrity violation: the context ends (R204); on a core of M the hart that waits for
it takes INTEGRITY (R321, R323). -/
def violateReply (s : State) (r : Req) : State :=
  if kindOf r.hart = 0 then failContext s r.ctx
  else
    match getHart s r.hart with
    | none => s
    | some h =>
      if h.issue = .stalled (.reply r.id) ∧ h.uid = r.uid then
        withHart s r.hart (fun s => violateHere { s with h := { s.h with issue := .ready } })
      else s

/-- Performs a request at its home (R209). -/
def perform (s : State) (r : Req) : State :=
  match r.op with
  | .load signed =>
    (match checkSector s r.key r.gen with
     | .violation => violateReply (settle s r false) r
     | .media => answer (settle (fireShot s (some r.hart) r.key (allocates s r.ctx r.va.toNat (some r.pol))) r false) r none
     | .good =>
       let v := readLoc s r.key r.size
       let x : Dword := if signed then low64 (signExtend v (8 * r.size)) else BitVec.ofNat 64 v
       answer (settle s r false) r (some x))
  | .store => settle (storeHome s (some r.hart) r.ctx r.key r.gen r.val r.size) r true
  | .amo op =>
    (match checkSector s r.key r.gen with
     | .violation => violateReply (settle s r false) r
     | .media => answer (settle (fireShot s (some r.hart) r.key (allocates s r.ctx r.va.toNat none)) r false) r none
     | .good =>
       let old := readLoc s r.key r.size
       let s := stampGen (writeLoc s r.key (amoNew op (8 * r.size) old r.val) r.size) r.key r.gen
       answer (settle s r false) r (some (low64 (signExtend old (8 * r.size)))))
  | .cas =>
    (match checkSector s r.key r.gen with
     | .violation => violateReply (settle s r false) r
     | .media => answer (settle (fireShot s (some r.hart) r.key (allocates s r.ctx r.va.toNat none)) r false) r none
     | .good =>
       let old := readLoc s r.key r.size
       let s := if old = r.cmp then stampGen (writeLoc s r.key r.val r.size) r.key r.gen else s
       answer (settle s r false) r (some (low64 (signExtend old (8 * r.size)))))
  | .arrive => settle (doArrive s (some r.hart) r.ctx r.uid r.key r.gen) r true
  | .unlock => settle (doUnlock s (some r.hart) r.ctx r.key r.gen (dieFor r.hart)) r true
  | .ack _ => s

end Sys2Proof.Machine
end

