-- ==== Sys2Proof/Machine/Waits.lean ====
section
/-! DEFINITION. Waiting (spec/11_progress_rules.md R255-R262, R271-R274): budgets, claims, the first test, the
status word, the Umpire's answer, and how a wait ends. -/
namespace Sys2Proof.Machine
open Sys2Proof

/-- The status word (R260). -/
def statusWord (code out : Nat) (clamped : Bool) (sat : Nat) : Dword :=
  BitVec.ofNat 64 (code + out % 256 * 256 + (if clamped then 65536 else 0) + sat % 65536 * 2 ^ 32)

/-- The budget of a wait and whether it was clamped to WCEIL (R255); M cores have no context and no ceiling. -/
def budgetOf (s : State) (b : BitVec 5) : Nat × Bool :=
  let n := (xr s b).toNat
  if onUser s then
    let c := (ctxOf s s.p.ctx).wceil
    (min n c, decide (c < n))
  else (n, false)

/-- The streams with a request or a part of a queued entry that a wait had to see performed, as OUT (R225). -/
def outMask (s : State) (p : Pair) (req : Req → Bool) (part : VEntry → Nat × Bool × List ElemAcc → Bool) : Nat :=
  (List.range 8).foldl (fun m g =>
    if s.reqs.any (fun r => req r && r.strm == some g)
        || p.dq.any (fun e => (entryStreams e).any (fun x => x.1 == g && part e x)) then m + 2 ^ g else m) 0

/-- Whether the part of a queued entry in a stream is one a FENCE waits for (R226). -/
def fencePart (hart : Nat) (ids : List Nat) (scope : Nat) (rel : Bool) (e : VEntry) (x : Nat × Bool × List ElemAcc) : Bool :=
  ids.contains e.id && (rel || x.2.1) && x.2.2.any (fun a => meetsScope hart a.key scope)

/-- Whether the part of a queued entry in a stream is one an SBAR waits for (R227). -/
def sbarPart (ids : List Nat) (set : Nat) (e : VEntry) (x : Nat × Bool × List ElemAcc) : Bool :=
  ids.contains e.id && set.testBit x.1 && !x.2.2.isEmpty

/-- OUT of a wait of the hart in focus: FENCE and SBAR only (R225). -/
def outOf (s : State) (p : Pair) : WaitKind → Nat
  | .fence ids scope rel => outMask s p (fenceWaits ids scope rel) (fencePart s.cur ids scope rel)
  | .sbar ids set => outMask s p (sbarWaits ids set) (sbarPart ids set)
  | .qsend _ _ | .qrecv _ _ | .waits _ _ | .bar _ _ _ _ | .lock _ _ | .ldwait _ _ _ _ | .waitv _ _ | .sleep => 0

/-- The register whose number LDST takes: rd, which for QRECV is the data register (R87). -/
def ldstOf (w : Wait) : Nat :=
  match w.kind with
  | .qrecv _ rd => rd
  | _ => w.rd

/-- Writes a queue of a pair. -/
def setQueue (p : Pair) (q : Nat) (l : List Dword) : Pair := { p with q := p.q.set q l }

/-- The effect of a queue wait that ends OK on the queue, with the value taken (R295). -/
def queueEffect (p : Pair) : WaitKind → Pair × Nat
  | .qsend q v => (setQueue p q (p.q.getD q [] ++ [v]), 0)
  | .qrecv q _ =>
    (match p.q.getD q [] with
     | v :: rest => (setQueue p q rest, v.toNat)
     | [] => (p, 0))
  | .waits _ _ | .bar _ _ _ _ | .lock _ _ | .ldwait _ _ _ _ | .waitv _ _ | .sleep | .fence _ _ _ | .sbar _ _ => (p, 0)

/-- Whether a wait is a QRECV on a queue that was decided OK: the first entry is then taken for its hart (R296), and leaves
the queue with the status (R295; log entry 27). -/
def takesHead (q : Nat) (w : Wait) : Bool :=
  w.decided == some 0 &&
  (match w.kind with
   | .qrecv n _ => n == q
   | _ => false)

/-- The entries of a queue of the pair in focus, without one that is taken for a hart of the pair (R296). -/
def queueLen (s : State) (q : Nat) : Nat :=
  let taken := [2 * pairOf s.cur, 2 * pairOf s.cur + 1].any (fun id => (((getHart s id).bind (·.wait)).map (takesHead q)).getD false)
  (s.p.q.getD q []).length - (if taken then 1 else 0)

/-- Ends a wait of the hart in focus with a code (R257): the status with SAT (R305), with OK the doubleword that a QSEND
places or a QRECV takes (R295), LDST, the entry freed, the next instruction. -/
def finishWait (s : State) (w : Wait) (code : Nat) : State :=
  let st := statusWord code (outOf s s.p w.kind) w.clamped (satOf s w)
  let s := freeWait s s.p.ctx (dieFor s.cur) (some w)
  let h := writeX s.h (BitVec.ofNat 5 w.rd) st
  let h := match w.kind with
    | .qrecv _ rd => if code = 0 then writeX h (BitVec.ofNat 5 rd) (BitVec.ofNat 64 (queueEffect s.p w.kind).2) else h
    | _ => h
  advance w.len { s with
    p := if code = 0 then (queueEffect s.p w.kind).1 else s.p
    h := { h with ldst := BitVec.ofNat 5 (ldstOf w), wait := none, issue := .ready } }

/-- Ends a wait of the hart in focus in a trap at the instruction: rd and LDST keep their values (R87). -/
def trapWait (s : State) (w : Wait) (cause : Nat) (tval : Dword) : State :=
  let s := freeWait s s.p.ctx (dieFor s.cur) (some w)
  trapHere cause tval { s with h := { s.h with wait := none, issue := .ready } }

/-- An integrity violation in the words of a wait of the hart in focus (R204, R321, R323). -/
def violateWait (s : State) (w : Wait) : State :=
  if onUser s then failContext s s.p.ctx else trapWait s w causeINTEGRITY (integrityTval s)

/-- Whether an owner holds a pending arrival in the phase its barrier wait is for (R301): from the wait's issue on, or from
an arrival sent before that counted during it. -/
def barPending (s : State) (uid : Nat) : WaitKind → Bool
  | .bar key ph pending _ => pending || pendingOf s uid key == some ph
  | .qsend _ _ | .qrecv _ _ | .waits _ _ | .lock _ _ | .ldwait _ _ _ _ | .waitv _ _ | .sleep | .fence _ _ _ | .sbar _ _ => false

/-- The timeout of a wait that has nothing to withdraw: TIMEOUT, or with E the escalation trap, TVAL the status word
that would have been written (R262). -/
def timeoutWait (s : State) (w : Wait) : State :=
  if w.esc then trapWait s w causeESCALATE (statusWord 1 (outOf s s.p w.kind) w.clamped (satOf s w))
  else finishWait s w 1

/-- The one-shot fires at the words of a wait that a hart reads (R351); a miss there allocates as its page says (R203). -/
def fireWords (s : State) (id : Nat) (w : Wait) : State :=
  let c := ((getPair s (pairOf id)).getD {}).ctx
  ((wordsOf w.kind).mapIdx (fun i k => (i, k))).foldl (fun s e =>
    fireShot s (some id) e.2 (allocates s c (w.vas.getD e.1 0) none)) s

/-- Ends a wait with a decision found in its words: a violation ends the context (R204); a poisoned word met by the
one-shot is reported (R351). -/
def decideNow (s : State) (w : Wait) (code : Nat) : State :=
  if code = codeViolation then violateHere (freeWait s s.p.ctx (dieFor s.cur) (some w))
  else
    finishWait (if code = 7 then fireWords s s.cur w else s) w code

/-- The home's answer to a withdrawal (R301): in the phase of the arrival it is withdrawn, and the pending arrival ends;
otherwise the arrival counted.  A cancelled wait returns CANCELLED whichever way, and a poisoned word is answered from the
bits it holds (log entry 65). -/
def withdraw (s : State) (w : Wait) : State :=
  match w.kind with
  | .bar key ph _ _ =>
    let word := readLoc s key 8
    if checkSector s key (w.gens.headD 0) = .violation then violateWait s w
    else
      let (s, code) :=
        if barPhase word = ph then
          (setPending (storeHome s (some s.cur) s.p.ctx key (w.gens.headD 0) (barWithdraw word) 8) s.h.uid key none, 2)
        else (fireWords s s.cur w, 3)
      finishWait s w (if w.withdrawing = some 6 then 6 else code)
  | _ => finishWait s w 1

/-- What a waiting instruction finds before it waits. -/
inductive Prep
  /-- A check failed: the state after its trap. -/
  | trapped (s : State)
  /-- It waits for this, its words read under these key generations, at these addresses. -/
  | wait (k : WaitKind) (gens vas : List Nat) (s : State)
  /-- Its condition held in a way that changed its object: a LOCK that took a free word. -/
  | took (k : WaitKind) (s : State)

/-- The registration of a wait. -/
def mkWait (s : State) (k : WaitKind) (gens vas : List Nat) (len rd word : Nat) (esc : Bool) (budget : Nat) (clamped : Bool) :
    Wait :=
  { kind := k, gens := gens, vas := vas, rd := rd, len := len, word := word, esc := esc, budget := budget, clamped := clamped,
    seq := s.nextId, die := dieFor s.cur, since := cycOf s s.cur }

/-- The register whose number LDST takes from a waiting instruction: its rd field (R87). -/
def ldField (i : Instr) (rd : BitVec 5) : BitVec 5 :=
  match i with
  | .qrecv d _ _ _ _ => d
  | _ => rd

/-- A waiting instruction in its issue cycle (R256): the claim, the checks, the first test, then WAITING. -/
def waitOp (len : Nat) (rd : BitVec 5) (esc : BitVec 1) (b : BitVec 5) (i : Instr) (prep : State → Prep)
    (s : State) : State :=
  let (budget, clamped) := budgetOf s b
  match claimEntry s with
  | none =>
    let out := match prep s with
      | .wait k _ _ _ => outOf s s.p k
      | _ => 0
    let s := setUmpst s s.p.ctx 0 (some s.cur)
    advance len { s with h := { writeX s.h rd (statusWord 4 out clamped 0) with ldst := ldField i rd } }
  | some s =>
    match prep s with
    | .trapped s' => freeEntries s' s.p.ctx (dieFor s.cur) 1
    | .took k s =>
      finishWait s (mkWait s k [] [] len rd.toNat (codeNat (encode i)) (esc == 1) budget clamped) 0
    | .wait k gens vas s =>
      let w := mkWait s k gens vas len rd.toNat (codeNat (encode i)) (esc == 1) budget clamped
      let s := { s with nextId := s.nextId + 1 }
      match condNow s (pairOf s.cur) k gens with
      | some code => decideNow s w code
      | none =>
        if budget = 0 then
          (match k with
           | .bar _ _ true _ =>
             { s with h := { s.h with issue := .waiting, wait := some { w with answered := true, withdrawing := some 1 } } }
           | _ => timeoutWait s w)
        else { s with h := { s.h with issue := .waiting, wait := some { w with counted := 1 } } }

/-! ## When harts stop (R287, R334) -/

/-- Whether the grace of an item's request has run out (R287). -/
def graceOver (s : State) (l : Launch) (it : Item) : Bool :=
  match it.preq with
  | some g => decide ((ctxOf s l.ctx).pgrace.toNat ≤ g)
  | none => false

/-- Whether the harts of an item may issue no more, nor go on in a wait: its grace has run out (R287), or it is being
halted (R334). -/
def frozen (s : State) (it : Option (Nat × Nat)) : Bool :=
  match it with
  | some (t, i) =>
    (match getLaunch s t with
     | some l => ((getItem l i).map (fun it => graceOver s l it || it.haltReq)).getD false
     | none => false)
  | none => false

/-- Whether a hart is stopped so. -/
def hartFrozen (s : State) (id : Nat) : Bool := frozen s ((getPair s (pairOf id)).bind (·.item))

/-! ## Decisions and their endings -/

/-- Evaluates the condition of a wait that has no decision (R257); a wait that came back with nothing left of its budget is
not evaluated (R290). -/
def observeHart (s : State) (id : Nat) : State :=
  match getHart s id with
  | none => s
  | some h =>
    match h.wait with
    | none => s
    | some w =>
      if h.issue ≠ .waiting ∨ undecided w = false ∨ w.budget = 0 ∨ hartFrozen s id = true then s
      else
        match condNow s (pairOf id) w.kind w.gens with
        | none => s
        | some code =>
          if code = codeViolation then withHart s id (fun s => violateWait s w)
          else
            modHart (if code = 7 then fireWords s id w else s) id
              (fun h => { h with wait := some { w with decided := some code, sat := satOf s w } })

/-- Every waiting hart evaluates its condition (R257, R292). -/
def observeAll (s : State) : State := (allHarts s).foldl (fun s e => observeHart s e.1) s

/-- The waits on a word are evaluated at every write performed to it (R304). -/
def observeWord (s : State) (key : Nat) : State :=
  (allHarts s).foldl (fun s e =>
    if e.2.wait.any (fun w => (wordsOf w.kind).contains (wordOf key)) then observeHart s e.1 else s) s

/-- WAIT_SATISFIED on the hart in focus: an answered wait with the decision OK or POISON writes its status; a
wait that was not yet evaluated is evaluated first (R257). -/
def satisfiedOp (s : State) : State :=
  let s := observeHart s s.cur
  match s.h.wait with
  | some w =>
    (match w.answered, w.decided with
     | true, some code => if code = 1 then s else finishWait s w code
     | _, _ => s)
  | none => s

/-- A wait whose last counted cycle is over without a decision is timed out, with SAT as its last evaluation found it
(R257, R305). -/
def expire (s : State) (w : Wait) : Wait :=
  if undecided w && decide (w.budget ≤ w.counted) then { w with decided := some 1, sat := satOf s w } else w

/-- WAIT_TIMEOUT on the hart in focus: an answered wait whose budget ran out returns TIMEOUT, escalates, or
sends the withdrawal of its pending arrival (R257, R262, R301). -/
def timeoutOp (s : State) : State :=
  let s := observeHart s s.cur
  match s.h.wait.map (expire s) with
  | some w =>
    (match w.answered, w.decided with
     | true, some 1 =>
       if barPending s s.h.uid w.kind then
         { s with h := { s.h with wait := some { w with withdrawing := some 1, decided := none } } }
       else timeoutWait s w
     | _, _ => s)
  | none => s

/-- WITHDRAWAL_ANSWER on the hart in focus (R301). -/
def withdrawalOp (s : State) : State :=
  match s.h.wait with
  | some w => if w.withdrawing.isSome then withdraw s w else s
  | none => s

/-- Cancels the wait of the hart in focus (R261, R290): CANCELLED at once, after a barrier's withdrawal; a QSEND has placed
nothing and a QRECV removed nothing, whatever was decided (R257, R295). -/
def cancelWaitOp (s : State) : State :=
  match s.h.wait with
  | some w => if barPending s s.h.uid w.kind then withdraw s { w with withdrawing := some 6 } else finishWait s w 6
  | none => s

/-- The withdrawal of the pending arrival of a cancelled wait of an item that is saved (R301): its owner, the wait, the
context.  A word in the item's own saved TCM goes with the item. -/
def withdrawSaved (c : Nat) (s : State) (e : Nat × Wait) : State :=
  match e.2.kind with
  | .bar key ph _ _ =>
    let gen := e.2.gens.headD 0
    if isSaved key || !barPending s e.1 e.2.kind then s
    else if checkSector s key gen = .violation then failContext s c
    else if barPhase (readLoc s key 8) = ph then
      setPending (storeHome s none c key gen (barWithdraw (readLoc s key 8)) 8) e.1 key none
    else s
  | .qsend _ _ | .qrecv _ _ | .waits _ _ | .lock _ _ | .ldwait _ _ _ _ | .waitv _ _ | .sleep | .fence _ _ _ | .sbar _ _ => s

/-! ## The Umpire's answer (R271-R275) -/

/-- The places of the five sectors of a record, translated as S writes (R276). -/
def recordPlaces (s : State) (c : Nat) (p : Pair) (hart va : Nat) : List (Nat × Res) :=
  (List.range 5).map (fun i =>
    (va + 64 * i, resolve s p hart (ctxOf s c) false (va + 64 * i) (if i = 4 then 16 else 64) .write))

/-- The first place that cannot be resolved. -/
def badPlace (l : List (Nat × Res)) : Option (Nat × Res) :=
  l.find? (fun e => match e.2 with
    | .ok _ => false
    | .fault _ => true
    | .violation => true)

/-- Writes a record at DLREC.ADDR (R272, R276), each sector at its own place, the last one in part; false where a
translation fails. -/
def writeRecord (s : State) (c : Nat) (p : Pair) (hart : Nat) (bytes : List Byte) : State × Bool :=
  let l := recordPlaces s c p hart (field (ctxOf s c).dlrec 54 6 * 64)
  match badPlace l with
  | some (va, .fault f) => (walkDone s c (some hart) f va, false)
  | some (_, .violation) => (failContext s c, false)
  | some (_, .ok _) => (s, false)
  | none =>
    ((l.mapIdx (fun i e => (i, e.2))).foldl (fun s e =>
      match e.2 with
      | .ok a =>
        if e.1 < 4 then putSector s a.key a.gen ((bytes.drop (64 * e.1)).take 64) false
        else storeHome s (some hart) c a.key a.gen (ofBytesLE (bytes.drop 256)) 16
      | _ => s) s, true)

/-- The cut path of a record for one context (R274): up to the last hart before another context's. -/
def cutPath (c : Nat) : List RecEnt → List RecEnt
  | [] => []
  | e :: es => if e.ctx = c then e :: cutPath c es else []

/-- DEADLOCK as a status, the wait being removed (R272). -/
def deadlockStatus (s : State) (w : Wait) : State := finishWait s w 5

/-- One more record of a context; SEQ of its first record is 1 (R275, R394). -/
def countRecord (s : State) (c : Nat) : State := modCtx s c (fun x => { x with recSeq := x.recSeq + 1 })

/-- A cycle whose harts all belong to one context (R272); a record written into another key's sector, or found through
one, ends the context (R204). -/
def ownCycle (s : State) (w : Wait) (path : List RecEnt) : State :=
  let c := s.p.ctx
  let x := ctxOf s c
  if x.dlrec.getLsbD 0 then
    let (s, ok) := writeRecord s c s.p s.cur (deadlockRecord 1 path false (x.recSeq + 1) w.since)
    if s.h.issue = .ended then s
    else if ok then trapWait (countRecord s c) w causeDEADLOCK (BitVec.ofNat 64 (field x.dlrec 54 6 * 64))
    else deadlockStatus (setUmpst s c 3 (some s.cur)) w
  else deadlockStatus s w

/-- A cycle across contexts (R273): DEADLOCK, the record to M and the host, XCTX in every context. -/
def crossCycle (s : State) (w : Wait) (path : List RecEnt) : State :=
  let c := s.p.ctx
  let s := countRecord (sendEvent s 1 none (deadlockRecord 1 path false ((ctxOf s c).recSeq + 1) w.since)) c
  let s := (path.map (·.ctx)).eraseDups.foldl (fun s c => setUmpst s c 4 (some s.cur)) s
  deadlockStatus s w

/-- A suspected cycle (R274): the wait continues; a record of KIND 2 when DLREC.EN, cut at another context's hart, the one
the path ends at included, of which M then has the whole, whatever EN holds (log entry 63); SUSPECT set. -/
def suspectCycle (s : State) (w : Wait) (path : List RecEnt) (last : Nat) : State :=
  let c := s.p.ctx
  let x := ctxOf s c
  let own := cutPath c path
  let cut := decide (own.length < path.length) || last != c
  let s :=
    if x.dlrec.getLsbD 0 then
      match writeRecord s c s.p s.cur (deadlockRecord 2 own cut (x.recSeq + 1) w.since) with
      | (s, true) => countRecord s c
      | (s, false) => setUmpst s c 3 (some s.cur)
    else s
  if s.h.issue = .ended then s
  else
    let s := if cut then sendEvent s 1 none (deadlockRecord 2 path false (x.recSeq + 1) w.since) else s
    let s := setUmpst s c 2 (some s.cur)
    { s with h := { s.h with wait := some { w with answered := true } } }

/-- UMPIRE_ANSWER on the hart in focus (R257, R271-R274): a wait not yet inserted is inserted first; what its walk found
is acted on; a wait decided before it was inserted sends no edge. -/
def answerOp (s : State) : State :=
  if (s.h.wait.map (·.answered)).getD true then s
  else
    let s := insertCur s
    match s.h.wait with
    | none => s
    | some w =>
      match w.found with
      | some (.cycle path) =>
        if path.all (fun e => e.ctx == ctxOfUid s s.h.uid) then ownCycle s w path else crossCycle s w path
      | some (.suspect path last) => suspectCycle s w path last
      | _ => { s with h := { s.h with wait := some { w with answered := true } } }

end Sys2Proof.Machine
end

