-- ==== Sys2Proof/Machine/Sync.lean ====
section
/-! DEFINITION. The wait and synchronisation instructions (spec/12_progress_instructions.md R291-R309), FENCE, SBAR
and the directional fences (spec/10_order_instructions.md R252, R253; spec/09_order_rules.md R224-R228). -/
namespace Sys2Proof.Machine
open Sys2Proof

/-! ## Queues (R295, R296) -/

/-- Whether a role may send to a queue (R69): an access hart to q0-q3, an execute hart to q4-q7; it receives from
the others. -/
def maySend (role q : Nat) : Bool := decide (q < 4) == decide (role = 0)

/-- Whether a release of the hart in focus at a scope must still wait (R218). -/
def mustHold (s : State) (scope : Nat) : Bool := relBlocked s s.h.uid s.cur s.nextId scope

/-- QSEND (R295): a release at pair scope (R221, R47); with room it completes at once (R256). -/
def execQsend (d a b : BitVec 5) (e : BitVec 1) (q : BitVec 3) (s : State) : Out :=
  if !maySend (roleOfCur s) q.toNat then .next (illTrap (.qsend d a b e q) s)
  else if sendBlocked s then .next (stall .send s)
  else
    let v := xr s a
    if (s.p.q.getD q.toNat []).length < 16 then
      .next (resultX 4 d (statusWord 0 0 (budgetOf s b).2 0)
        { s with p := setQueue s.p q.toNat (s.p.q.getD q.toNat [] ++ [v]) })
    else .next (waitOp 4 d e b (.qsend d a b e q) (fun s => .wait (.qsend q.toNat v) [] [] s) s)

/-- QRECV (R295): rd the data, rs1 the status; two equal destinations raise ILL (R60). -/
def execQrecv (d a b : BitVec 5) (e : BitVec 1) (q : BitVec 3) (s : State) : Out :=
  legalOr (.qrecv d a b e q) s <|
  if maySend (roleOfCur s) q.toNat then .next (illTrap (.qrecv d a b e q) s)
  else
    match s.p.q.getD q.toNat [] with
    | v :: rest =>
      let st := statusWord 0 0 (budgetOf s b).2 0
      let h := writeX (writeX s.h a st) d v
      .next (advance 4 { s with p := setQueue s.p q.toNat rest, h := { h with ldst := d } })
    | [] => .next (waitOp 4 a e b (.qrecv d a b e q) (fun s => .wait (.qrecv q.toNat d.toNat) [] [] s) s)

/-- QTEST (R296). -/
def execQtest (d : BitVec 5) (q : BitVec 3) (s : State) : Out :=
  .next (resultX 4 d (BitVec.ofNat 64 (queueLen s q.toNat)) s)

/-! ## Semaphores (R297, R298) -/

/-- The physical number of semaphore n of a context's window of a cluster, numbered 32 × PKG + cluster as the layout of
R30 has it (R313): none at or beyond COUNT. -/
def ctxSem (s : State) (c clus n : Nat) : Option Nat :=
  let w := SMap.get 0 (ctxOf s c).semwin clus
  if n < w / 512 then some (clus * 512 + w % 512 + n) else none

/-- The physical number of a semaphore of the context of the hart in focus. -/
def semOf (s : State) (clus n : Nat) : Option Nat := ctxSem s s.p.ctx clus n

/-- A semaphore operation of the hart in focus (R297): ILL on an M core (R15), ACCESS beyond the window, the
release of R221, then one step at the SYU. -/
def semOp (i : Instr) (f : Dword → BitVec 33 → BitVec 33) (d a : BitVec 5) (r : BitVec 1) (c : BitVec 3)
    (n : BitVec 9) (s : State) : Out :=
  legalOr i s <|
  if !onUser s then .next (illTrap i s)
  else
    match semOf s (clusOf s.cur) n.toNat with
    | none => .next (trapHere causeACCESS (n.setWidth 64) s)
    | some k =>
      if r = 1 ∧ mustHold s c.toNat then .next (stall (.release c.toNat) s)
      else
        let old := SMap.get 0 s.sems k
        .next (resultX 4 d (old.setWidth 64) { s with sems := SMap.set 0 s.sems k (f (xr s a) old) })

/-- The value SEMADD leaves (R297): it saturates at 0 and 2^32 − 1; ERR is kept. -/
def semAddValue (x : Dword) (old : BitVec 33) : BitVec 33 :=
  let v : Int := (semValue old : Int) + signExtend x.toNat 32
  BitVec.ofNat 33 ((satUnsigned v 32).toNat + (if semErr old then 2 ^ 32 else 0))

/-- SEMADD (R297). -/
def execSemadd (d a : BitVec 5) (r q : BitVec 1) (c : BitVec 3) (n : BitVec 9) (s : State) : Out :=
  semOp (.semadd d a r q c n) semAddValue d a r c n s

/-- SEMSET (R297): the only way a program clears ERR. -/
def execSemset (d a : BitVec 5) (r q : BitVec 1) (c : BitVec 3) (n : BitVec 9) (s : State) : Out :=
  semOp (.semset d a r q c n) (fun x _ => x.setWidth 33) d a r c n s

/-- WAITS (R298). -/
def execWaits (d a b : BitVec 5) (e : BitVec 1) (n : BitVec 9) (s : State) : Out :=
  if !onUser s then .next (illTrap (.waits d a b e n) s)
  else
    let thr := field (xr s a) 31 0
    .next (waitOp 4 d e b (.waits d a b e n)
      (fun s =>
        match semOf s (clusOf s.cur) n.toNat with
        | none => .trapped (trapHere causeACCESS (n.setWidth 64) s)
        | some k => .wait (.waits k thr) [] [] s) s)

/-! ## Words (R292) -/

/-- The checks of a barrier, lock or memory word: alignment on 8 bytes, then R187 to R201, an address in an SVA range
raising ACCESS (R292), then the data breakpoints (R333). -/
def wordAccess (s : State) (va : Dword) (kind : AccKind) : Checked :=
  if va.toNat % 8 ≠ 0 then .trapped (trapHere causeACCESS va s)
  else
    match resolveCur s va 8 kind with
    | .ok a =>
      if isHost a.key then .trapped (trapHere causeACCESS va s)
      else
        (match bpData s.h va.toNat 8 true (kind == .rmw) with
         | some (n, m) => .trapped (takeTrap causeHWBP n false (BitVec.ofNat 64 m) s.h.pc s)
         | none =>
           if checkSector s a.key a.gen = .violation then .trapped (violateHere s)
           else .ok a)
    | .fault c =>
      .trapped (if c = causePAGEREQ then trapHere causeACCESS va s
        else trapHere c va (walkDone (logDrop s va) s.p.ctx (some s.cur) c va.toNat))
    | .violation => .trapped (violateHere s)

/-- Writes a barrier or lock word at its home, under the access's key (R192). -/
def putWord (s : State) (a : Acc) (w : Nat) : State := storeHome s (some s.cur) s.p.ctx a.key a.gen w 8

/-- Records a hold of the hart in focus (R265). -/
def holdHere (s : State) (o : Obj) (k : HoldKind) : State × Bool :=
  addHold s s.h.uid s.p.ctx (dieFor s.cur) o k (some s.cur)

/-- An instruction on a word of the hart in focus, after its checks. -/
def onWord (a : BitVec 5) (kind : AccKind) (f : Acc → State → State) (s : State) : Out :=
  match wordAccess s (xr s a) kind with
  | .trapped s' => .next s'
  | .ok x => .next (f x s)

/-! ## Barriers (R299-R301) -/

/-- BARJOIN (R300): one join and a membership hold; a member's second BARJOIN has no effect. -/
def execBarjoin (a : BitVec 5) (s : State) : Out :=
  onWord a .rmw (fun x s =>
    if isMember s s.h.uid x.key then advance 4 s
    else
      let s := putWord s x (barJoin (readLoc s x.key 8))
      advance 4 (holdHere s (.word (wordOf x.key)) .member).1) s

/-- A request of the hart in focus to a word, in no stream, as a release at a scope (R221, R402). -/
def sendWord (op : MemOp) (scope : Nat) (va : Dword) (x : Acc) (s : State) : State :=
  pushReq s { id := 0, uid := 0, hart := 0, strm := none, dom := domOf x.key, op := op, key := x.key, size := 8,
              gen := x.gen, rel := some scope, va := va }

/-- BARARV (R300): the arrival is sent, with its release. -/
def execBararv (a : BitVec 5) (c : BitVec 3) (s : State) : Out :=
  legalOr (.bararv a c) s <|
  if coreFull s then .next (stall .reqLimit s)
  else onWord a .rmw (fun x s => advance 4 (sendWord .arrive c.toNat (xr s a) x s)) s

/-- What a wait on a word checks after its entry is claimed (R292). -/
def wordPrep (va : Dword) (kind : AccKind) (f : Acc → State → Prep) (s : State) : Prep :=
  match wordAccess s va kind with
  | .trapped s' => .trapped s'
  | .ok x => f x s

/-- BARWT and the waiting half of BARAW (R301): the phase of the pending arrival, or PHASE as read now. -/
def barPrep (scope va : Nat) (x : Acc) (s : State) : Prep :=
  match pendingOf s s.h.uid x.key with
  | some p => .wait (.bar x.key p true scope) [x.gen] [va] s
  | none => .wait (.bar x.key (barPhase (readLoc s x.key 8)) false scope) [x.gen] [va] s

/-- BARWT (R301). -/
def execBarwt (d a b : BitVec 5) (e : BitVec 1) (c : BitVec 3) (s : State) : Out :=
  legalOr (.barwt d a b e c) s <|
  .next (waitOp 4 d e b (.barwt d a b e c) (wordPrep (xr s a) .rmw (barPrep c.toNat (xr s a).toNat)) s)

/-- The arrival of BARAW, then its wait: a member's stands on the phase it counted in; another's cannot be
withdrawn (R293, R300, R301). -/
def barawPrep (scope va : Nat) (x : Acc) (s : State) : Prep :=
  let ph := (barArrive (readLoc s x.key 8)).2
  .wait (.bar x.key ph (isMember s s.h.uid x.key) scope) [x.gen] [va]
    (doArrive s (some s.cur) s.p.ctx s.h.uid x.key x.gen)

/-- BARAW (R301): the arrival is a release, so it waits for what it carries (R218). -/
def execBaraw (d a b : BitVec 5) (e : BitVec 1) (c : BitVec 3) (s : State) : Out :=
  legalOr (.baraw d a b e c) s <|
  if mustHold s c.toNat then .next (stall (.release c.toNat) s)
  else .next (waitOp 4 d e b (.baraw d a b e c) (wordPrep (xr s a) .rmw (barawPrep c.toNat (xr s a).toNat)) s)

/-! ## Locks (R302, R303) -/

/-- LOCK in its first test (R302): a free word is taken. -/
def lockPrep (scope va : Nat) (x : Acc) (s : State) : Prep :=
  if checkSector s x.key x.gen = .good ∧ readLoc s x.key 8 = 0 then
    .took (.lock x.key scope) (holdHere (putWord s x 1) (.word (wordOf x.key)) .lock).1
  else .wait (.lock x.key scope) [x.gen] [va] s

/-- LOCK (R302). -/
def execLock (d a b : BitVec 5) (e : BitVec 1) (c : BitVec 3) (s : State) : Out :=
  legalOr (.lock d a b e c) s <|
  .next (waitOp 4 d e b (.lock d a b e c) (wordPrep (xr s a) .rmw (lockPrep c.toNat (xr s a).toNat)) s)

/-- UNLOCK (R303): sent to the word, with its release. -/
def execUnlock (a : BitVec 5) (c : BitVec 3) (s : State) : Out :=
  legalOr (.unlock a c) s <|
  if coreFull s then .next (stall .reqLimit s)
  else onWord a .rmw (fun x s => advance 4 (sendWord .unlock c.toNat (xr s a) x s)) s

/-! ## Memory words (R304, R305) -/

/-- LDWAIT (R304): the comparand is x[rd]. -/
def execLdwait (d a b : BitVec 5) (e : BitVec 1) (c : BitVec 3) (k : BitVec 2) (s : State) : Out :=
  legalOr (.ldwait d a b e c k) s <|
  .next (waitOp 4 d e b (.ldwait d a b e c k)
    (wordPrep (xr s a) .read (fun x s => .wait (.ldwait x.key k.toNat (xr s d) c.toNat) [x.gen] [(xr s a).toNat] s)) s)

/-- The table of a WAITV, read once as an ordinary read (R305): its entries, or the trap of its first failing
part. -/
def readTable (s : State) (va : Dword) : Nat → List (Dword × Dword × Dword) → List (Dword × Dword × Dword) ⊕ State
  | 0, acc => .inl acc.reverse
  | n + 1, acc =>
    match resolveCur s va 16 .read with
    | .ok x =>
      (match bpData s.h va.toNat 16 true false with
       | some (b, m) => .inr (takeTrap causeHWBP b false (BitVec.ofNat 64 m) s.h.pc s)
       | none =>
         match checkSector s x.key x.gen with
         | .violation => .inr (violateHere s)
         | .media => .inr (trapHere causePOISON va (fireShot s (some s.cur) x.key (allocates s s.p.ctx va.toNat none)))
         | .good =>
           readTable s (va + 16) n
             ((va, BitVec.ofNat 64 (readLoc s x.key 8), BitVec.ofNat 64 (readLoc s (x.key + 8) 8)) :: acc))
    | r => .inr (memFault r va (logDrop s va))

/-- The entries of a WAITV checked in index order (R305), each with its key generation and its address. -/
def tablePrep (s : State) (all : Bool) :
    List (Dword × Dword × Dword) → List ((Nat × Nat × Dword) × Nat × Nat) → Prep
  | [], acc => .wait (.waitv all (acc.reverse.map (·.1))) (acc.reverse.map (·.2.1)) (acc.reverse.map (·.2.2)) s
  | (at_, addr, v) :: es, acc =>
    let cond := field addr 2 0
    if 3 ≤ cond then .trapped (trapHere causeACCESS at_ s)
    else
      match wordAccess s (addr &&& ~~~7#64) .read with
      | .trapped s' => .trapped s'
      | .ok x => tablePrep s all es (((x.key, cond, v), x.gen, (addr &&& ~~~7#64).toNat) :: acc)

/-- WAITV (R305). -/
def execWaitv (d a b : BitVec 5) (e : BitVec 1) (n : BitVec 4) (m : BitVec 1) (s : State) : Out :=
  let va := xr s a
  .next (waitOp 4 d e b (.waitv d a b e n m)
    (fun s =>
      if va.toNat % 16 ≠ 0 then .trapped (trapHere causeACCESS va s)
      else
        match readTable s va (n.toNat + 1) [] with
        | .inr s' => .trapped s'
        | .inl es => tablePrep s (m == 1) es []) s)

/-! ## Sleep, yield, holds (R306-R309) -/

/-- SLEEP (R306). -/
def execSleep (d b : BitVec 5) (e : BitVec 1) (s : State) : Out :=
  .next (waitOp 4 d e b (.sleep d b e) (fun s => .wait .sleep [] [] s) s)

/-- YIELD (R307): the partition prefers the other hart in the next cycle. -/
def execYield (_x : BitVec 21) (s : State) : Out :=
  .next (advance 4 { s with yielded := some (s.cur / 2 * 2 + (1 - s.cur % 2)) })

/-- What a WOHOLD or WODROP key names (R264): a semaphore, a memory word with the key generation it is reached under, or
a trap, whose TVAL is the key (R264, R308), also of a semaphore outside the window (log entry 66). -/
def keyObject (i : Instr) (s : State) (key : Dword) : (Obj × Nat) ⊕ State :=
  if key.getLsbD 63 then
    if !onUser s then .inr (illTrap i s)
    else
      let pkg := field key 18 14
      let clus := field key 18 9
      if field key 62 19 ≠ 0 ∨ s.hub.pkgs ≤ pkg ∨ !s.hub.reach.testBit pkg then .inr (trapHere causeACCESS key s)
      else
        match semOf s clus (field key 8 0) with
        | none => .inr (trapHere causeACCESS key s)
        | some k => .inl (.sem k, 0)
  else
    match resolveCur s key 1 .read with
    | .ok x => .inl (.word (wordOf x.key), x.gen)
    | r => .inr (memFault r key (logDrop s key))

/-- Whether an owner has a WOHOLD on an object. -/
def hasOwe (s : State) (uid : Nat) (o : Obj) : Bool :=
  s.holds.any (fun h => h.kind == .wo && h.uid == uid && h.obj == o)

/-- WOHOLD (R308). -/
def execWohold (d a : BitVec 5) (s : State) : Out :=
  match keyObject (.wohold d a) s (xr s a) with
  | .inr s' => .next s'
  | .inl (o, _) =>
    if hasOwe s s.h.uid o then .next (resultX 4 d (statusWord 0 0 false 0) s)
    else
      let (s, ok) := holdHere s o .wo
      .next (resultX 4 d (statusWord (if ok then 0 else 4) 0 false 0) s)

/-- Leaves a barrier (R309): JOINED − 1 and the completion test at the home, then the membership goes, and the hart goes
on. -/
def leaveBarrier (s : State) (key gen : Nat) : State :=
  if checkSector s key gen = .violation then violateHere s
  else
    advance 4 (removeHolds (storeHome s (some s.cur) s.p.ctx key gen (barLeave (readLoc s key 8)) 8) (dieFor s.cur)
      (fun h => h.kind == .member && h.uid == s.h.uid && h.obj == .word (wordOf key)))

/-- WODROP (R309): leaving a barrier reads and writes its word, which a data breakpoint may match (R333). -/
def execWodrop (a : BitVec 5) (s : State) : Out :=
  match keyObject (.wodrop a) s (xr s a) with
  | .inr s' => .next s'
  | .inl (o, gen) =>
    if hasOwe s s.h.uid o then
      .next (advance 4 (removeHolds s (dieFor s.cur) (fun h => h.kind == .wo && h.uid == s.h.uid && h.obj == o)))
    else
      match o with
      | .word k =>
        if isMember s s.h.uid k then
          match bpData s.h ((xr s a).toNat / 8 * 8) 8 true true with
          | some (n, m) => .next (takeTrap causeHWBP n false (BitVec.ofNat 64 m) s.h.pc s)
          | none => .next (leaveBarrier s k gen)
        else .next (advance 4 s)
      | .sem _ => .next (advance 4 s)
      | .queue _ _ => .next (advance 4 s)

/-! ## Fences (R224-R228, R252, R253) -/

/-- The instructions of the hart in focus with an access not yet performed that FENCE covers (R226); every queued
instruction touches registers of the pair, which meet every scope. -/
def fenceCovers (s : State) (scope : Nat) (rel : Bool) : List Nat :=
  ((s.reqs.filter (fun r => r.uid == s.h.uid && meetsScope s.cur r.key scope && (rel || reqReads r))).map ordOf) ++
  ((s.p.dq.filter (fun e => e.role == roleOfCur s && entryTouches e && (rel || entryReads e))).map (·.id))

/-- FENCE (R226, R253): ACQ alone covers reads; with REL every access. -/
def execFence (d b : BitVec 5) (e : BitVec 1) (c : BitVec 3) (q r : BitVec 1) (s : State) : Out :=
  legalOr (.fence d b e c q r) s <|
  .next (waitOp 4 d e b (.fence d b e c q r) (fun s => .wait (.fence (fenceCovers s c.toNat (r == 1)) c.toNat (r == 1)) [] [] s) s)

/-- The instructions of the hart in focus with an access in a set of streams not yet performed (R227). -/
def sbarCovers (s : State) (set : Nat) : List Nat :=
  ((s.reqs.filter (fun r => r.uid == s.h.uid && setNames set r.strm)).map ordOf) ++
  ((s.p.dq.filter (fun e => e.role == roleOfCur s &&
    (entryStreams e).any (fun x => set.testBit x.1 && !x.2.2.isEmpty))).map (·.id))

/-- SBAR (R227, R253). -/
def execSbar (d b : BitVec 5) (e : BitVec 1) (g : BitVec 8) (s : State) : Out :=
  legalOr (.sbar d b e g) s <|
  .next (waitOp 4 d e b (.sbar d b e g) (fun s => .wait (.sbar (sbarCovers s g.toNat) g.toNat) [] [] s) s)

/-- Puts an instruction into the pair's dispatch queue (R44), with its number. -/
def pushEntry (s : State) (e : VEntry) : State :=
  { s with p := { s.p with dq := s.p.dq ++ [{ e with id := s.nextId, role := roleOfCur s, pc := s.h.pc }] },
           nextId := s.nextId + 1 }

/-- An entry for an instruction as the front end sees it at issue. -/
def baseEntry (s : State) (i : Instr) : VEntry :=
  { id := 0, role := 0, instr := i, pc := 0, vl := s.h.vl, vstart := s.h.vstart, a := 0, b := 0,
    tags := s.p.tags, rm := s.p.rm }

/-- A directional fence that travels in the dispatch queue (R224); M cores have no vector accesses to order. -/
def queuedFence (i : Instr) (before : Nat) (s : State) : Out :=
  if !onUser s then .next (advance 4 s)
  else if 32 ≤ s.p.dq.length then .next (stall .queueFull s)
  else .next (advance 4 (pushEntry s { baseEntry s i with afterReq := before }))

/-- FENSV (R224): later vector accesses wait for the scalar ones issued before it. -/
def execFensv (x : BitVec 22) (s : State) : Out := queuedFence (.fensv x) s.nextId s

/-- FENVS (R224): stalls until the hart's earlier vector memory instructions are performed. -/
def execFenvs (_x : BitVec 22) (s : State) : Out :=
  .next (if s.p.dq.any (fun e => e.role == roleOfCur s && (!e.strms.isEmpty || !e.binds.isEmpty)) then stall .vecDrain s
    else advance 4 s)

/-- FENVV (R224): the queue already performs the vector accesses of a hart in order. -/
def execFenvv (x : BitVec 22) (s : State) : Out := queuedFence (.fenvv x) 0 s

end Sys2Proof.Machine
end

