-- ==== Sys2Proof/Machine/CReg.lean ====
section
/-! DEFINITION. The control registers (spec/13_isolation.md R316-R319 and the rules the map names): who may reach
them, what they read, what a write does; GETC, SETC, SETCB, CLRCB, and the writes that have a row of their own. -/
namespace Sys2Proof.Machine
open Sys2Proof

/-! ## VTYPE and VLMAX (R49, R105, R106) -/

/-- Lanes of a pair: L = 8,192 / P (R48). -/
def lanesOf (p : Pair) : Nat := 8192 / p.pairs
/-- Storage bits per element and lane, the window included: S (R49). -/
def storageOf (gw gc : List Nat) (win : Nat) : Nat := (List.zipWith (· * ·) gc gw).foldl (· + ·) 0 + 9 + win
/-- Elements per register: VLMAX (R49). -/
def vlmaxOf (p : Pair) : Nat := lanesOf p * (4096 / storageOf p.gw p.gc p.win)
/-- VTYPE as it reads (R105). -/
def vtypeWord (p : Pair) : Nat :=
  ((List.range 4).map (fun g => 2 ^ (8 * g) * (p.gw.getD g 1 - 1 + 16 * p.gc.getD g 0))).foldl (· + ·) 0
    + rmCode p.rm * 2 ^ 32 + p.win * 2 ^ 40

/-! ## The map (R316) -/

/-- What a level may do with a register. -/
inductive RegAcc
  | none | ro | rw | wo
  deriving DecidableEq, Repr

/-- The columns U, S and M of the map. -/
def cregRow (n : Nat) : Option (RegAcc × RegAcc × RegAcc) :=
  match n with
  | 0x000 | 0x002 | 0x003 | 0x007 => some (.ro, .ro, .none)
  | 0x001 | 0x006 => some (.rw, .rw, .none)
  | 0x004 | 0x005 | 0x008 | 0x009 | 0x00A | 0x00B | 0x00C | 0x00D | 0x012 => some (.rw, .rw, .rw)
  | 0x010 | 0x011 => some (.ro, .ro, .ro)
  | 0x013 => some (.ro, .rw, .rw)
  | 0x014 => some (.none, .wo, .none)
  | 0x020 | 0x021 | 0x022 | 0x023 | 0x024 | 0x025 | 0x026 => some (.none, .rw, .rw)
  | 0x028 | 0x029 | 0x02A | 0x030 | 0x032 | 0x033 | 0x034 | 0x035 | 0x036 => some (.none, .rw, .rw)
  | 0x031 => some (.none, .wo, .wo)
  | 0x037 => some (.none, .ro, .rw)
  | 0x040 | 0x041 | 0x043 | 0x044 | 0x045 => some (.none, .none, .rw)
  | 0x042 => some (.none, .none, .wo)
  | _ => none

/-- The column of a level. -/
def cregAcc (row : RegAcc × RegAcc × RegAcc) (level : Nat) : RegAcc :=
  if level = 0 then row.1 else if level = 1 then row.2.1 else row.2.2

/-- The four forms of R70. -/
inductive CrForm
  | getc | setc | setcb | clrcb
  deriving DecidableEq, Repr

/-- The registers that hold a W1C or WO field: SETCB and CLRCB of them raise ILL (R318). -/
def cregNoBits (n : Nat) : Bool := n == 0x014 || n == 0x031 || n == 0x042 || n == 0x034 || n == 0x044

/-- The trap an access raises before any effect: none, ILL or PRIV (R70, R317, R318). -/
def cregTrap (level n : Nat) (f : CrForm) : Option Nat :=
  match cregRow n with
  | none => some causeILL
  | some row =>
    if (f = .setcb ∨ f = .clrcb) ∧ cregNoBits n = true then some causeILL
    else
      match cregAcc row level with
      | .none => some (if level = 2 then causeILL else causePRIV)
      | .ro =>
        if f = .getc then none
        else if (level = 0 ∧ row.2.1 = .rw) ∨ (level < 2 ∧ row.2.2 = .rw) then some causePRIV
        else some causeILL
      | .rw => none
      | .wo => none

/-- The registers whose access waits for the hart's earlier vector-class instructions (R318). -/
def cregDrains (n : Nat) : Bool :=
  n == 0x001 || n == 0x002 || n == 0x003 || n == 0x004 || n == 0x006 || (8 ≤ n && n ≤ 0x00D)

/-- The context whose registers the hart in focus reaches: its own, or at M the one MCTXSEL selects, if the slot
holds one (R317). -/
def cregCtx (s : State) : Option Nat :=
  if onUser s then some s.p.ctx
  else
    let c := s.h.mctxsel.toNat % 64
    if (getCtx s c).isSome then some c else none

/-- The cluster whose window SEMWIN shows: the hart's own, or at M the one MCTXSEL selects. -/
def cregClus (s : State) : Nat :=
  if onUser s then clusOf s.cur else bitsOf s.h.mctxsel.toNat 10 9 * 8 + bitsOf s.h.mctxsel.toNat 8 6

/-! ## Reading -/

/-- UMPST as it reads (R277). -/
def umpstWord (x : Ctx) : Nat :=
  x.umpst.toNat + (if x.note then 256 else 0) + x.used % 2 ^ 16 * 2 ^ 16 + x.quota % 2 ^ 16 * 2 ^ 32

/-- A per-context register of a context. -/
def ctxRegRead (s : State) (x : Ctx) (n : Nat) : Nat :=
  match n with
  | 0x013 => x.wceil
  | 0x030 => x.pgroot.toNat
  | 0x032 => x.prisem.toNat
  | 0x033 => x.dlrec.toNat
  | 0x034 => umpstWord x
  | 0x035 => x.pgrace.toNat
  | 0x036 => x.chkctl.toNat
  | 0x037 =>
    let w := SMap.get 0 x.semwin (cregClus s)
    w % 512 + w / 512 * 512
  | 0x040 => x.mceil
  | _ => 0

/-- The stream GSEL shows. -/
def selStream (h : Hart) : Stream := h.g.toList.getD h.gsel.toNat {}
/-- The comparator BPSEL shows. -/
def selBp (h : Hart) : Breakpoint := h.bps.toList.getD h.bpsel.toNat {}

/-- GCTL as it reads (R243). -/
def gctlWord (g : Stream) : Nat :=
  (if g.act then 1 else 0) + (if g.dir then 2 else 0) + (if g.act && decide (g.len ≤ g.pos) then 4 else 0)
    + g.breg.toNat * 8 + (if g.bnd then 256 else 0)

/-- The value a GETC reads (R316, R9): a WO register reads 0. -/
def cregRead (s : State) (n : Nat) : Nat :=
  let h := s.h
  match n with
  | 0x000 => h.vl
  | 0x001 => h.vstart
  | 0x002 => vtypeWord s.p
  | 0x003 => vlmaxOf s.p
  | 0x004 => h.fpst.toNat
  | 0x005 => h.ldst.toNat
  | 0x006 => s.p.seed.toNat
  | 0x007 => s.p.ctx % 64 + (ctxOf s s.p.ctx).pasid * 64
  | 0x008 => h.gsel.toNat
  | 0x009 => (selStream h).addr.toNat
  | 0x00A => (selStream h).strd.toNat
  | 0x00B => (selStream h).len.toNat
  | 0x00C => (selStream h).pos.toNat
  | 0x00D => gctlWord (selStream h)
  | 0x010 => s.cur % 2 ^ 19
  | 0x011 => cycOf s s.cur
  | 0x012 => h.prio.toNat
  | 0x020 => h.tcause.toNat
  | 0x021 => h.tpc.toNat
  | 0x022 => h.tval.toNat
  | 0x023 => h.tstat.toNat
  | 0x024 => h.tvec.toNat
  | 0x025 => h.tscr.toNat
  | 0x026 => h.txol.toNat
  | 0x028 => h.bpsel.toNat
  | 0x029 => (selBp h).va.toNat
  | 0x02A => (selBp h).ctl.toNat
  | 0x041 => s.hub.agestep
  | 0x043 => s.hub.einja.toNat
  | 0x044 =>
    (if s.hub.arm then 1 else 0) + (if s.hub.fired then 2 else 0) + s.hub.repmask.toNat * 2 ^ 32
      + (if s.hub.repsev then 2 ^ 48 else 0)
  | 0x045 => h.mctxsel.toNat
  | n =>
    match cregCtx s with
    | some c => ctxRegRead s (ctxOf s c) n
    | none => 0

/-! ## Writing -/

/-- Writes a value into the stream GSEL shows (R243). -/
def setStream (h : Hart) (f : Stream → Stream) : Hart := { h with g := h.g.set h.gsel.toNat (f (selStream h)) }
/-- Writes a value into the comparator BPSEL shows (R333). -/
def setBp (h : Hart) (f : Breakpoint → Breakpoint) : Hart := { h with bps := h.bps.set h.bpsel.toNat (f (selBp h)) }

/-- BPCTL as stored: IGN 56 to 63 is stored as 55 (R333). -/
def bpctlStored (v : Dword) : BitVec 9 :=
  let ign := field v 8 3
  BitVec.ofNat 9 (field v 2 0 + 8 * min ign 55)

/-- PRIO as stored (R270): at U at most the record's PRIO, else at most 15. -/
def prioStored (s : State) (v : Dword) : BitVec 4 :=
  BitVec.ofNat 4 (min v.toNat (if s.h.level = 0 then s.p.prio.toNat else 15))

/-- CHKCTL as stored (R338): MODE 3 is stored as 2. -/
def chkctlStored (v : Dword) : BitVec 18 :=
  BitVec.ofNat 18 (min (field v 1 0) 2 + field v 11 8 * 256 + field v 17 16 * 65536)

/-- The window word of SEMWIN as stored (R313): COUNT at most 512 − BASE. -/
def semwinStored (v : Nat) : Nat :=
  let base := v % 512
  base + 512 * min (bitsOf v 18 9) (512 - base)

/-- A write of SEMWIN of a context for a cluster (R313). -/
def semwinWriteOp (c clus v : Nat) (s : State) : State :=
  modCtx s c (fun x => { x with semwin := SMap.set 0 x.semwin clus (semwinStored v) })

/-- A write of WCEIL: at most MCEIL (R259). -/
def wceilWriteOp (c : Nat) (v : Dword) (s : State) : State :=
  modCtx s c (fun x => { x with wceil := min v.toNat x.mceil })

/-- A write of MCEIL: also lowers WCEIL when below it (R259). -/
def mceilWriteOp (c : Nat) (v : Dword) (s : State) : State :=
  modCtx s c (fun x => { x with mceil := v.toNat, wceil := min x.wceil v.toNat })

/-- KEYCTL OP 1: a fresh key in a context slot (R314). -/
def keyGenerateOp (c : Nat) (s : State) : State :=
  { modCtx s c (fun x => { x with gen := s.genSeq }) with genSeq := s.genSeq + 1 }

/-- KEYCTL OP 2: every later HBM read by the slot's context fails its tag (R314). -/
def keyEraseOp (c : Nat) (s : State) : State := modCtx s c (fun x => { x with gen := 1 })

/-- KEYCTL OP 3: a fresh shared key (R314). -/
def sharedKeyOp (s : State) : State :=
  { s with hub := { s.hub with sharedGen := s.genSeq }, genSeq := s.genSeq + 1 }

/-- A write of KEYCTL (R314). -/
def keyctlWriteOp (v : Dword) (s : State) : State :=
  let c := field v 5 0
  match field v 7 6 with
  | 1 => keyGenerateOp c s
  | 2 => keyEraseOp c s
  | 3 => sharedKeyOp s
  | _ => s

/-- Arming the one-shot (R350, R351): ignored with PA at or above 512 GiB.  The sector leaves its home slice: of a clean
copy that an earlier one-shot poisoned nothing is left. -/
def einjArmOp (s : State) : State :=
  if s.hub.einja.toNat < 2 ^ 39 then
    let sec := sectorOf s.hub.einja.toNat
    { s with
      poison := if s.hub.shotCopies.contains sec then SMap.set false s.poison sec false else s.poison
      hub := { noCopy s.hub sec with arm := true } }
  else s

/-- A write of EINJC (R350): ARM by writing 1, FIRED cleared by a 1, REPMASK and REPSEV set. -/
def einjcWriteOp (v : Dword) (s : State) : State :=
  let s := if v.getLsbD 0 then einjArmOp s else s
  { s with hub := { s.hub with
      fired := s.hub.fired && !v.getLsbD 1
      repmask := v.extractLsb' 32 16
      repsev := v.getLsbD 48 } }

/-- A write of a per-context register. -/
def ctxRegWrite (c n : Nat) (v : Dword) (s : State) : State :=
  match n with
  | 0x013 => wceilWriteOp c v s
  | 0x030 => modCtx s c (fun x => { x with pgroot := v &&& 0x000FFFFFFFFF0000#64 })
  | 0x032 => modCtx s c (fun x => { x with prisem := v.setWidth 15 })
  | 0x033 => modCtx s c (fun x => { x with dlrec := v &&& 0x007FFFFFFFFFFFC1#64 })
  | 0x034 =>
    modCtx s c (fun x => { x with umpst := x.umpst &&& ~~~(v.setWidth 5), note := v.getLsbD 8 })
  | 0x035 => modCtx s c (fun x => { x with pgrace := v.setWidth 32 })
  | 0x036 =>
    let s := modCtx s c (fun x => { x with chkctl := chkctlStored v })
    (allHarts s).foldl (fun s e =>
      if ((getPair s (pairOf e.1)).getD {}).ctx = c then modHart s e.1 (fun h => { h with chkCount := 0 }) else s) s
  | 0x037 => if onUser s then s else semwinWriteOp c (cregClus s) v.toNat s
  | 0x040 => mceilWriteOp c v s
  | _ => s

/-- A write of a control register by the hart in focus, field by field (R318); SRSEED, XLINV and IEND, whose writes
drain first, stand apart. -/
def cregWriteOp (n : Nat) (v : Dword) (s : State) : State :=
  let mod (f : Hart → Hart) : State := { s with h := f s.h }
  match n with
  | 0x001 => mod (fun h => { h with vstart := v.toNat })
  | 0x004 => mod (fun h => { h with fpst := v.setWidth 5 })
  | 0x005 => mod (fun h => { h with ldst := v.setWidth 5 })
  | 0x008 => mod (fun h => { h with gsel := v.setWidth 3 })
  | 0x009 => mod (fun h => setStream h (fun g => { g with addr := v }))
  | 0x00A => mod (fun h => setStream h (fun g => { g with strd := v }))
  | 0x00B => mod (fun h => setStream h (fun g => { g with len := v.setWidth 48 }))
  | 0x00C => mod (fun h => setStream h (fun g => { g with pos := v.setWidth 48 }))
  | 0x00D => mod (fun h => setStream h (fun g => { g with act := v.getLsbD 0, dir := v.getLsbD 1 }))
  | 0x012 => mod (fun h => { h with prio := prioStored s v })
  | 0x020 => mod (fun h => { h with tcause := v.setWidth 12 })
  | 0x021 => mod (fun h => { h with tpc := v &&& ~~~1#64 })
  | 0x022 => mod (fun h => { h with tval := v })
  | 0x023 => mod (fun h => { h with tstat := if onUser s then v.setWidth 9 else v.setWidth 9 ||| 1 })
  | 0x024 => mod (fun h => { h with tvec := v &&& ~~~3#64 })
  | 0x025 => mod (fun h => { h with tscr := v })
  | 0x026 => mod (fun h => { h with txol := v &&& ~~~1#64 })
  | 0x028 => mod (fun h => { h with bpsel := v.setWidth 3 })
  | 0x029 => mod (fun h => setBp h (fun b => { b with va := v.setWidth 55 }))
  | 0x02A => mod (fun h => setBp h (fun b => { b with ctl := bpctlStored v }))
  | 0x041 => { s with hub := { s.hub with agestep := if field v 7 0 = 0 then 1 else field v 7 0 } }
  | 0x042 => keyctlWriteOp v s
  | 0x043 => { s with hub := { s.hub with einja := v.setWidth 52 } }
  | 0x044 => einjcWriteOp v s
  | 0x045 => mod (fun h => { h with mctxsel := v.setWidth 11 })
  | n =>
    match cregCtx s with
    | some c => ctxRegWrite c n v s
    | none => s

/-! ## The writes that drain (R107, R202, R319) -/

/-- A drained write is over: the SETC returns; 32 stands for a write that no SETC of the hart made (log entry 6). -/
def endSetc (rd : Nat) (v : Dword) (s : State) : State :=
  let s := { s with h := { s.h with issue := .ready } }
  if rd = 32 then s else resultX 4 (BitVec.ofNat 5 rd) v s

/-- A write of SRSEED: the hart stalls until the point of R107 (R113). -/
def srseedStart (v : Dword) (rd : Nat) (s : State) : State :=
  if s.p.chg.isSome then stall .otherChange s
  else
    stall .change { s with p := { s.p with chg := some (.seed (roleOfCur s) (v.setWidth 32) rd) } }

/-- A write of XLINV: the hart stalls until the range is free of translations (R202). -/
def xlinvStart (v : Dword) (rd : Nat) (s : State) : State := stall (.xlinv v rd) s

/-- A write of IEND: the hart stalls through the end drain (R319); ICODE 8 to 0x7F is recorded as 2. -/
def iendStart (v : Dword) (rd : Nat) (s : State) : State :=
  let c := field v 7 0
  stall (.iend (if 8 ≤ c ∧ c ≤ 0x7F then 2 else c) (field v 15 8) rd) s

/-- The writes that begin a drain instead of acting at once; at M XLINV of an absent context is ignored (R317). -/
def writeStarts (n : Nat) (v : Dword) (rd : Nat) (s : State) : Option State :=
  if n = 0x006 then some (srseedStart v rd s)
  else if n = 0x031 ∧ (cregCtx s).isSome then some (xlinvStart v rd s)
  else if n = 0x014 then some (iendStart v rd s)
  else none

/-! ## GETC, SETC, SETCB, CLRCB (R318) -/

/-- Whether a value for PRISEM enables a semaphore outside the window of its cluster (R313). -/
def prisemOutside (s : State) (v : Dword) : Bool :=
  v.getLsbD 14 &&
  (match cregCtx s with
   | some c => (ctxSem s c (field v 13 9) (field v 8 0)).isNone
   | none => false)

/-- The value a form writes. -/
def formValue (f : CrForm) (old x : Dword) : Dword :=
  match f with
  | .getc | .setc => x
  | .setcb => old ||| x
  | .clrcb => old &&& ~~~x

/-- A control-register instruction: the traps of R70 and R317, the drain of R318, the read, the write. -/
def cregForm (i : Instr) (f : CrForm) (d a : BitVec 5) (c : BitVec 12) (s : State) : Out :=
  let n := c.toNat
  match cregTrap s.h.level n f with
  | some t => .next (if t = causePRIV then privTrap i s else illTrap i s)
  | none =>
    if cregDrains n && vecPending s then .next (stall .vecDrain s)
    else
      let old := BitVec.ofNat 64 (cregRead s n)
      if f = .getc then .next (resultX 4 d old s)
      else
        let v := formValue f old (xr s a)
        if n = 0x032 ∧ prisemOutside s v = true then .next (trapHere causeACCESS (BitVec.ofNat 64 (field v 8 0)) s)
        else
        match writeStarts n v d.toNat s with
        | some s' => .next s'
        | none =>
          -- LDST := rd is the last write of an instruction but for a SETC of LDST itself (R87, R318)
          let s1 := putX d old s
          .next (advance 4 (cregWriteOp n v s1))

/-- GETC (R318). -/
def execGetc (d : BitVec 5) (c : BitVec 12) (s : State) : Out := cregForm (.getc d c) .getc d 0 c s
/-- SETC (R318). -/
def execSetc (d a : BitVec 5) (c : BitVec 12) (s : State) : Out := cregForm (.setc d a c) .setc d a c s
/-- SETCB (R318). -/
def execSetcb (d a : BitVec 5) (c : BitVec 12) (s : State) : Out := cregForm (.setcb d a c) .setcb d a c s
/-- CLRCB (R318). -/
def execClrcb (d a : BitVec 5) (c : BitVec 12) (s : State) : Out := cregForm (.clrcb d a c) .clrcb d a c s

end Sys2Proof.Machine
end

