-- ==== Sys2Proof/Machine/Snapshot.lean ====
section
/-! DEFINITION. What a snapshot event latches (spec/14_recovery.md R352) and its layout in the snapshot window
(spec/15_attachment.md R376, R377). -/
namespace Sys2Proof.Machine
open Sys2Proof

/-- Bytes of a value at an offset of the window, as entries. -/
def placed (off v n : Nat) : List (Nat × Byte) := (bytesLE v n).mapIdx (fun i b => (off + i, b))

/-- The issue state byte (R377). -/
def issueCode : Issue → Nat
  | .ready => 0 | .stalled _ => 1 | .waiting => 2 | .halted => 3 | .ended => 4 | .unbound => 5

/-- The record of one core: CYC, dispatch queues, PCs, issue states; of a cluster whose contents are lost only the
retained CYC (R373, R375). -/
def coreRecord (s : State) (g : Nat) : List (Nat × Byte) :=
  let base := 0x1000 + 256 * g
  let mine := (allHarts s).filter (fun e => coreOf e.1 == g)
  let pairs := (allPairs s).filter (fun e => e.1 / 8 == g)
  let hart (i : Nat) : Option Hart := lookupKey mine (16 * g + i)
  placed base (cycOf s (16 * g)) 8
    ++ (if 2 ≤ (cpcOf s (g / 8)).st then []
      else (if pairs.isEmpty then [] else
          (List.range 8).map (fun p => (base + 8 + p, BitVec.ofNat 8 ((lookupKey pairs (8 * g + p)).map (·.dq.length) |>.getD 0))))
        ++ (if mine.isEmpty then [] else
          (List.range 16).flatMap (fun i => placed (base + 0x10 + 8 * i) ((hart i).map (·.pc.toNat) |>.getD 0) 8))
        ++ (List.range 16).map (fun i => (base + 0x90 + i, BitVec.ofNat 8 ((hart i).map (issueCode ·.issue) |>.getD 5))))

/-- The record of one cluster: TCE queues, semaphore values, error bits. -/
def clusterRecord (s : State) (c : Nat) : List (Nat × Byte) :=
  let base := 0x11000 + 0x1000 * c
  let sems := s.sems.filter (fun e => e.1 / 512 == c)
  let err (k : Nat) : Nat :=
    (List.range 8).foldl (fun v i => if semErr (SMap.get 0 sems (512 * c + 8 * k + i)) then v + 2 ^ i else v) 0
  (List.range 4).map (fun t => (base + t, BitVec.ofNat 8 (s.cmds.filter (fun m => m.tce == 4 * c + t)).length))
    ++ sems.flatMap (fun e => placed (base + 0x40 + 4 * (e.1 % 512)) (semValue e.2) 4)
    ++ (if sems.isEmpty then [] else (List.range 64).map (fun k => (base + 0x840 + k, BitVec.ofNat 8 (err k))))

/-- The window's bytes, in rising order, zeros left out (R377). -/
def snapshotBytes (s : State) (issuer : Option Nat) : SMap Byte :=
  let on := (List.range 32).foldl (fun v c => if (cpcOf s c).st = 0 then v + 2 ^ c else v) 0
  let iss := match issuer with
    | some h => h % 2 ^ 19 + 2 ^ 19
    | none => 0
  (placed 8 iss 8 ++ placed 0x10 (cycOf s hubId) 8 ++ placed 0x18 on 8
    ++ s.ctxs.flatMap (fun e => placed (0x80 + 2 * e.1) e.2.used 2)
    ++ (List.range 256).flatMap (coreRecord s)
    ++ (List.range 32).flatMap (clusterRecord s)).filter (fun e => e.2 != 0)

/-- A snapshot event (R352, R376): none while a snapshot is held, nor from when SNAPTRG_N went low until it has been high
again, whatever the source; SNAPOUT_N is driven low, and the host is told that a snapshot is ready (R358).  Every block
latches in this one step (log entry 40). -/
def latchSnapshot (s : State) (src : Nat) (issuer : Option Nat) : State :=
  if s.hub.snapHeld || s.hub.snapLow then s
  else
    sendEvent { s with hub := { s.hub with
        snapHeld := true, snapSrc := src, snapSeq := s.hub.snapSeq + 1,
        snap := snapshotBytes s issuer, snapOut := true } } 6 none []

end Sys2Proof.Machine
end

