-- ==== Sys2Proof/Machine/System.lean ====
section
/-! DEFINITION. The system instructions (spec/13_isolation.md R326-R328), the steps that end a hart's stalls and
drains (spec/02_execution.md R41, R202, R319, R327), the control-register writes that have a row of their own, and
asynchronous traps (R322). -/
namespace Sys2Proof.Machine
open Sys2Proof

/-! ## Instructions -/

/-- TRAP (R326). -/
def execTrap (c : BitVec 15) (s : State) : Out := .next (trapHere causeTRAP (c.setWidth 64) s)

/-- BRK (R326). -/
def execBrk (s : State) : Out := .next (trapHere causeBRK 0 s)

/-- RETT (R326): PRIV at U; it leaves M at M. -/
def execRett (s : State) : Out :=
  .next (if s.h.level = 0 then privTrap .rett s else { s with h := returnHart (onUser s) s.h })

/-- FLUSHI (R327): stalls for its drain; FLUSHI_INVALIDATE ends it. -/
def execFlushi (s : State) : Out := .next (stall .flushi s)

/-- SNAP (R328). -/
def execSnap (s : State) : Out := .next (advance 4 (latchSnapshot s 1 (some s.cur)))

/-! ## Stalls that end -/

/-- Commands in the queue of a copy engine (R246, R250). -/
def tceLoad (s : State) (t : Nat) : Nat := (s.cmds.filter (fun m => m.tce == t)).length

/-- The copy engines of the cluster of the hart in focus that have room, the least loaded first (R246). -/
def tceChoice (s : State) : Option Nat :=
  (List.range 4).foldl (fun b i =>
    let t := 4 * clusOf s.cur + i
    if 16 ≤ tceLoad s t then b
    else
      match b with
      | none => some t
      | some u => if tceLoad s t < tceLoad s u then some t else some u) none

/-- Whether what stalls the hart in focus has gone (R41); the stalls that another step ends stay. -/
def stallOver (s : State) : Stall → Bool
  | .queueFull => decide (s.p.dq.length < 32)
  | .vecDrain => !vecPending s
  | .probe n k => !probeBlocked s n k
  | .divider => decide (s.p.divUntil ≤ s.now)
  | .interlock t => decide (t ≤ s.now)
  | .otherChange => s.p.chg.isNone
  | .strm g => !strmBusy s g
  | .chunk g => !chunkBusy s g
  | .reqLimit => !coreFull s
  | .tceFull => (tceChoice s).isSome
  | .release sc => !mustHold s sc
  | .send => !sendBlocked s
  | .reply _ | .vecResult _ | .change | .flushi | .xlinv _ _ | .iend _ _ _ | .stopped => false

/-- Whether STALL_RELEASE is due on the hart in focus. -/
def releaseDue (s : State) : Bool :=
  match s.h.issue with
  | .stalled w => stallOver s w
  | _ => false

/-- STALL_RELEASE (R41): the hart is ready and issues its instruction again. -/
def execStallRelease (hart : Nat) (s : State) : Out :=
  .next (withHart s hart (fun s => if releaseDue s then { s with h := { s.h with issue := .ready } } else s))

/-- Whether the drain of FLUSHI is over (R327): the hart's stores performed, the pair's queue empty. -/
def flushDue (s : State) : Bool :=
  s.h.issue == .stalled .flushi && s.p.dq.isEmpty &&
    !s.reqs.any (fun r => r.uid == s.h.uid && (r.op == .store || r.op == .ack false || r.op == .ack true))

/-- FLUSHI_INVALIDATE (R327): what was fetched or cached is discarded; fetches from now on are fresh. -/
def execFlushiInvalidate (hart : Nat) (s : State) : Out :=
  .next (withHart s hart (fun s =>
    if flushDue s then advance 4 { s with h := { s.h with issue := .ready, flushAt := s.stamp } } else s))

/-- The range an XLINV names: its first and last byte (R202). -/
def xlinvRange (v : Dword) : Nat × Nat :=
  let bits := match field v 1 0 with
    | 0 => 16
    | 1 => 29
    | 2 => 42
    | _ => 55
  let lo := field v 54 16 * 2 ^ 16 / 2 ^ bits * 2 ^ bits
  (lo, lo + 2 ^ bits - 1)

/-- Whether an address lies in a range. -/
def inRange (r : Nat × Nat) (va : Dword) : Bool := decide (r.1 ≤ va.toNat) && decide (va.toNat ≤ r.2)

/-- Whether an access of a context through the range is outstanding: of a hart, of a queue entry, or of an engine
command, whose record was translated at its issue and whose other places when it started (R250).  A registered wait on a
word of the range is none: it goes on at the place it found (log entry 62). -/
def rangeBusy (s : State) (c : Nat) (r : Nat × Nat) : Bool :=
  s.reqs.any (fun q => q.ctx == c && inRange r q.va)
    || s.cmds.any (fun m => m.ctx == c && (m.prog.isSome || inRange r (BitVec.ofNat 64 m.crecVa)))
    || (allPairs s).any (fun e => e.2.ctx == c &&
      e.2.dq.any (fun x => (entryPlan x).any (fun a => inRange r a.va)))

/-- Whether an XLINV may return (R202): nothing outstanding used the range's translations, and the hart's earlier
stores are released at package scope. -/
def xlinvDue (s : State) : Option (Nat × (Nat × Nat) × Nat) :=
  match s.h.issue, cregCtx s with
  | .stalled (.xlinv v rd), some c =>
    if rangeBusy s c (xlinvRange v) || mustHold s 5 then none else some (c, xlinvRange v, rd)
  | _, _ => none

/-- XLINV_COMPLETE (R202): the range is translated afresh from now on; the SETC returns. -/
def execXlinvComplete (hart : Nat) (s : State) : Out :=
  .next (withHart s hart (fun s =>
    match xlinvDue s with
    | some (c, r, rd) =>
      let s := modCtx s c (fun x => { x with xlinv := x.xlinv ++ [(r.1, r.2, s.stamp)] })
      endSetc rd 0 s
    | none => s))

/-- Whether a hart's end drain is over (R229, R319): the code, the cause, the destination of its SETC. -/
def endDue (s : State) : Option (Nat × Nat × Nat) :=
  match s.h.issue with
  | .stalled (.iend code cause rd) =>
    if vecPending s || s.reqs.any (fun r => r.uid == s.h.uid) then none else some (code, cause, rd)
  | _ => none

/-- The code recorded for an IEND (R36, R345): 0 becomes 1 when the item's escape indicator is set; a CAUSE stands
with 2 and 6 only. -/
def endCodeOf (s : State) (code cause : Nat) : Nat × Nat :=
  let esc := match s.p.item with
    | some (t, i) => (((getLaunch s t).bind (getItem · i)).map (·.escape)).getD false
    | none => false
  (if code = 0 ∧ esc = true then 1 else code, if code = 2 ∨ code = 6 then cause else 0)

/-- HART_END (R319): the hart ends; its waits and holds go.  The SETC of IEND has written its rd, with the 0 that IEND
reads, and LDST (R70, R87, R318). -/
def execHartEnd (hart : Nat) (s : State) : Out :=
  .next (withHart s hart (fun s =>
    match endDue s with
    | some (code, cause, rd) =>
      let (c, k) := endCodeOf s code cause
      let s := if rd = 32 then s else putX (BitVec.ofNat 5 rd) 0 s
      endHart s s.cur c k
    | none => s))

/-! ## Control-register writes -/

/-- Runs a write on a hart that is ready to issue. -/
def onReady (hart : Nat) (f : State → State) (s : State) : Out :=
  .next (withHart s hart (fun s => if s.h.issue = .ready then f s else s))

/-- XLINV_WRITE (R202). -/
def execXlinvWrite (hart : Nat) (v : Dword) (s : State) : Out := onReady hart (fun s => (writeStarts 0x031 v 32 s).getD s) s
/-- SRSEED_WRITE (R113): the point of R107 follows. -/
def execSrseedWrite (hart : Nat) (v : Dword) (s : State) : Out := onReady hart (srseedStart v 32) s
/-- IEND_WRITE (R319). -/
def execIendWrite (hart : Nat) (v : Dword) (s : State) : Out := onReady hart (iendStart v 32) s
/-- PRIO_WRITE (R270). -/
def execPrioWrite (hart : Nat) (v : Dword) (s : State) : Out := onReady hart (cregWriteOp 0x012 v) s
/-- WCEIL_WRITE (R259). -/
def execWceilWrite (hart : Nat) (v : Dword) (s : State) : Out := onReady hart (cregWriteOp 0x013 v) s
/-- MCEIL_WRITE (R259). -/
def execMceilWrite (hart : Nat) (v : Dword) (s : State) : Out := onReady hart (cregWriteOp 0x040 v) s
/-- SEMWIN_WRITE (R313): by a hart at M. -/
def execSemwinWrite (hart : Nat) (v : Dword) (s : State) : Out := onReady hart (cregWriteOp 0x037 v) s
/-- CREG_WRITE (R318): the write of any other register. -/
def execCregWrite (hart : Nat) (n : BitVec 12) (v : Dword) (s : State) : Out :=
  onReady hart (fun s =>
    if n = 0x032 ∧ prisemOutside s v = true then trapHere causeACCESS (BitVec.ofNat 64 (field v 8 0)) s
    else (writeStarts n.toNat v 32 s).getD (cregWriteOp n.toNat v s)) s
/-- KEY_GENERATE (R314). -/
def execKeyGenerate (c : Nat) (s : State) : Out := .next (keyGenerateOp c s)
/-- KEY_ERASE (R314). -/
def execKeyErase (c : Nat) (s : State) : Out := .next (keyEraseOp c s)
/-- SHARED_KEY_GENERATE (R314). -/
def execSharedKeyGenerate (s : State) : Out := .next (sharedKeyOp s)
/-- EINJ_ARM (R351). -/
def execEinjArm (s : State) : Out := .next (einjArmOp s)

/-! ## Asynchronous traps (R322) -/

/-- Whether the hart in focus may take an asynchronous cause: at a boundary, at U or with INH 0, after a pending STEP. -/
def asyncDue (s : State) : Bool :=
  s.h.issue == .ready && !s.h.stepDue && (s.h.level == 0 || !s.h.tstat.getLsbD 1) && (s.h.note || s.h.errNote.isSome)

/-- Takes a pending asynchronous cause: the Umpire notice with UMPST (R277), else the error notice (R349). -/
def asyncTrap (s : State) : State :=
  if s.h.note then
    takeTrap causeUMPNOTE 0 false (BitVec.ofNat 64 (umpstWord (ctxOf s s.p.ctx))) s.h.pc
      { s with h := { s.h with note := false } }
  else
    match s.h.errNote with
    | some v => takeTrap causeERRNOTE 0 false v s.h.pc { s with h := { s.h with errNote := none } }
    | none => s

/-- ASYNC_TRAP_TAKE (R322). -/
def execAsyncTrapTake (hart : Nat) (s : State) : Out :=
  .next (withHart s hart (fun s => if asyncDue s then asyncTrap s else s))

/-! ## Answers of memory (R212, R232) -/

/-- Whether a request reads back to its hart. -/
def reqAnswers (r : Req) : Bool :=
  match r.op with
  | .load _ | .amo _ | .cas => true
  | .store | .arrive | .unlock | .ack _ => false

/-- Performs the request with a number, where it may be performed and is of the kind named. -/
def performOf (id : Nat) (answers : Bool) (s : State) : State :=
  match s.reqs.find? (fun r => r.id == id) with
  | some r => if mayPerform s r && reqAnswers r == answers then perform s r else s
  | none => s

/-- LOAD_DATA_RETURN (R232): a load, AMO or CAS is performed and its data or poison returns. -/
def execLoadDataReturn (id : Nat) (s : State) : Out := .next (performOf id true s)

/-- STORE_PERFORMED (R232): a store, an arrival or an UNLOCK is performed at its home. -/
def execStorePerformed (id : Nat) (s : State) : Out := .next (performOf id false s)

/-- PEER_COMPLETION (R212): the completion of a write performed outside the package returns. -/
def execPeerCompletion (id : Nat) (s : State) : Out :=
  .next { s with reqs := s.reqs.filter (fun r => !(r.id == id && r.done)) }

end Sys2Proof.Machine
end

