-- ==== Sys2Proof/Machine/Special.lean ====
section
/-! DEFINITION. The special functions of R154 and R155: VSQRT, VSIN, VCOS correctly rounded; VRCP, VRSQ,
VEXP2, VLOG2 faithfully rounded, the one of the two bracketing values being the part's (Config.faithful).
Transcendental values are computed in fixed point with far more bits than any rounding boundary of an f16
or bf16 input comes near (log entry 30). -/
namespace Sys2Proof.Machine
open Sys2Proof

/-- floor(π × 2^896). -/
def piFix : Nat := 0x3243f6a8885a308d313198a2e03707344a4093822299f31d0082efa98ec4e6c89452821e638d01377be5466cf34e90c6cc0ac29b7c97c50dd3f84d5b5b54709179216d5d98979fb1bd1310ba698dfb5ac2ffd72dbd01adfb7b8e1afed6a267e96ba7c9045f12c7f9924a19947b3916cf7
/-- floor(ln 2 × 2^640). -/
def ln2Fix : Nat := 0xb17217f7d1cf79abc9e3b39803f2f6af40f343267298b62d8a0d175b8baafa2be7b876206debac98559552fb4afa1b10ed2eae35c138214427573b291169b8253e96ca16224ae8c51acbda11317c387e
/-- floor(ln 2 × 2^320). -/
def ln2Fix320 : Nat := 0xb17217f7d1cf79abc9e3b39803f2f6af40f343267298b62d8a0d175b8baafa2be7b876206debac98

/-- The Taylor sum of sine (from t = r, a = 2) or cosine (from t = 1, a = 1) in units of 2^-640. -/
def trigSeries (r2 : Int) : Nat → Nat → Int → Int → Int
  | 0, _, _, s => s
  | n + 1, a, t, s =>
    trigSeries r2 n (a + 2) (-(t * r2 / ((2 ^ 640 : Nat) : Int)) / ((a * (a + 1) : Nat) : Int)) (s + t)

/-- Sine (false) or cosine (true) of a non-zero dyadic x, in units of 2^-640. -/
def sinCosFix (cosine : Bool) (x : Frac) : Int :=
  let xf := x.num * ((2 ^ 896 : Nat) : Int) / (x.den : Int)
  let k := (4 * xf + (piFix : Int)) / ((2 * piFix : Nat) : Int)
  let r := (2 * xf - k * (piFix : Int)) / ((2 ^ 257 : Nat) : Int)
  let r2 := r * r / ((2 ^ 640 : Nat) : Int)
  let sn := trigSeries r2 70 2 r 0
  let cs := trigSeries r2 70 1 ((2 ^ 640 : Nat) : Int) 0
  let quad := ((k + (if cosine then 1 else 0)) % 4).toNat
  if quad = 0 then sn else if quad = 1 then cs else if quad = 2 then -sn else -cs

/-- 2^f for 0 ≤ f < 1, both in units of 2^-640. -/
def exp2Series (y : Int) : Nat → Nat → Int → Int → Int
  | 0, _, _, s => s
  | n + 1, j, t, s => exp2Series y n (j + 1) (t * y / ((2 ^ 640 : Nat) : Int) / (j : Int)) (s + t)

/-- 2^x for a fraction x that is no integer, as a fraction; x is held within ±300, beyond which every
format overflows or falls below its smallest subnormal. -/
def exp2Frac (x : Frac) : Frac :=
  let fl := fracFloor x
  if 300 ≤ fl then fracPow2 300
  else if fl < -300 then fracPow2 (-300)
  else
    let f := (x.num - fl * (x.den : Int)) * ((2 ^ 640 : Nat) : Int) / (x.den : Int)
    let y := f * (ln2Fix : Int) / ((2 ^ 640 : Nat) : Int)
    fracMul ⟨exp2Series y 139 1 ((2 ^ 640 : Nat) : Int) 0, 2 ^ 640⟩ (fracPow2 fl)

/-- The series of the inverse hyperbolic tangent in units of 2^-320. -/
def atanhSeries (z2 : Nat) : Nat → Nat → Nat → Nat → Nat
  | 0, _, _, s => s
  | n + 1, j, t, s => atanhSeries z2 n (j + 2) (t * z2 / 2 ^ 320) (s + t / j)

/-- log2 of a positive dyadic x that is no power of two, as a fraction with denominator 2^320. -/
def log2Frac (x : Frac) : Frac :=
  let k := x.num.toNat
  let l := k.log2
  let z := (k - 2 ^ l) * 2 ^ 320 / (k + 2 ^ l)
  let ln := 2 * atanhSeries (z * z / 2 ^ 320) 110 1 z 0
  ⟨((ln * 2 ^ 320 / ln2Fix320 : Nat) : Int) + ((l : Int) - (x.den.log2 : Int)) * ((2 ^ 320 : Nat) : Int), 2 ^ 320⟩

/-- sqrt of a positive fraction, as a fraction that lies strictly between the same dyadic boundaries of
2^-200 as the exact root, and equals it when the root is a multiple of 2^-200. -/
def sqrtFrac (x : Frac) : Frac :=
  let n := x.num.toNat * 4 ^ 200
  let v := n / x.den
  let s := isqrt v
  let sticky := if s * s = v ∧ n % x.den = 0 then 0 else 1
  ⟨((2 * s + sticky : Nat) : Int), 2 ^ 201⟩

/-- Whether a positive dyadic is a power of two. -/
def fracIsPow2 (x : Frac) : Bool :=
  let n := x.num.toNat
  n == 2 ^ n.log2 && x.den == 2 ^ x.den.log2

/-- Faithful rounding of a non-zero exact value: one of the two representable values that bracket it,
`up` choosing the upper one; the value itself where it is representable (R155). -/
def roundFaithful (f : FFmt) (up : Bool) (x : Frac) : Nat × Flags :=
  let neg := decide (x.num < 0)
  let qe := roundExp f x
  let (lo, inexact) := roundUnits .rdn 0 (fracScale x qe)
  let k := if inexact && up then lo + 1 else lo
  let mag := fracMul ⟨(k.natAbs : Int), 1⟩ (fracPow2 qe)
  if fracLt (fmtMaxVal f) mag then (overflowCode f false .rne neg, flagOFNX)
  else
    (withSign f neg (encodeMag f k.natAbs qe),
     if inexact then (if fracLt mag (fracPow2 (fmtEmin f)) then flagUFNX else flagNX) else flagNone)

/-- The special functions. -/
inductive SpecialFn
  | sqrt | rcp | rsq | exp2 | log2 | sin | cos
  deriving DecidableEq, Repr

/-- A special function on one element (R154, R155): the code and the flags. -/
def specialF (fn : SpecialFn) (f : FFmt) (mode : Rm) (r : Nat) (c : Nat) : Nat × Flags :=
  let q : Nat × Flags := (fmtQNaN f, flagNV)
  let free (n : Nat) : Bool := Config.faithful n (fmtBias f) c
  match decodeF f c with
  | .nan s => (fmtQNaN f, if s then flagNV else flagNone)
  | .zero neg =>
    match fn with
    | .sqrt | .sin => (withSign f neg 0, flagNone)
    | .rcp | .rsq => (withSign f neg (fmtInfCode f), flagDZ)
    | .exp2 | .cos => (oneCode f, flagNone)
    | .log2 => (withSign f true (fmtInfCode f), flagDZ)
  | .inf neg =>
    match fn with
    | .sqrt | .log2 => if neg then q else (fmtInfCode f, flagNone)
    | .rcp => (withSign f neg 0, flagNone)
    | .rsq => if neg then q else (0, flagNone)
    | .exp2 => (if neg then 0 else fmtInfCode f, flagNone)
    | .sin | .cos => q
  | .fin x =>
    match fn with
    | .sqrt => if x.num < 0 then q else roundInto f false mode r (sqrtFrac x)
    | .rcp => roundFaithful f (free 0) (fracDiv (fracInt 1) x)
    | .rsq => if x.num < 0 then q else roundFaithful f (free 1) (sqrtFrac (fracDiv (fracInt 1) x))
    | .exp2 =>
      if fracIsInt x ∧ -300 ≤ fracFloor x ∧ fracFloor x ≤ 300 then roundFaithful f (free 2) (fracPow2 (fracFloor x))
      else roundFaithful f (free 2) (exp2Frac x)
    | .log2 =>
      if x.num < 0 then q
      else if fracIsPow2 x then
        let e := fracLog2 x
        if e = 0 then (0, flagNone) else roundFaithful f (free 3) (fracInt e)
      else roundFaithful f (free 3) (log2Frac x)
    | .sin => roundInto f false mode r ⟨sinCosFix false x, 2 ^ 640⟩
    | .cos => roundInto f false mode r ⟨sinCosFix true x, 2 ^ 640⟩
where
  /-- The code of 1. -/
  oneCode (f : FFmt) : Nat := fmtBias f * 2 ^ fmtMant f

end Sys2Proof.Machine
end

