-- ==== Sys2Proof/Machine/Lanes.lean ====
section
/-! DEFINITION. The lane storage of a pair as instructions see it: elements with their tags and groups, masks and
kp, the stochastic generators, and the walk over active elements (spec/06_results_vector.md R142-R146;
spec/04_results_formats.md R104, R109, R113). -/
namespace Sys2Proof.Machine
open Sys2Proof

/-! ## Registers, tags, groups -/

/-- The tag of a vector register in a list of tags. -/
def tagOf (tags : List Tag) (r : Nat) : Tag := tags.getD r (.int true 1)

/-- Whether a register is in use in its group (R76). -/
def regOk (p : Pair) (r : Nat) : Bool := decide (r % 8 < p.gc.getD (r / 8) 0)

/-- Whether a tag fits the group of a register (R104). -/
def tagFits (p : Pair) (r : Nat) (t : Tag) : Bool := decide (tagWidth t ≤ p.gw.getD (r / 8) 1)

/-- The code of an element under a tag (R142). -/
def elemCode (p : Pair) (t : Tag) (r i : Nat) : Nat :=
  (SMap.get 0 (p.v.getD r []) i).toNat % 2 ^ tagWidth t

/-- ival of an element (R150). -/
def elemInt (p : Pair) (t : Tag) (r i : Nat) : Int := ivalOf t (elemCode p t r i)

/-- Writes codes at positions of a register; the bits above the tag's width become 0 (R142). -/
def putCodes (p : Pair) (t : Tag) (r : Nat) (l : List (Nat × Nat)) : Pair :=
  { p with v := p.v.set r (l.foldl (fun m e => SMap.set 0 m e.1 (BitVec.ofNat 16 (e.2 % 2 ^ tagWidth t))) (p.v.getD r [])) }

/-! ## Plane occupancy (R50, R182) -/

/-- The smallest m from 1 at which every value equals its own low m bits, sign-extended; w where none is smaller. -/
def signedPlanes (w : Nat) (l : List Int) : Nat :=
  ((upFrom 1 w).find? (fun m => l.all (fun v => signExtend (lowBits v m) m == v))).getD w

/-- occupancy() of R50 on the values of a group as w-bit codes. -/
def occupancy (w : Nat) (signed : Bool) (codes : List Nat) : Nat :=
  let m := if signed then signedPlanes w (codes.map (fun c => signExtend c w)) else w
  let occ := (codes.foldl (· ||| ·) 0) % 2 ^ m
  if signed then occ ||| 2 ^ (m - 1) else occ

/-- The codes of an element group: the 256 elements at one depth in one slice (R48). -/
def groupCodes (p : Pair) (r g : Nat) : List Nat :=
  (upFrom (256 * g) (256 * g + 256)).map (elemCode p (tagOf p.tags r) r)

/-- Whether a tag's planes are those of a signed number. -/
def tagIsSigned : Tag → Bool
  | .int s _ => s
  | .flt _ | .mx _ => false

/-- OCC of element group g of register r (R50).  It is always exact for the values held, so it is read off the register,
as every instruction, TCE transposition and restore leaves it. -/
def occOf (p : Pair) (r g : Nat) : Nat :=
  let t := tagOf p.tags r
  occupancy (tagWidth t) (tagIsSigned t) (groupCodes p r g)

/-- The broadcast occupancy of an element group of an MX-tagged register (R182): on the integer views, signed, with the
planes of R102. -/
def bcastOcc (p : Pair) (r g : Nat) : Nat :=
  let t := tagOf p.tags r
  occupancy (tagPlanes t) true ((groupCodes p r g).map (fun c => lowBits (kview t c) (tagPlanes t)))

/-! ## Where elements live (R48) -/

/-- The pair's lanes: 8,192 / P. -/
def pairLanes (p : Pair) : Nat := 8192 / p.pairs

/-- The slice of the core that holds element i of a pair in partition `part`. -/
def sliceOf (p : Pair) (part i : Nat) : Nat := part * (32 / p.pairs) + i % pairLanes p / 256

/-- The lane within its slice that holds element i: the home lane of R342. -/
def homeLane (p : Pair) (i : Nat) : Nat := i % pairLanes p % 256

/-- The lane that computes element i in the second run of a checked instruction (R340). -/
def shiftedLane (p : Pair) (i : Nat) : Nat := (homeLane p i + 1) % 256

/-- ADDR of a record of unit 6 (R348). -/
def laneAddr (p : Pair) (part i : Nat) : Nat :=
  i % 2 ^ 32 + homeLane p i * 2 ^ 32 + shiftedLane p i * 2 ^ 40 + sliceOf p part i * 2 ^ 48

/-! ## Masks -/

/-- A mask register by the number of a 4-bit mask field: k0-k7, or kp as 8 (R78). -/
def maskReg (p : Pair) (n : Nat) : Nat := if n = 8 then p.kp else p.k.getD n 0

/-- Writes a mask register. -/
def setMaskReg (p : Pair) (n : Nat) (v : Nat) : Pair :=
  if n = 8 then { p with kp := v } else { p with k := p.k.set n v }

/-- Writes bits of a mask. -/
def putBits (m : Nat) (l : List (Nat × Bool)) : Nat := l.foldl (fun m e => setBit m e.1 e.2) m

/-- kp of a position. -/
def kpBit (p : Pair) (i : Nat) : Bool := p.kp.testBit i

/-- Sets kp at positions (R145). -/
def markKp (p : Pair) (l : List Nat) : Pair := { p with kp := putBits p.kp (l.map (fun i => (i, true))) }

/-- The positions an instruction walks (R143). -/
def span (e : VEntry) : List Nat := upFrom e.vstart e.vl

/-- Whether a position takes part under an active mask (R143): K 0 is unmasked. -/
def maskOn (p : Pair) (k i : Nat) : Bool := k == 0 || (p.k.getD k 0).testBit i

/-- The active positions (R143). -/
def actives (p : Pair) (e : VEntry) (k : Nat) : List Nat := (span e).filter (maskOn p k)

/-! ## Stochastic generators (R113) -/

/-- lane_seed. -/
def laneSeed (s : Word) (j : Nat) : Word :=
  let t := s ^^^ BitVec.ofNat 32 (j * 0x9E3779B9)
  if t = 0 then 1 else t

/-- One step of a generator. -/
def genStep (t : Word) : Word :=
  let t := t ^^^ (t <<< 13)
  let t := t ^^^ (t >>> 17)
  t ^^^ (t <<< 5)

/-- The state of a lane's generator; a lane never drawn from holds its seed. -/
def genState (p : Pair) (j : Nat) : Word :=
  let g := SMap.get 0 p.gens j
  if g = 0 then laneSeed p.seed j else g

/-- lane_step: advances a lane and gives bits [31:16] of its new state (R112, R113). -/
def drawLane (p : Pair) (j : Nat) : Pair × Nat :=
  let t := genStep (genState p j)
  ({ p with gens := SMap.set 0 p.gens j t }, t.toNat / 2 ^ 16)

/-- Reseeds every lane of a pair (R113). -/
def reseed (p : Pair) (seed : Word) : Pair := { p with seed := seed, gens := [] }

/-! ## The walk (R143) -/

/-- Computes elements in order: `f` gives the code and flags of a position under a mode and the bits drawn.  A
poisoned position draws nothing, raises nothing, and rounds RNE where the mode is stochastic (R145). -/
def walkElems (p : Pair) (rm : Rm) (draws : Bool) (idx : List Nat) (f : Nat → Rm → Nat → Nat × Flags) :
    Pair × List (Nat × Nat) × Flags :=
  let (p, out, fl) := idx.foldl (fun (acc : Pair × List (Nat × Nat) × Flags) i =>
    let (p, out, fl) := acc
    let pois := kpBit p i
    let (p, r) := if draws && rm == .sr && !pois then drawLane p (i % lanesOf p) else (p, 0)
    let mode := if pois && rm == .sr then .rne else rm
    let (c, x) := f i mode r
    (p, (i, c) :: out, if pois then fl else fl ||| x)) (p, [], 0)
  (p, out.reverse, fl)

/-- What the lane array leaves of one entry: the pair, the flags for the hart's FPST, a scalar result, a new VL, a
trap on lane data (R45), whether a poisoned index was skipped (R343). -/
structure LaneRes where
  p : Pair
  fl : Flags := 0
  res : Option Dword := none
  vl : Option Nat := none
  trap : Option ElemTrap := none
  skip : Bool := false
  deriving DecidableEq, Repr

/-- A POISON trap on lane data: no element is named (R321, R344). -/
def poisonTrap (v : Nat) : ElemTrap := { cause := causePOISON, sub := 0, elem := 0, tval := BitVec.ofNat 64 v }

/-- The second source of an instruction: none, a vector register, or a scalar register whose copy takes vs1's tag
(R76, R109). -/
inductive Src
  | none | vec (r : Nat) | sca
  deriving DecidableEq, Repr

/-- The second source by the S bit. -/
def srcOf (b : BitVec 5) (s : BitVec 1) : Src := if s = 1 then .sca else .vec b.toNat

/-- The tag of the second source. -/
def srcTag (tags : List Tag) (a : Nat) : Src → Tag
  | .vec r => tagOf tags r
  | .sca => tagOf tags a
  | .none => tagOf tags a

/-- The code of the second source at a position. -/
def srcCode (p : Pair) (e : VEntry) (a i : Nat) : Src → Nat
  | .vec r => elemCode p (tagOf e.tags r) r i
  | .sca => e.b.toNat % 2 ^ tagWidth (tagOf e.tags a)
  | .none => 0

end Sys2Proof.Machine
end

