-- ==== Sys2Proof/Machine/VArith.lean ====
section
/-! DEFINITION. Vector arithmetic on the lane array (spec/06_results_vector.md R149-R156) and the tag rules it is
checked by at issue (spec/04_results_formats.md R108). -/
namespace Sys2Proof.Machine
open Sys2Proof

/-- The element-wise operations of R77. -/
inductive AOp
  | add | sub | rsub | mul | mulh | ma | ms | min | max | abs | neg
  | addSat | subSat | rsubSat | sll | srl | sra | clip
  | and | or | xor | not | sel | cvt | cvtSat | div
  | sp (f : SpecialFn)
  | cmp (c : Cmp)
  deriving DecidableEq, Repr

/-- The class an operation belongs to in the table of R108. -/
inductive AClass
  /-- INT, or one FLT tag. -/
  | both
  /-- INT only. -/
  | int
  /-- Shifts: vs1 INT, the amount INT or scalar. -/
  | shift
  /-- One FLT tag only. -/
  | flt
  /-- Codes of one width: INT, FLT or NAR. -/
  | bits
  /-- Conversions. -/
  | conv
  /-- Compares, whose destination is a mask. -/
  | cmp
  deriving DecidableEq, Repr

/-- The class of an operation (R108). -/
def aclass : AOp → AClass
  | .add | .sub | .rsub | .mul | .ma | .ms | .min | .max | .abs | .neg => .both
  | .mulh | .clip | .addSat | .subSat | .rsubSat => .int
  | .sll | .srl | .sra => .shift
  | .and | .or | .xor | .not | .sel => .bits
  | .cvt | .cvtSat => .conv
  | .div | .sp _ => .flt
  | .cmp _ => .cmp

/-- Whether vd is a source too (R108). -/
def readsDest : AOp → Bool
  | .ma | .ms => true
  | _ => false

/-- Whether every tag is the same FLT tag. -/
def sameFlt (l : List Tag) : Bool :=
  match l with
  | t :: ts => tagIsFlt t && ts.all (· == t)
  | [] => false

/-- The tag rules of R108 for an operation with vector source tags `ts` (vs1 first) and vd's tag: the tag vd takes,
or ILL. -/
def arithTag (op : AOp) (ts : List Tag) (td : Tag) : Option Tag :=
  let t1 := ts.headD td
  let fltSrc := if readsDest op then td :: ts else ts
  match aclass op with
  | .both =>
    if ts.all tagIsInt && tagIsInt td then some td
    else if sameFlt fltSrc then some t1 else none
  | .int => if ts.all tagIsInt && tagIsInt td then some td else none
  | .shift => if ts.all tagIsInt && tagIsInt td then some td else none
  | .flt => if sameFlt fltSrc then some t1 else none
  | .bits =>
    if (td :: ts).all (fun t => tagNotMx t && tagWidth t == tagWidth td) then some td else none
  | .conv => if (td :: ts).all tagNotMx then some td else none
  | .cmp => if ts.all tagIsInt || sameFlt ts then some td else none

/-! ## Elements -/

/-- The exact or bit-level integer result of one element, as a code of the destination's tag (R150, R151). -/
def intElem (op : AOp) (td ta : Tag) (ca : Nat) (x y d : Int) : Nat :=
  let wa := tagWidth ta
  let n := (y % 32).toNat
  match op with
  | .add => narrowTo td (x + y)
  | .sub => narrowTo td (x - y)
  | .rsub => narrowTo td (y - x)
  | .addSat => narrowSat td (x + y)
  | .subSat => narrowSat td (x - y)
  | .rsubSat => narrowSat td (y - x)
  | .mul => narrowTo td (x * y)
  | .mulh => narrowTo td (x * y / (2 ^ tagWidth td : Nat))
  | .ma => narrowTo td (d + x * y)
  | .ms => narrowTo td (d - x * y)
  | .min => narrowTo td (min x y)
  | .max => narrowTo td (max x y)
  | .abs => narrowTo td (if x < 0 then -x else x)
  | .neg => narrowTo td (-x)
  | .sll => narrowTo td (x * (2 ^ n : Nat))
  | .srl => narrowTo td ((ca / 2 ^ n : Nat) : Int)
  | .sra => narrowTo td (signExtend ca wa / (2 ^ n : Nat))
  | .clip =>
    if n = 0 then narrowSat td x else narrowSat td ((x + (2 ^ (n - 1) : Nat)) / (2 ^ n : Nat))
  | .and | .or | .xor | .not | .sel | .cvt | .cvtSat | .div | .sp _ | .cmp _ => 0

/-- The float result of one element (R153-R155): codes a, b of the sources and d of vd. -/
def fltElem (op : AOp) (f : FFmt) (mode : Rm) (r : Nat) (a b d : Nat) : Nat × Flags :=
  let x := decodeF f a
  let y := decodeF f b
  let z := decodeF f d
  match op with
  | .add => finish f mode r (addExact mode x y)
  | .sub => finish f mode r (addExact mode x (negVal y))
  | .rsub => finish f mode r (addExact mode y (negVal x))
  | .mul => finish f mode r (mulExact x y)
  | .ma => finish f mode r (fmaExact mode x y z)
  | .ms => finish f mode r (fmaExact mode (negVal x) y z)
  | .min => minMaxF f false a b
  | .max => minMaxF f true a b
  | .abs => (a % fmtSignBit f, flagNone)
  | .neg => (a ^^^ fmtSignBit f, flagNone)
  | .div => finish f mode r (divExact x y)
  | .sp fn => specialF fn f mode r a
  | .mulh | .addSat | .subSat | .rsubSat | .sll | .srl | .sra | .clip
  | .and | .or | .xor | .not | .sel | .cvt | .cvtSat | .cmp _ => (0, flagNone)

/-- The bit operations of R152. -/
def bitsElem (op : AOp) (w a b : Nat) : Nat :=
  match op with
  | .and => a &&& b
  | .or => a ||| b
  | .xor => a ^^^ b
  | .not => ones w - a
  | _ => a

/-- Whether a float operation draws in stochastic mode (R113, R155): those that round. -/
def fltDraws : AOp → Bool
  | .add | .sub | .rsub | .mul | .ma | .ms | .div => true
  | .sp .sqrt | .sp .sin | .sp .cos => true
  | _ => false

/-- Element-wise arithmetic on the lane array, vd and vs1 being registers `d` and `a` (R149-R156). -/
def laneArith (op : AOp) (p : Pair) (e : VEntry) (d a : Nat) (src : Src) (k : Nat) : LaneRes :=
  let ta := tagOf e.tags a
  let td := tagOf e.tags d
  let tb := srcTag e.tags a src
  let code (i : Nat) : Nat := elemCode p ta a i
  let code2 (i : Nat) : Nat := srcCode p e a i src
  match op with
  | .sel =>
    let out := (span e).map (fun i => (i, if (p.k.getD k 0).testBit i then code i else code2 i))
    { p := putCodes p td d out }
  | .cvt | .cvtSat =>
    let sat := op == .cvtSat
    let (p', out, fl) := walkElems p e.rm (!(tagIsInt ta && tagIsInt td)) (actives p e k)
      (fun i m r => convertTag ta td sat m r (code i))
    { p := putCodes p' td d out, fl := fl }
  | .cmp c =>
    let (p', out, fl) := walkElems p e.rm false (actives p e k) (fun i _ _ =>
      match ta with
      | .flt f =>
        let (t, x) := cmpF c (decodeF f (code i)) (decodeF f (code2 i))
        (if t then 1 else 0, x)
      | _ => (if cmpI c (ivalOf ta (code i)) (ivalOf tb (code2 i)) then 1 else 0, 0))
    { p := setMaskReg p' d (putBits (p.k.getD d 0) (out.map (fun x => (x.1, x.2 == 1)))), fl := fl }
  | .and | .or | .xor | .not =>
    { p := putCodes p td d ((actives p e k).map (fun i => (i, bitsElem op (tagWidth ta) (code i) (code2 i)))) }
  | _ =>
    match ta with
    | .flt f =>
      let (p', out, fl) := walkElems p e.rm (fltDraws op) (actives p e k)
        (fun i m r => fltElem op f m r (code i) (code2 i) (elemCode p ta d i))
      { p := putCodes p' ta d out, fl := fl }
    | _ =>
      { p := putCodes p td d ((actives p e k).map (fun i =>
          (i, intElem op td ta (code i) (ivalOf ta (code i)) (ivalOf tb (code2 i)) (elemInt p td d i)))) }

end Sys2Proof.Machine
end

