-- ==== Sys2Proof/Machine/VMove.lean ====
section
/-! DEFINITION. Mask, movement, reduce, scan and sparse instructions on the lane array
(spec/06_results_vector.md R157-R165; spec/04_results_formats.md R116, R117; spec/14_recovery.md R343). -/
namespace Sys2Proof.Machine
open Sys2Proof

/-! ## Masks (R157) -/

/-- The bit operations on masks. -/
inductive KOp
  | and | or | xor | andn | not | mov
  deriving DecidableEq, Repr

/-- One mask bit. -/
def kbitOf (op : KOp) (a b : Bool) : Bool :=
  match op with
  | .and => a && b | .or => a || b | .xor => a != b | .andn => a && !b | .not => !a | .mov => a

/-- KAND to KMOV: the bits from VSTART to VL − 1. -/
def laneMask (op : KOp) (p : Pair) (e : VEntry) (d a b : Nat) : LaneRes :=
  let x := maskReg p a
  let y := maskReg p b
  { p := setMaskReg p d (putBits (maskReg p d) ((span e).map (fun i => (i, kbitOf op (x.testBit i) (y.testBit i))))) }

/-- The lowest poisoned position a mask names (R343); kp itself is never poisoned. -/
def maskPoison (p : Pair) (vl a : Nat) : Option Nat :=
  if a = 8 then none else firstBit (maskReg p a &&& p.kp) vl

/-- KPOPC. -/
def laneKpopc (p : Pair) (e : VEntry) (a : Nat) : LaneRes :=
  match maskPoison p e.vl a with
  | some i => { p := p, trap := some (poisonTrap i) }
  | none => { p := p, res := some (BitVec.ofNat 64 (popcount (maskReg p a) e.vl)) }

/-- KFIRST. -/
def laneKfirst (p : Pair) (e : VEntry) (a : Nat) : LaneRes :=
  match maskPoison p e.vl a with
  | some i => { p := p, trap := some (poisonTrap i) }
  | none =>
    { p := p, res := some (match firstBit (maskReg p a) e.vl with
        | some i => BitVec.ofNat 64 i
        | none => -1) }

/-! ## Movement (R158-R160) -/

/-- VMOV. -/
def laneVmov (p : Pair) (e : VEntry) (d a k : Nat) : LaneRes :=
  let t := tagOf e.tags a
  { p := putCodes p t d ((actives p e k).map (fun i => (i, elemCode p t a i))) }

/-- VBCAST: the scalar takes vd's tag (R146). -/
def laneVbcast (p : Pair) (e : VEntry) (d k : Nat) : LaneRes :=
  { p := putCodes p (tagOf e.tags d) d ((actives p e k).map (fun i => (i, e.b.toNat))) }

/-- VEXT: POISON at a poisoned position. -/
def laneVext (p : Pair) (e : VEntry) (a : Nat) : LaneRes :=
  let x := e.b.toNat
  if vlmaxOf p ≤ x then { p := p, res := some 0 }
  else if kpBit p x then { p := p, trap := some (poisonTrap x) }
  else { p := p, res := some (low64 (elemInt p (tagOf e.tags a) a x)) }

/-- VINS: ignores VL and VSTART. -/
def laneVins (p : Pair) (e : VEntry) (d : Nat) : LaneRes :=
  let x := e.b.toNat
  if x < vlmaxOf p then { p := putCodes p (tagOf e.tags d) d [(x, e.a.toNat)] } else { p := p }

/-- Moves codes between positions: each target takes the code of its source position, or 0, and the source's kp
(R145, R159). -/
def moveFrom (p : Pair) (t : Tag) (d a : Nat) (l : List (Nat × Option Nat)) : Pair :=
  let out := l.map (fun m => (m.1, match m.2 with
    | some j => elemCode p t a j
    | none => 0))
  markKp (putCodes p t d out) ((l.filter (fun m =>
    match m.2 with
    | some j => kpBit p j
    | none => false)).map (·.1))

/-- VSLUP: positions below the distance keep their value. -/
def laneVslup (p : Pair) (e : VEntry) (d a k : Nat) : LaneRes :=
  let n := e.b.toNat
  { p := moveFrom p (tagOf e.tags a) d a
      (((actives p e k).filter (fun i => decide (n ≤ i))).map (fun i => (i, some (i - n)))) }

/-- VSLDN. -/
def laneVsldn (p : Pair) (e : VEntry) (d a k : Nat) : LaneRes :=
  let n := e.b.toNat
  { p := moveFrom p (tagOf e.tags a) d a
      ((actives p e k).map (fun i => (i, if i + n < e.vl then some (i + n) else none))) }

/-- VPAIR. -/
def laneVpair (p : Pair) (e : VEntry) (d a k : Nat) : LaneRes :=
  { p := moveFrom p (tagOf e.tags a) d a
      ((actives p e k).map (fun i => (i, if (i ^^^ 1) < e.vl then some (i ^^^ 1) else none))) }

/-- VPERM: a poisoned index gives 0, and its position stays poisoned (R343). -/
def laneVperm (p : Pair) (e : VEntry) (d a b k : Nat) : LaneRes :=
  { p := moveFrom p (tagOf e.tags a) d a ((actives p e k).map (fun i =>
      let j := elemInt p (tagOf e.tags b) b i
      (i, if kpBit p i = false ∧ 0 ≤ j ∧ j < (e.vl : Int) then some j.toNat else none))) }

/-- Positions below VL a mask selects, each with its rank c(i) (R160). -/
def ranked (m : Nat) (vl : Nat) : List (Nat × Nat) :=
  (((List.range vl).filter (m.testBit ·))).mapIdx (fun c i => (i, c))

/-- VCMPRS. -/
def laneVcmprs (p : Pair) (e : VEntry) (d a k : Nat) : LaneRes :=
  { p := moveFrom p (tagOf e.tags a) d a ((ranked (p.k.getD k 0) e.vl).map (fun x => (x.2, some x.1))) }

/-- VEXPND. -/
def laneVexpnd (p : Pair) (e : VEntry) (d a k : Nat) : LaneRes :=
  { p := moveFrom p (tagOf e.tags a) d a ((ranked (p.k.getD k 0) e.vl).map (fun x => (x.1, some x.2))) }

/-- VIOTA: every position below VL takes its rank. -/
def laneViota (p : Pair) (e : VEntry) (d k : Nat) : LaneRes :=
  let td := tagOf e.tags d
  { p := putCodes p td d ((List.range e.vl).map (fun i => (i, narrowTo td (popcount (p.k.getD k 0) i)))) }

/-! ## Reduce and scan (R116, R117, R161) -/

/-- The operations of R80. -/
inductive RedOp
  | add | min | max | and | or | xor
  deriving DecidableEq, Repr

/-- The operation of an OP field (R80). -/
def redOf (o : BitVec 3) : RedOp :=
  match o.toNat with
  | 0 => .add | 1 => .min | 2 => .max | 3 => .and | 4 => .or | _ => .xor

/-- A value in the tree: the lowest position it covers, the value, whether it covers an active position, whether it
covers a poisoned one. -/
structure Node where
  lo : Nat
  int : Int
  code : Nat
  act : Bool
  pois : Bool

/-- The identity of an operation on INT tags (R116). -/
def intIdentity (op : RedOp) (t : Tag) : Int :=
  let w := tagWidth t
  let sg := match t with
    | .int s _ => s
    | _ => false
  match op with
  | .add | .or | .xor => 0
  | .min => if sg then ((2 ^ (w - 1) : Nat) : Int) - 1 else ((2 ^ w : Nat) : Int) - 1
  | .max => if sg then -((2 ^ (w - 1) : Nat) : Int) else 0
  | .and => ivalOf t (ones w)

/-- The identity on FLT tags, as a code (R116): −0, +∞, −∞. -/
def fltIdentity (op : RedOp) (f : FFmt) : Nat :=
  match op with
  | .min => fmtInfCode f
  | .max => withSign f true (fmtInfCode f)
  | _ => fmtSignBit f

/-- One integer stage, exact (R117). -/
def intStage (op : RedOp) (t : Tag) (a b : Int) : Int :=
  let w := tagWidth t
  match op with
  | .add => a + b
  | .min => min a b
  | .max => max a b
  | .and => ivalOf t (lowBits a w &&& lowBits b w)
  | .or => ivalOf t (lowBits a w ||| lowBits b w)
  | .xor => ivalOf t (lowBits a w ^^^ lowBits b w)

/-- One float stage under a mode (R116). -/
def fltStage (op : RedOp) (f : FFmt) (mode : Rm) (r a b : Nat) : Nat × Flags :=
  match op with
  | .min => minMaxF f false a b
  | .max => minMaxF f true a b
  | _ => finish f mode r (addExact mode (decodeF f a) (decodeF f b))

/-- Combines two nodes (R113, R161): the stage draws when it rounds and covers an active and no poisoned position;
a poisoned stage raises nothing and rounds RNE where the mode is stochastic. -/
def combine (op : RedOp) (t : Tag) (rm : Rm) (acc : Pair × Flags) (x y : Node) : (Pair × Flags) × Node :=
  let act := x.act || y.act
  let pois := x.pois || y.pois
  match t with
  | .flt f =>
    let (p, fl) := acc
    let (p, r) := if rm = .sr ∧ op = .add ∧ act = true ∧ pois = false then drawLane p (x.lo % lanesOf p) else (p, 0)
    let mode := if rm = .sr ∧ (pois = true ∨ act = false) then .rne else rm
    let (c, g) := fltStage op f mode r x.code y.code
    ((p, if pois then fl else fl ||| g), { lo := x.lo, int := 0, code := c, act := act, pois := pois })
  | _ => (acc, { lo := x.lo, int := intStage op t x.int y.int, code := 0, act := act, pois := pois })

/-- One stage of the tree: neighbours combine, an odd last value passes (R116). -/
def treeStage (op : RedOp) (t : Tag) (rm : Rm) : Pair × Flags → List Node → (Pair × Flags) × List Node
  | acc, x :: y :: l =>
    let (acc, z) := combine op t rm acc x y
    let (acc, l) := treeStage op t rm acc l
    (acc, z :: l)
  | acc, l => (acc, l)

/-- tree_reduce of R116, with at most `n` stages. -/
def treeReduce (op : RedOp) (t : Tag) (rm : Rm) : Nat → Pair × Flags → List Node → (Pair × Flags) × Option Node
  | 0, acc, l => (acc, l.head?)
  | n + 1, acc, l =>
    match l with
    | [] => (acc, none)
    | [x] => (acc, some x)
    | l =>
      let (acc, l) := treeStage op t rm acc l
      treeReduce op t rm n acc l

/-- The nodes of positions: the identity where a position is masked off or poisoned (R161). -/
def leaves (op : RedOp) (p : Pair) (t : Tag) (a k lo hi : Nat) : List Node :=
  (upFrom lo (hi + 1)).map (fun i =>
    let on := maskOn p k i
    let pois := on && kpBit p i
    let c := elemCode p t a i
    match t with
    | .flt f => { lo := i, int := 0, code := if on && !pois then c else fltIdentity op f, act := on, pois := pois }
    | t => { lo := i, int := if on && !pois then ivalOf t c else intIdentity op t, code := 0, act := on, pois := pois })

/-- The result code of a node in vd's tag (R161). -/
def nodeCode (ta td : Tag) (x : Node) : Nat :=
  match ta with
  | .flt _ => x.code
  | _ => narrowTo td x.int

/-- The first positions of the segments of 0 to VL − 1: 0, and with a boundary mask every later set position. -/
def segStarts (kb : Option Nat) (vl : Nat) : List Nat :=
  (List.range vl).filter (fun i => i == 0 ||
    (match kb with
     | some m => m.testBit i
     | none => false))

/-- Reduces the ranges named, each by a tree of its own, in ascending order, which is the order of their stochastic draws
(log entry 52), writing the result of the n-th into position `dst n`. -/
def reduceRanges (op : RedOp) (p : Pair) (e : VEntry) (d a k : Nat) (l : List (Nat × Nat × Nat)) : LaneRes :=
  let ta := tagOf e.tags a
  let td := match ta with
    | .flt _ => ta
    | _ => tagOf e.tags d
  let (p', fl, out, pois) := l.foldl
    (fun (acc : Pair × Flags × List (Nat × Nat) × List Nat) rng =>
      let (p', fl, out, pois) := acc
      let (dst, lo, hi) := rng
      let ((p', fl), x) := treeReduce op ta e.rm (hi + 1 - lo) (p', fl) (leaves op p ta a k lo hi)
      match x with
      | some x => (p', fl, (dst, nodeCode ta td x) :: out, if x.pois then dst :: pois else pois)
      | none => (p', fl, out, pois)) (p, 0, [], [])
  { p := markKp (putCodes p' td d out.reverse) pois.reverse, fl := fl }

/-- VRED (R161, R165): one result for each segment. -/
def laneVred (op : RedOp) (p : Pair) (e : VEntry) (d a k : Nat) (kb : Option Nat) : LaneRes :=
  let st := segStarts kb e.vl
  reduceRanges op p e d a k (st.mapIdx (fun n lo => (n, lo, st.getD (n + 1) e.vl - 1)))

/-- VSCAN (R117, R161): one result for each position. -/
def laneVscan (op : RedOp) (p : Pair) (e : VEntry) (d a k : Nat) (kb : Option Nat) : LaneRes :=
  let st := segStarts kb e.vl
  reduceRanges op p e d a k ((List.range e.vl).map (fun i =>
    (i, ((st.filter (fun x => decide (x ≤ i))).getLast?).getD 0, i)))

/-! ## Sparse (R162-R164) -/

/-- A fibre's slots: an empty or negative length takes one. -/
def slotsOf (x : Int) : Nat := max x.toNat 1

/-- The fibres that fit, in order, with their first positions and lengths (R162). -/
def packFibres (vlmax : Nat) : List Int → Nat → List (Nat × Int)
  | [], _ => []
  | x :: xs, p => if p + slotsOf x ≤ vlmax then (p, x) :: packFibres vlmax xs (p + slotsOf x) else []

/-- VSETVF (R162, R165): packs fibres; writes both masks from 0 to VLMAX − 1, VL and the count. -/
def laneVsetvf (p : Pair) (e : VEntry) (a kb k : Nat) : LaneRes :=
  match firstBit p.kp e.vl with
  | some i => { p := p, trap := some (poisonTrap i) }
  | none =>
    let vlmax := vlmaxOf p
    let lens := (List.range e.vl).map (fun f => elemInt p (tagOf e.tags a) a f)
    let put (b m : Nat) : Pair := setMaskReg (setMaskReg p kb b) k m
    if lens ≠ [] ∧ vlmax < slotsOf (lens.headD 0) then
      { p := put 1 (ones vlmax), res := some 0, vl := some vlmax }
    else
      let fs := packFibres vlmax lens 0
      let t := (fs.map (fun f => slotsOf f.2)).foldl (· + ·) 0
      let b := putBits 0 (fs.map (fun f => (f.1, true)))
      let m := putBits 0 (fs.flatMap (fun f => (List.range f.2.toNat).map (fun i => (f.1 + i, true))))
      { p := put b m, res := some (BitVec.ofNat 64 fs.length), vl := some t }

/-- VISECT (R163, R343). -/
def laneVisect (p : Pair) (e : VEntry) (d a b k : Nat) : LaneRes :=
  let act := (List.range e.vl).filter (maskOn p k)
  let val2 := act.map (fun j => elemInt p (tagOf e.tags b) b j)
  let bits := (List.range e.vl).map (fun i =>
    (i, maskOn p k i && val2.contains (elemInt p (tagOf e.tags a) a i)))
  let p' := setMaskReg p d (putBits (p.k.getD d 0) bits)
  { p := if act.any (kpBit p) then markKp p' act else p' }

/-- VSPLIT (R164, R165, R343): shares of contiguous weight. -/
def laneVsplit (p : Pair) (e : VEntry) (d a k : Nat) : LaneRes :=
  let td := tagOf e.tags d
  let h := e.b.toNat
  let wgt := (List.range e.vl).map (fun f =>
    if maskOn p k f then slotsOf (elemInt p (tagOf e.tags a) a f) else 0)
  let total := wgt.foldl (· + ·) 0
  let act := (List.range e.vl).filter (maskOn p k)
  let share (f : Nat) : Nat := if h = 0 ∨ total = 0 then 0 else (wgt.take f).foldl (· + ·) 0 * h / total
  let p' := putCodes p td d (act.map (fun f => (f, narrowTo td (share f : Nat))))
  { p := if act.any (kpBit p) then markKp p' act else p' }

end Sys2Proof.Machine
end

