-- ==== Sys2Proof/Machine/VIssue.lean ====
section
/-! DEFINITION. The issue of an instruction to the pair's dispatch queue (spec/02_execution.md R43-R46): what the
front end checks, the probe pass (spec/08_order_memory.md R200), bound registers (spec/10_order_instructions.md
R245), checked mode (spec/14_recovery.md R339). -/
namespace Sys2Proof.Machine
open Sys2Proof

/-! ## The probe pass (R200) -/

/-- What a probe pass found: the accesses of the elements below the first failing one, that element's trap, or a failure
that raises nothing (R238), or an integrity violation in a walk. -/
structure Probe where
  plan : List ElemAcc := []
  trap : Option ElemTrap := none
  miss : Option ElemTrap := none
  bad : Bool := false
  deriving DecidableEq, Repr

/-- What is probed: the kind of access, whether it reads and writes for the comparators, its bytes. -/
structure ProbeKind where
  kind : AccKind
  rd : Bool
  wr : Bool
  size : Nat

/-- The checks of one element in their order, then the data breakpoints (R200, R322). -/
def probeOne (s : State) (k : ProbeKind) (i : Nat) (va : Dword) : Probe :=
  let stop (cause sub : Nat) (tval : Dword) : Probe := { trap := some { cause := cause, sub := sub, elem := i, tval := tval } }
  if va.toNat % k.size ≠ 0 then stop causeACCESS 0 va
  else
    match resolveCur s va k.size k.kind with
    | .fault c => stop c 0 va
    | .violation => { bad := true }
    | .ok a =>
      match bpData s.h va.toNat k.size k.rd k.wr with
      | some (n, m) => stop causeHWBP n (BitVec.ofNat 64 m)
      | none => { plan := [{ i := i, key := a.key, gen := a.gen, va := va }] }

/-- Probes elements in rising order up to the first that fails. -/
def probeAll (s : State) (k : ProbeKind) : List (Nat × Dword) → Probe
  | [] => {}
  | (i, va) :: l =>
    match probeOne s k i va with
    | { plan := [a], trap := none, miss := _, bad := false } =>
      let r := probeAll s k l
      { r with plan := a :: r.plan }
    | r => r

/-- The earlier of two traps; of the same element, the first. -/
def firstTrap (a b : Option ElemTrap) : Option ElemTrap :=
  match a, b with
  | some x, some y => if y.elem < x.elem then some y else some x
  | some x, none => some x
  | none, y => y

/-- Container bytes of a tag (R236). -/
def contBytes (t : Tag) : Nat := if tagWidth t ≤ 8 then 1 else 2

/-- An address with a signed byte offset. -/
def vaPlus (a : Dword) (o : Int) : Dword := a + BitVec.ofInt 64 o

/-! ## Reading elements (R205, R237) -/

/-- Whether a read of one of these places is an integrity violation (R204). -/
def violates (s : State) (l : List ElemAcc) : Bool := l.any (fun a => checkSector s a.key a.gen == .violation)

/-- Whether the read of an element's sector is a media error (R204). -/
def mediaAt (s : State) (a : ElemAcc) : Bool := checkSector s a.key a.gen == .media

/-- The one-shot fires at the reads of one access (R351), under its allocation policy. -/
def fireElems (s : State) (hart pol : Nat) (l : List ElemAcc) : State :=
  l.foldl (fun s a => fireShot s (some hart) a.key (allocates s s.p.ctx a.va.toNat (some pol))) s

/-- Reads elements: position, container code, whether drawn from a poisoned sector; a poisoned element's bits are
free (log entry 28). -/
def readElems (s : State) (t : Tag) (l : List ElemAcc) : List (Nat × Nat × Bool) :=
  l.map (fun a =>
    if mediaAt s a then (a.i, freeBelow s (1000 + a.i) (2 ^ tagWidth t), true)
    else (a.i, readNat s a.key (contBytes t) % 2 ^ tagWidth t, false))

/-- Loads elements into a register of the pair in focus under a POL; kp takes the poison of their sectors. -/
def loadElems (s : State) (pol r : Nat) (t : Tag) (l : List ElemAcc) : State :=
  let xs := readElems s t l
  let s := fireElems s s.cur pol l
  { s with p := markKp (putCodes s.p t r (xs.map (fun x => (x.1, x.2.1)))) ((xs.filter (·.2.2)).map (·.1)) }

/-! ## What the front end knows of an instruction -/

/-- The form of an instruction at issue: vector registers read and written, whether it runs only from VSTART 0
(R144), the other checks' verdict, vd's new tag, whether the hart waits for lane data (R45, R46), whether checked
mode covers it (R339), copies of scalar operands; of a memory form the stream, whether its probe reads lane data (an
index, kp), the mask it reads, the probe, whether the whole plan stands beside a fault in a chunk, the positions whose
index is poisoned; the positions of vd it writes. -/
structure VForm where
  srcs : List Nat := []
  dest : Option Nat := none
  kdest : Option Nat := none
  whole : Bool := false
  ok : Bool := true
  dtag : Option Tag := none
  hold : Bool := false
  check : Bool := true
  a : Dword := 0
  b : Dword := 0
  strm : Option Nat := none
  lane : Bool := false
  mask : Option Nat := none
  mem : Option (State → Probe) := none
  window : Bool := false
  skips : Option (State → List Nat) := none
  writes : Option (State → List Nat) := none

/-- The stream of the hart a register is bound to, while its generator is active (R244, R245). -/
def boundTo (h : Hart) (r : Nat) : Option Nat :=
  (List.range 8).find? (fun g => let x := h.g.toList.getD g {}; x.bnd && x.act && x.breg.toNat == r)

/-- The descriptor of a stream. -/
def streamOf (h : Hart) (g : Nat) : Stream := h.g.toList.getD g {}

/-- The read streams an instruction takes a chunk from, each with its register; once however often it is named. -/
def chunksIn (s : State) (f : VForm) : List (Nat × Nat) :=
  f.srcs.eraseDups.filterMap (fun r => (boundTo s.h r).map (fun g => (g, r)))

/-- The write stream an instruction emits a chunk to. -/
def chunksOut (s : State) (f : VForm) : List (Nat × Nat) :=
  f.dest.toList.filterMap (fun r => (boundTo s.h r).map (fun g => (g, r)))

/-- Whether every bound register is named as its stream's direction allows (R245). -/
def bindsOk (s : State) (f : VForm) : Bool :=
  (chunksIn s f).all (fun x => !(streamOf s.h x.1).dir) && (chunksOut s f).all (fun x => (streamOf s.h x.1).dir)

/-- Whether an instruction names a bound register, in either direction (R245). -/
def namesBound (s : State) (f : VForm) : Bool := !(chunksIn s f ++ chunksOut s f).isEmpty

/-- What the front end accepts (R45, R76, R104, R107, R144); an instruction that names a bound register obeys VSTART, also
one that else runs only from VSTART 0, as it resumes there after a fault in its chunk (R245; log entry 38). -/
def formOk (s : State) (f : VForm) : Bool :=
  decide (s.h.vl ≤ vlmaxOf s.p) && f.ok && (f.srcs ++ f.dest.toList).all (regOk s.p)
    && (match f.dest, f.dtag with
        | some d, some t => tagFits s.p d t
        | _, _ => true)
    && (!f.whole || s.h.vstart == 0 || namesBound s f) && bindsOk s f

/-- Whether checked mode takes an eligible instruction, and the hart's new count (R338, R339). -/
def countCheck (eligible : Bool) (s : State) : Bool × State :=
  let c := (ctxOf s s.p.ctx).chkctl.toNat
  if !eligible then (false, s)
  else if bitsOf c 1 0 = 2 then (true, s)
  else if bitsOf c 1 0 = 1 then
    let n := s.h.chkCount + 1
    (n % 2 ^ (bitsOf c 11 8 + 1) == 0, { s with h := { s.h with chkCount := n } })
  else (false, s)

/-- The entry of an instruction. -/
def entryOf (s : State) (i : Instr) (f : VForm) : VEntry :=
  { baseEntry s i with
    a := f.a, b := f.b, strms := f.strm.toList, dest := f.dest, kdest := f.kdest
    dtag := f.dest.map (fun d => f.dtag.getD (tagOf s.p.tags d)) }

/-- vd takes its new tag, also where no element is written (log entry 72), and VSTART becomes 0 (R108, R143). -/
def takeTag (f : VForm) (s : State) : State :=
  let s := { s with h := { s.h with vstart := 0, probeFrom := none } }
  match f.dest, f.dtag with
  | some d, some t => { s with p := { s.p with tags := s.p.tags.set d t } }
  | _, _ => s

/-- The entry goes into the queue; the hart goes on, or stalls until the lane array has decided. -/
def finishIssue (f : VForm) (e : VEntry) (s : State) : State :=
  let (chk, s) := countCheck f.check s
  let id := s.nextId
  let s := takeTag f (pushEntry s { e with checked := chk })
  if f.hold || e.trap.isSome then stall (.vecResult id) s else advance 4 s

/-! ## Chunks of bound registers (R245) -/

/-- The length of a chunk: min(VL, LEN − POS). -/
def chunkLen (vl : Nat) (x : Stream) : Nat := min vl (x.len.toNat - x.pos.toNat)

/-- The address of position i of a chunk; STRD 0 means the container of the register's tag (R243). -/
def chunkVa (x : Stream) (t : Tag) (i : Nat) : Dword :=
  let step : Int := if x.strd = 0 then (contBytes t : Int) else x.strd.toInt
  vaPlus x.addr (((x.pos.toNat + i : Nat) : Int) * step)

/-- The probe of a read chunk: positions VSTART to n − 1. -/
def probeIn (s : State) (x : Nat × Nat) : Probe :=
  let g := streamOf s.h x.1
  let t := tagOf s.p.tags x.2
  probeAll s ⟨.read, true, false, contBytes t⟩
    ((upFrom s.h.vstart (chunkLen s.h.vl g)).map (fun i => (i, chunkVa g t i)))

/-- Loads the part of a read chunk below `lim` into its register; positions from n to VL − 1 become 0. -/
def loadChunk (lim : Nat) (s : State) (x : Nat × Nat × Probe) : State :=
  let (g, r, pr) := x
  let t := tagOf s.p.tags r
  let n := chunkLen s.h.vl (streamOf s.h g)
  let s := loadElems s 0 r t (pr.plan.filter (fun a => decide (a.i < lim)))
  { s with p := putCodes s.p t r ((upFrom n (min s.h.vl lim)).map (fun i => (i, 0))) }

/-- The probe of a write chunk: the positions from `lo` below n that the instruction writes. -/
def probeOut (lo : Nat) (s : State) (ws : List Nat) (x : Nat × Nat) (t : Tag) : Probe :=
  let g := streamOf s.h x.1
  let n := chunkLen s.h.vl g
  probeAll s ⟨.write, false, true, contBytes t⟩
    ((ws.filter (fun i => decide (lo ≤ i) && decide (i < n))).map (fun i => (i, chunkVa g t i)))

/-- The failed translations of a probe pass: walks that met the one-shot are reported, page requests are sent (R195,
R198, R351). -/
def probeMisses (s : State) (l : List ElemTrap) : State :=
  l.foldl (fun s t => walkDone s s.p.ctx (some s.cur) t.cause t.tval.toNat) s

/-- A memory instruction, or one that names a bound register (R45): the probe pass, the read chunks, the entry with its
accesses and the trap that waits for the elements below it.  One that combines positions and reads a chunk runs when it has
all of it, so that its write chunk is always the whole (log entry 38). -/
def issueMem (i : Instr) (f : VForm) (s : State) : State :=
  let ins := (chunksIn s f).map (fun x => (x.1, x.2, probeIn s x))
  let top := s.h.vl
  let filled := ins.foldl (loadChunk top) s
  let main : Probe :=
    match f.mem with
    | some m => m filled
    | none => {}
  let td := f.dest.map (fun d => f.dtag.getD (tagOf s.p.tags d))
  let ws := match f.writes with
    | some w => w filled
    | none => upFrom s.h.vstart s.h.vl
  let lo := if f.whole && (ins.isEmpty || f.window) then s.h.vstart else 0
  let outs := (chunksOut s f).map (fun x => (x.1, x.2, probeOut lo filled ws x (td.getD (.int true 1))))
  let all := ins.map (·.2.2) ++ [main] ++ outs.map (·.2.2)
  if all.any (·.bad) || ins.any (fun x => violates s x.2.2.plan) then failContext s s.p.ctx
  else
    let trap := (all.map (·.trap)).foldl firstTrap none
    let lim := match trap with
      | some t => t.elem
      | none => top
    let below (l : List ElemAcc) : List ElemAcc := if trap.isSome then l.filter (fun a => decide (a.i < lim)) else l
    let n (g : Nat) : Nat := chunkLen top (streamOf s.h g)
    let s1 := ins.foldl (loadChunk lim) s
    let s2 := probeMisses s1 (trap.toList ++ all.filterMap (·.miss))
    finishIssue f
      { entryOf s i f with
        trap := trap, plan := if f.window then main.plan else below main.plan
        skip := ((f.skips.map (· filled)).getD []).filter (fun i => decide (i < lim))
        strms := f.strm.toList ++ outs.map (·.1)
        binds := ins.map (fun x => { g := x.1, reg := x.2.1, out := false, n := n x.1, plan := [] })
          ++ outs.map (fun x => { g := x.1, reg := x.2.1, out := true, n := n x.1, plan := below x.2.2.plan }) } s2

/-- What a probe pass reads of the lane array: a mask alone, or (none) an index, kp, a bound register. -/
def probeReads (s : State) (f : VForm) : Option (Option Nat) :=
  if f.lane || namesBound s f then some none else f.mask.map some

/-- The issue of a vector-class instruction: ILL on a Referee or hub core (R15), the stall of a pending change
(R107), the checks, the queue (R44). -/
def vIssue (i : Instr) (f : VForm) (s : State) : Out :=
  legalOr i s <|
  if !onUser s then .next (illTrap i s)
  else if s.p.chg.isSome then .next (stall .otherChange s)
  else if !formOk s f then .next (illTrap i s)
  else if f.mem.isNone && !namesBound s f then
    .next (if 32 ≤ s.p.dq.length then stall .queueFull s else finishIssue f (entryOf s i f) s)
  else if ((probeReads s f).map (probeBlocked s (probeFrom s))).getD false then
    .next (stall (.probe (probeFrom s) ((probeReads s f).getD none)) { s with h := { s.h with probeFrom := some (probeFrom s) } })
  else if 32 ≤ s.p.dq.length then .next (stall .queueFull s)
  else
    match (chunksIn s f).find? (fun x => chunkBusy s x.1) with
    | some x => .next (stall (.chunk x.1) s)
    | none => .next (issueMem i f s)

end Sys2Proof.Machine
end

