-- ==== Sys2Proof/Machine/VExec.lean ====
section
/-! DEFINITION. Vector arithmetic, mask, movement, reduce, scan and sparse instructions at issue
(spec/06_results_vector.md R149-R165; spec/04_results_formats.md R108): their registers, tag rules and operands.
What the lane array does with them stands in VArith.lean and VMove.lean. -/
namespace Sys2Proof.Machine
open Sys2Proof

/-- The vector registers of a second source. -/
def srcRegs : Src → List Nat
  | .vec r => [r]
  | .sca => []
  | .none => []

/-- Element-wise arithmetic at issue (R108, R149). -/
def arithForm (op : AOp) (d a : Nat) (src : Src) (k : Nat) (b : Dword) (s : State) : VForm :=
  let ts := (a :: srcRegs src).map (tagOf s.p.tags)
  let t := arithTag op ts (tagOf s.p.tags d)
  { srcs := (a :: srcRegs src) ++ (if readsDest op then [d] else []), dest := some d, ok := t.isSome, dtag := t,
    b := b, writes := some (fun s => (upFrom s.h.vstart s.h.vl).filter (fun i => op == .sel || maskOn s.p k i)) }

/-- A compare at issue: its destination is a mask (R108, R153). -/
def cmpForm (c : Cmp) (d a : Nat) (src : Src) (b : Dword) (s : State) : VForm :=
  let ts := (a :: srcRegs src).map (tagOf s.p.tags)
  { srcs := a :: srcRegs src, kdest := some d, ok := (arithTag (.cmp c) ts (.int true 1)).isSome, b := b }

/-- A binary arithmetic instruction. -/
def binArith (i : Instr) (op : AOp) (d a b : BitVec 5) (k : BitVec 3) (x : BitVec 1) (s : State) : Out :=
  vIssue i (arithForm op d.toNat a.toNat (srcOf b x) k.toNat (xr s b) s) s

/-- A unary arithmetic instruction. -/
def unArith (i : Instr) (op : AOp) (d a : BitVec 5) (k : BitVec 3) (s : State) : Out :=
  vIssue i (arithForm op d.toNat a.toNat .none k.toNat 0 s) s

/-- A compare. -/
def cmpArith (i : Instr) (c : Cmp) (d : BitVec 3) (a b : BitVec 5) (x : BitVec 1) (s : State) : Out :=
  vIssue i (cmpForm c d.toNat a.toNat (srcOf b x) (xr s b) s) s

/-- VADD (R150). -/
def execVadd (d a b : BitVec 5) (k : BitVec 3) (x : BitVec 1) (s : State) : Out :=
  binArith (.vadd d a b k x) .add d a b k x s
/-- VSUB (R150). -/
def execVsub (d a b : BitVec 5) (k : BitVec 3) (x : BitVec 1) (s : State) : Out :=
  binArith (.vsub d a b k x) .sub d a b k x s
/-- VRSUB (R150). -/
def execVrsub (d a b : BitVec 5) (k : BitVec 3) (x : BitVec 1) (s : State) : Out :=
  binArith (.vrsub d a b k x) .rsub d a b k x s
/-- VMUL (R150). -/
def execVmul (d a b : BitVec 5) (k : BitVec 3) (x : BitVec 1) (s : State) : Out :=
  binArith (.vmul d a b k x) .mul d a b k x s
/-- VMULH (R150). -/
def execVmulh (d a b : BitVec 5) (k : BitVec 3) (x : BitVec 1) (s : State) : Out :=
  binArith (.vmulh d a b k x) .mulh d a b k x s
/-- VMA (R150). -/
def execVma (d a b : BitVec 5) (k : BitVec 3) (x : BitVec 1) (s : State) : Out :=
  binArith (.vma d a b k x) .ma d a b k x s
/-- VMS (R150). -/
def execVms (d a b : BitVec 5) (k : BitVec 3) (x : BitVec 1) (s : State) : Out :=
  binArith (.vms d a b k x) .ms d a b k x s
/-- VMIN (R150). -/
def execVmin (d a b : BitVec 5) (k : BitVec 3) (x : BitVec 1) (s : State) : Out :=
  binArith (.vmin d a b k x) .min d a b k x s
/-- VMAX (R150). -/
def execVmax (d a b : BitVec 5) (k : BitVec 3) (x : BitVec 1) (s : State) : Out :=
  binArith (.vmax d a b k x) .max d a b k x s
/-- VAND (R152). -/
def execVand (d a b : BitVec 5) (k : BitVec 3) (x : BitVec 1) (s : State) : Out :=
  binArith (.vand d a b k x) .and d a b k x s
/-- VOR (R152). -/
def execVor (d a b : BitVec 5) (k : BitVec 3) (x : BitVec 1) (s : State) : Out :=
  binArith (.vor d a b k x) .or d a b k x s
/-- VXOR (R152). -/
def execVxor (d a b : BitVec 5) (k : BitVec 3) (x : BitVec 1) (s : State) : Out :=
  binArith (.vxor d a b k x) .xor d a b k x s
/-- VSLL (R151). -/
def execVsll (d a b : BitVec 5) (k : BitVec 3) (x : BitVec 1) (s : State) : Out :=
  binArith (.vsll d a b k x) .sll d a b k x s
/-- VSRL (R151). -/
def execVsrl (d a b : BitVec 5) (k : BitVec 3) (x : BitVec 1) (s : State) : Out :=
  binArith (.vsrl d a b k x) .srl d a b k x s
/-- VSRA (R151). -/
def execVsra (d a b : BitVec 5) (k : BitVec 3) (x : BitVec 1) (s : State) : Out :=
  binArith (.vsra d a b k x) .sra d a b k x s
/-- VCLIP (R151). -/
def execVclip (d a b : BitVec 5) (k : BitVec 3) (x : BitVec 1) (s : State) : Out :=
  binArith (.vclip d a b k x) .clip d a b k x s
/-- VSEL (R152). -/
def execVsel (d a b : BitVec 5) (k : BitVec 3) (x : BitVec 1) (s : State) : Out :=
  binArith (.vsel d a b k x) .sel d a b k x s
/-- VDIV (R153). -/
def execVdiv (d a b : BitVec 5) (k : BitVec 3) (x : BitVec 1) (s : State) : Out :=
  binArith (.vdiv d a b k x) .div d a b k x s
/-- VADD.SAT (R150). -/
def execVaddSat (d a b : BitVec 5) (k : BitVec 3) (x : BitVec 1) (s : State) : Out :=
  binArith (.vaddSat d a b k x) .addSat d a b k x s
/-- VSUB.SAT (R150). -/
def execVsubSat (d a b : BitVec 5) (k : BitVec 3) (x : BitVec 1) (s : State) : Out :=
  binArith (.vsubSat d a b k x) .subSat d a b k x s
/-- VRSUB.SAT (R150). -/
def execVrsubSat (d a b : BitVec 5) (k : BitVec 3) (x : BitVec 1) (s : State) : Out :=
  binArith (.vrsubSat d a b k x) .rsubSat d a b k x s
/-- VABS (R150). -/
def execVabs (d a : BitVec 5) (k : BitVec 3) (s : State) : Out := unArith (.vabs d a k) .abs d a k s
/-- VNEG (R150). -/
def execVneg (d a : BitVec 5) (k : BitVec 3) (s : State) : Out := unArith (.vneg d a k) .neg d a k s
/-- VNOT (R152). -/
def execVnot (d a : BitVec 5) (k : BitVec 3) (s : State) : Out := unArith (.vnot d a k) .not d a k s
/-- VCVT (R156). -/
def execVcvt (d a : BitVec 5) (k : BitVec 3) (s : State) : Out := unArith (.vcvt d a k) .cvt d a k s
/-- VCVT.SAT (R156). -/
def execVcvtSat (d a : BitVec 5) (k : BitVec 3) (s : State) : Out := unArith (.vcvtSat d a k) .cvtSat d a k s
/-- VRCP (R155). -/
def execVrcp (d a : BitVec 5) (k : BitVec 3) (s : State) : Out := unArith (.vrcp d a k) (.sp .rcp) d a k s
/-- VRSQ (R155). -/
def execVrsq (d a : BitVec 5) (k : BitVec 3) (s : State) : Out := unArith (.vrsq d a k) (.sp .rsq) d a k s
/-- VSQRT (R154). -/
def execVsqrt (d a : BitVec 5) (k : BitVec 3) (s : State) : Out := unArith (.vsqrt d a k) (.sp .sqrt) d a k s
/-- VEXP2 (R155). -/
def execVexp2 (d a : BitVec 5) (k : BitVec 3) (s : State) : Out := unArith (.vexp2 d a k) (.sp .exp2) d a k s
/-- VLOG2 (R155). -/
def execVlog2 (d a : BitVec 5) (k : BitVec 3) (s : State) : Out := unArith (.vlog2 d a k) (.sp .log2) d a k s
/-- VSIN (R154). -/
def execVsin (d a : BitVec 5) (k : BitVec 3) (s : State) : Out := unArith (.vsin d a k) (.sp .sin) d a k s
/-- VCOS (R154). -/
def execVcos (d a : BitVec 5) (k : BitVec 3) (s : State) : Out := unArith (.vcos d a k) (.sp .cos) d a k s
/-- VCMP.EQ (R153). -/
def execVcmpEq (d : BitVec 3) (a b : BitVec 5) (k : BitVec 3) (x : BitVec 1) (s : State) : Out :=
  cmpArith (.vcmpEq d a b k x) .eq d a b x s
/-- VCMP.NE (R153). -/
def execVcmpNe (d : BitVec 3) (a b : BitVec 5) (k : BitVec 3) (x : BitVec 1) (s : State) : Out :=
  cmpArith (.vcmpNe d a b k x) .ne d a b x s
/-- VCMP.LT (R153). -/
def execVcmpLt (d : BitVec 3) (a b : BitVec 5) (k : BitVec 3) (x : BitVec 1) (s : State) : Out :=
  cmpArith (.vcmpLt d a b k x) .lt d a b x s
/-- VCMP.LE (R153). -/
def execVcmpLe (d : BitVec 3) (a b : BitVec 5) (k : BitVec 3) (x : BitVec 1) (s : State) : Out :=
  cmpArith (.vcmpLe d a b k x) .le d a b x s
/-- VCMP.GT (R153). -/
def execVcmpGt (d : BitVec 3) (a b : BitVec 5) (k : BitVec 3) (x : BitVec 1) (s : State) : Out :=
  cmpArith (.vcmpGt d a b k x) .gt d a b x s
/-- VCMP.GE (R153). -/
def execVcmpGe (d : BitVec 3) (a b : BitVec 5) (k : BitVec 3) (x : BitVec 1) (s : State) : Out :=
  cmpArith (.vcmpGe d a b k x) .ge d a b x s

/-! ## Masks (R157) -/

/-- KAND (R157). -/
def execKand (d a b : BitVec 4) (s : State) : Out := vIssue (.kand d a b) { kdest := some d.toNat } s
/-- KOR (R157). -/
def execKor (d a b : BitVec 4) (s : State) : Out := vIssue (.kor d a b) { kdest := some d.toNat } s
/-- KXOR (R157). -/
def execKxor (d a b : BitVec 4) (s : State) : Out := vIssue (.kxor d a b) { kdest := some d.toNat } s
/-- KANDN (R157). -/
def execKandn (d a b : BitVec 4) (s : State) : Out := vIssue (.kandn d a b) { kdest := some d.toNat } s
/-- KNOT (R157). -/
def execKnot (d a : BitVec 4) (s : State) : Out := vIssue (.knot d a) { kdest := some d.toNat } s
/-- KMOV (R157). -/
def execKmov (d a : BitVec 4) (s : State) : Out := vIssue (.kmov d a) { kdest := some d.toNat } s
/-- KPOPC (R157): the hart goes on when its scalar result is there. -/
def execKpopc (d : BitVec 5) (a : BitVec 4) (s : State) : Out :=
  vIssue (.kpopc d a) { whole := true, hold := true } s
/-- KFIRST (R157). -/
def execKfirst (d : BitVec 5) (a : BitVec 4) (s : State) : Out :=
  vIssue (.kfirst d a) { whole := true, hold := true } s

/-! ## Movement (R158-R160) -/

/-- A movement of vs1 into vd, which takes vs1's tag; the tag may not be MX (R108, R159). -/
def moveForm (d a : Nat) (b : Dword) (s : State) : VForm :=
  let t := tagOf s.p.tags a
  { srcs := [a], dest := some d, whole := true, ok := tagNotMx t, dtag := some t, b := b }

/-- The positions below VL a mask selects. -/
def selected (s : State) (k : Nat) : List Nat := (List.range s.h.vl).filter (s.p.k.getD k 0).testBit

/-- The active positions of the hart in focus (R143). -/
def activeNow (s : State) (k : Nat) : List Nat := (upFrom s.h.vstart s.h.vl).filter (maskOn s.p k)

/-- VMOV (R158): any tag; vd takes vs1's. -/
def execVmov (d a : BitVec 5) (k : BitVec 3) (s : State) : Out :=
  vIssue (.vmov d a k)
    { srcs := [a.toNat], dest := some d.toNat, dtag := some (tagOf s.p.tags a.toNat),
      writes := some (activeNow · k.toNat) } s
/-- VBCAST (R158). -/
def execVbcast (d b : BitVec 5) (k : BitVec 3) (s : State) : Out :=
  vIssue (.vbcast d b k)
    { dest := some d.toNat, ok := tagNotMx (tagOf s.p.tags d.toNat), b := xr s b, writes := some (activeNow · k.toNat) } s
/-- VEXT (R158): the hart goes on when its scalar result, or its POISON trap, is there. -/
def execVext (d a b : BitVec 5) (s : State) : Out :=
  vIssue (.vext d a b) { srcs := [a.toNat], ok := tagNotMx (tagOf s.p.tags a.toNat), hold := true, b := xr s b } s
/-- VINS (R158). -/
def execVins (d a b : BitVec 5) (s : State) : Out :=
  vIssue (.vins d a b)
    { dest := some d.toNat, ok := tagNotMx (tagOf s.p.tags d.toNat), a := xr s a, b := xr s b,
      writes := some (fun _ => [(xr s b).toNat]) } s
/-- VSLUP (R159). -/
def execVslup (d a b : BitVec 5) (k : BitVec 3) (s : State) : Out :=
  vIssue (.vslup d a b k)
    { moveForm d.toNat a.toNat (xr s b) s with
      writes := some (fun s => (activeNow s k.toNat).filter (fun i => decide ((xr s b).toNat ≤ i))) } s
/-- VSLDN (R159). -/
def execVsldn (d a b : BitVec 5) (k : BitVec 3) (s : State) : Out :=
  vIssue (.vsldn d a b k) { moveForm d.toNat a.toNat (xr s b) s with writes := some (activeNow · k.toNat) } s
/-- VPERM (R159): its indices are INT. -/
def execVperm (d a b : BitVec 5) (k : BitVec 3) (s : State) : Out :=
  let f := moveForm d.toNat a.toNat 0 s
  vIssue (.vperm d a b k)
    { f with srcs := [a.toNat, b.toNat], ok := f.ok && tagIsInt (tagOf s.p.tags b.toNat),
             writes := some (activeNow · k.toNat) } s
/-- VPAIR (R159). -/
def execVpair (d a : BitVec 5) (k : BitVec 3) (s : State) : Out :=
  vIssue (.vpair d a k) { moveForm d.toNat a.toNat 0 s with writes := some (activeNow · k.toNat) } s
/-- VCMPRS (R160). -/
def execVcmprs (d a : BitVec 5) (k : BitVec 3) (s : State) : Out :=
  vIssue (.vcmprs d a k)
    { moveForm d.toNat a.toNat 0 s with writes := some (fun s => List.range (selected s k.toNat).length) } s
/-- VEXPND (R160). -/
def execVexpnd (d a : BitVec 5) (k : BitVec 3) (s : State) : Out :=
  vIssue (.vexpnd d a k) { moveForm d.toNat a.toNat 0 s with writes := some (selected · k.toNat) } s
/-- VIOTA (R160): vd is INT. -/
def execViota (d : BitVec 5) (k : BitVec 3) (s : State) : Out :=
  vIssue (.viota d k)
    { dest := some d.toNat, whole := true, ok := tagIsInt (tagOf s.p.tags d.toNat),
      writes := some (fun s => List.range s.h.vl) } s

/-! ## Reduce and scan (R161) -/

/-- VRED and VSCAN at issue (R108): INT into a kept INT tag, or for add, min and max FLT into vs1's tag. -/
def redForm (o : BitVec 3) (d a : Nat) (s : State) : VForm :=
  let ta := tagOf s.p.tags a
  let td := tagOf s.p.tags d
  { srcs := [a], dest := some d, whole := true,
    ok := (tagIsInt ta && tagIsInt td) || (tagIsFlt ta && decide (o.toNat ≤ 2)),
    dtag := some (if tagIsFlt ta then ta else td) }

/-- Segment starts of the hart's strip (R161). -/
def segsNow (s : State) (kb : Option Nat) : List Nat := segStarts (kb.map (fun b => s.p.k.getD b 0)) s.h.vl

/-- VRED (R161). -/
def execVred (d a : BitVec 5) (k o : BitVec 3) (s : State) : Out :=
  vIssue (.vred d a k o)
    { redForm o d.toNat a.toNat s with writes := some (fun s => List.range (segsNow s none).length) } s
/-- VRED, segmented (R161). -/
def execVredSeg (d a : BitVec 5) (b k o : BitVec 3) (s : State) : Out :=
  vIssue (.vredSeg d a b k o)
    { redForm o d.toNat a.toNat s with writes := some (fun s => List.range (segsNow s (some b.toNat)).length) } s
/-- VSCAN (R161). -/
def execVscan (d a : BitVec 5) (k o : BitVec 3) (s : State) : Out :=
  vIssue (.vscan d a k o) { redForm o d.toNat a.toNat s with writes := some (fun s => List.range s.h.vl) } s
/-- VSCAN, segmented (R161). -/
def execVscanSeg (d a : BitVec 5) (b k o : BitVec 3) (s : State) : Out :=
  vIssue (.vscanSeg d a b k o) { redForm o d.toNat a.toNat s with writes := some (fun s => List.range s.h.vl) } s

/-! ## Sparse (R162-R164) -/

/-- VSETVF (R162): the hart goes on when VL and the count are there. -/
def execVsetvf (d a : BitVec 5) (b k : BitVec 3) (s : State) : Out :=
  vIssue (.vsetvf d a b k)
    { srcs := [a.toNat], whole := true, hold := true, ok := tagIsInt (tagOf s.p.tags a.toNat) } s
/-- VISECT (R163). -/
def execVisect (d : BitVec 3) (a b : BitVec 5) (k : BitVec 3) (s : State) : Out :=
  vIssue (.visect d a b k)
    { srcs := [a.toNat, b.toNat], kdest := some d.toNat, whole := true,
      ok := tagIsInt (tagOf s.p.tags a.toNat) && tagIsInt (tagOf s.p.tags b.toNat) } s
/-- VSPLIT (R164). -/
def execVsplit (d a b : BitVec 5) (k : BitVec 3) (s : State) : Out :=
  vIssue (.vsplit d a b k)
    { srcs := [a.toNat], dest := some d.toNat, whole := true, b := xr s b,
      ok := tagIsInt (tagOf s.p.tags a.toNat) && tagIsInt (tagOf s.p.tags d.toNat),
      writes := some (activeNow · k.toNat) } s

/-! ## Configuration (R140-R142, R240, R244) -/

/-- Whether a pre-emption request of the item of the hart in focus is pending (R285). -/
def preemptPending (s : State) : Bool :=
  match s.p.item with
  | some (t, i) => ((((getLaunch s t).bind (getItem · i)).map (·.preq.isSome)).getD false)
  | none => false

/-- The pre-emption trap (R141, R285, R321): TPC takes the PC; hardware takes it, no handler runs, and nothing else is
written (log entry 45); the hart stops at its instruction. -/
def takePreempt (s : State) : State := { s with h := { s.h with issue := .halted, tpc := s.h.pc } }

/-- SETVL (R141): VL becomes the lesser of the request and VLMAX, VSTART 0; a pre-emption point (R97). -/
def execSetvl (d a : BitVec 5) (s : State) : Out :=
  if !onUser s then .next (illTrap (.setvl d a) s)
  else if preemptPending s then .next (takePreempt s)
  else
    let n := min (xr s a).toNat (vlmaxOf s.p)
    .next (resultX 4 d (BitVec.ofNat 64 n) { s with h := { s.h with vl := n, vstart := 0 } })

/-- The group counts a VGROUPS value asks for (R28, R140). -/
def groupCounts (v : Nat) : List Nat := (List.range 4).map (fun g => bitsOf v (8 * g + 7) (8 * g + 4))
/-- The group widths a VGROUPS value asks for. -/
def groupWidths (v : Nat) : List Nat := (List.range 4).map (fun g => bitsOf v (8 * g + 3) (8 * g) + 1)

/-- Begins a change of VTYPE, window or seed: the hart stalls until its point (R107). -/
def startChange (c : Change) (s : State) : State := stall .change { s with p := { s.p with chg := some c } }

/-- SETVT (R140). -/
def execSetvt (d a : BitVec 5) (m : BitVec 3) (s : State) : Out :=
  legalOr (.setvt d a m) s <|
  if !onUser s then .next (illTrap (.setvt d a m) s)
  else if s.p.chg.isSome then .next (stall .otherChange s)
  else
    let v := (xr s a).toNat % 2 ^ 32
    if (groupCounts v).any (fun c => decide (8 < c)) then .next (illTrap (.setvt d a m) s)
    else .next (startChange (.setvt (roleOfCur s) v (rmOfCode m.toNat) d.toNat) s)

/-- Planes of a tile tag, and its columns per macro (R167). -/
def colsOf (t : Tag) : Nat := 256 / tagPlanes t

/-- Macros of a pair (R167). -/
def macrosOf (p : Pair) : Nat := 32 / p.pairs

/-- The tile tag of a code (R167). -/
def tileTag (c : Nat) : Option Tag := (tagOfCode c).filter tagIsTile

/-- The grants of SETTL (R169). -/
def tileGrant (p : Pair) (t : Tag) (m n k : Nat) : Nat × Nat × Nat :=
  if m = 0 ∨ n = 0 ∨ k = 0 ∨ p.accrows = 0 then (0, 0, 0)
  else
    let gk := min k (256 * macrosOf p)
    let kg := ceilDiv gk 256
    (min m p.accrows, min n (macrosOf p / kg * colsOf t), gk)

/-- SETTL (R169): reads three registers, writes three; a pre-emption point (R97). -/
def execSettl (d a : BitVec 5) (s : State) : Out :=
  legalOr (.settl d a) s <|
  if !onUser s then .next (illTrap (.settl d a) s)
  else if preemptPending s then .next (takePreempt s)
  else
    let y := xr s (a + 1)
    match tileTag (field y 37 32) with
    | none => .next (illTrap (.settl d a) s)
    | some t =>
      let (gm, gn, gk) := tileGrant s.p t (xr s a).toNat (field y 31 0) (field (xr s (a + 2)) 31 0)
      let h := writeX (writeX s.h (d + 1) (BitVec.ofNat 64 gn)) (d + 2) (BitVec.ofNat 64 gk)
      .next (resultX 4 d (BitVec.ofNat 64 gm) { s with h := h })

/-- VTAG (R142): the register is reread under a tag its group can store (R104).  The front end holds the tags, so the
entry it puts in the queue (R44) has nothing left to do; it names no bound register (R245; log entry 54). -/
def execVtag (d : BitVec 5) (t : BitVec 6) (s : State) : Out :=
  legalOr (.vtag d t) s <|
  if !onUser s then .next (illTrap (.vtag d t) s)
  else if s.p.chg.isSome then .next (stall .otherChange s)
  else
    match tagOfCode t.toNat with
    | none => .next (illTrap (.vtag d t) s)
    | some tag =>
      if !(regOk s.p d.toNat && tagFits s.p d.toNat tag && decide (s.h.vl ≤ vlmaxOf s.p)) then
        .next (illTrap (.vtag d t) s)
      else if 32 ≤ s.p.dq.length then .next (stall .queueFull s)
      else
        let s := { s with p := { s.p with tags := s.p.tags.set d.toNat tag }, h := { s.h with vstart := 0 } }
        .next (advance 4 (pushEntry s (baseEntry s (.vtag d t))))

/-- ACCWIN (R240); VL above VLMAX does not stop it (R107; log entry 46). -/
def execAccwin (d a : BitVec 5) (s : State) : Out :=
  if !onUser s then .next (illTrap (.accwin d a) s)
  else if s.p.chg.isSome then .next (stall .otherChange s)
  else
    let v := xr s a
    let bits := field v 11 0
    let wop := field v 14 13
    if 2048 < bits ∨ bits % 32 ≠ 0 ∨ wop = 3 then .next (illTrap (.accwin d a) s)
    else .next (startChange (.accwin (roleOfCur s) bits (v.getLsbD 12) wop d.toNat) s)

/-- Clears the bindings of a register in the streams of a hart (R244). -/
def unbindReg (h : Hart) (r : BitVec 5) : Hart :=
  { h with g := h.g.map (fun x => if x.bnd && x.breg == r then { x with bnd := false } else x) }

/-- VBIND (R244): like a vector-class instruction it waits for a pending change and is ILL on a core of M, but VL above
VLMAX does not stop it (R107; log entry 46).  ILL unless the stream's generator is active; a new binding replaces any
earlier one. -/
def execVbind (d : BitVec 5) (g : BitVec 3) (s : State) : Out :=
  if !onUser s then .next (illTrap (.vbind d g) s)
  else if s.p.chg.isSome then .next (stall .otherChange s)
  else if !(streamOf s.h g.toNat).act || !regOk s.p d.toNat then .next (illTrap (.vbind d g) s)
  else
    let h := unbindReg s.h d
    let x := streamOf h g.toNat
    .next (advance 4 { s with h := { h with g := h.g.set g.toNat { x with breg := d, bnd := true } } })

/-- VUNBIND (R244). -/
def execVunbind (d : BitVec 5) (s : State) : Out :=
  if !onUser s then .next (illTrap (.vunbind d) s)
  else if s.p.chg.isSome then .next (stall .otherChange s)
  else if !regOk s.p d.toNat then .next (illTrap (.vunbind d) s)
  else .next (advance 4 { s with h := unbindReg s.h d })

end Sys2Proof.Machine
end

