-- ==== Sys2Proof/Machine/VMem.lean ====
section
/-! DEFINITION. Vector memory instructions and the accumulation window (spec/10_order_instructions.md R236-R242;
spec/14_recovery.md R343): their issue with its probe pass, and what they do when the queue reaches them. -/
namespace Sys2Proof.Machine
open Sys2Proof

/-! ## Issue -/

/-- Whether the hart in focus is an access hart: it alone gathers and scatters (R43). -/
def isAccess (s : State) : Bool := roleOfCur s == 0

/-- A load or store at issue: the data register, the address of each element, the positions probed. -/
def memForm (s : State) (load : Bool) (d : Nat) (g k : Nat) (skip : Bool) (va : State → Nat → Dword) : VForm :=
  let cb := contBytes (tagOf s.p.tags d)
  let pos (s : State) : List Nat := (activeNow s k).filter (fun i => !(skip && kpBit s.p i))
  { srcs := if load then [] else [d], dest := if load then some d else none, check := false, strm := some g,
    lane := skip, mask := if k = 0 then none else some k,
    skips := if skip then some (fun s => (activeNow s k).filter (kpBit s.p)) else none,
    mem := some (fun s =>
      probeAll s (if load then ⟨.read, true, false, cb⟩ else ⟨.write, false, true, cb⟩)
        ((pos s).map (fun i => (i, va s i)))),
    writes := some (activeNow · k) }

/-- The address of an element by its index (R236). -/
def indexVa (a : Dword) (d b : Nat) (s : State) (i : Nat) : Dword :=
  vaPlus a (elemInt s.p (tagOf s.p.tags b) b i * (contBytes (tagOf s.p.tags d) : Int))

/-- The address of an element at a stride of bytes. -/
def strideVa (a : Dword) (step : Int) (_ : State) (i : Nat) : Dword := vaPlus a ((i : Int) * step)

/-- An indexed form: its indices are INT, its hart the access hart (R43, R108). -/
def indexed (s : State) (b : Nat) (f : VForm) : VForm :=
  { f with srcs := f.srcs ++ [b], ok := isAccess s && tagIsInt (tagOf s.p.tags b) }

/-- VLD (R236). -/
def execVld (d a : BitVec 5) (g : BitVec 3) (p : BitVec 2) (k : BitVec 3) (s : State) : Out :=
  vIssue (.vld d a g p k)
    (memForm s true d.toNat g.toNat k.toNat false
      (strideVa (xr s a) (contBytes (tagOf s.p.tags d.toNat)))) s
/-- VLDS (R236). -/
def execVlds (d a b : BitVec 5) (g : BitVec 3) (p : BitVec 2) (k : BitVec 3) (s : State) : Out :=
  vIssue (.vlds d a b g p k)
    (memForm s true d.toNat g.toNat k.toNat false (strideVa (xr s a) (xr s b).toInt)) s
/-- VLDX (R236): a position with kp set has a poisoned index (R343). -/
def execVldx (d a b : BitVec 5) (g : BitVec 3) (p : BitVec 2) (k : BitVec 3) (s : State) : Out :=
  vIssue (.vldx d a b g p k)
    (indexed s b.toNat (memForm s true d.toNat g.toNat k.toNat true (indexVa (xr s a) d.toNat b.toNat))) s
/-- VST (R236). -/
def execVst (d a : BitVec 5) (g : BitVec 3) (p : BitVec 2) (k : BitVec 3) (s : State) : Out :=
  vIssue (.vst d a g p k)
    (memForm s false d.toNat g.toNat k.toNat false
      (strideVa (xr s a) (contBytes (tagOf s.p.tags d.toNat)))) s
/-- VSTS (R236). -/
def execVsts (d a b : BitVec 5) (g : BitVec 3) (p : BitVec 2) (k : BitVec 3) (s : State) : Out :=
  vIssue (.vsts d a b g p k)
    (memForm s false d.toNat g.toNat k.toNat false (strideVa (xr s a) (xr s b).toInt)) s
/-- VSTX (R236). -/
def execVstx (d a b : BitVec 5) (g : BitVec 3) (p : BitVec 2) (k : BitVec 3) (s : State) : Out :=
  vIssue (.vstx d a b g p k)
    (indexed s b.toNat (memForm s false d.toNat g.toNat k.toNat true (indexVa (xr s a) d.toNat b.toNat))) s

/-- The window of a VLDW (R238): it ends at the first element that fails a check, which raises nothing; a
comparator match traps before any effect, and nothing is then loaded (log entry 31). -/
def windowProbe (s : State) (a : Dword) (cb : Nat) : Probe :=
  let r := probeAll s ⟨.read, true, false, cb⟩ ((List.range s.h.vl).map (fun j => (j, strideVa a cb s j)))
  match r.trap with
  | some t => if t.cause = causeHWBP then { r with plan := [], trap := some { t with elem := 0 } } else { r with trap := none, miss := some t }
  | none => r

/-- Whether VLDW writes vd at a position (R238): its index is poisoned, or lies in a window of `n` elements. -/
def vldwServes (s : State) (b n i : Nat) : Bool :=
  kpBit s.p i ||
    (decide (0 ≤ elemInt s.p (tagOf s.p.tags b) b i) && decide (elemInt s.p (tagOf s.p.tags b) b i < (n : Int)))

/-- VLDW (R238); vw, which vd implies, is no register it names (R245; log entry 54). -/
def execVldw (d a b : BitVec 5) (g : BitVec 3) (p : BitVec 2) (k : BitVec 3) (s : State) : Out :=
  let td := tagOf s.p.tags d.toNat
  let w := d.toNat + 1
  vIssue (.vldw d a b g p k)
    { srcs := [b.toNat], dest := some d.toNat, whole := true, check := false, strm := some g.toNat, lane := true,
      skips := some (fun s => (List.range s.h.vl).filter (kpBit s.p)),
      ok := isAccess s && tagIsInt (tagOf s.p.tags b.toNat) && regOk s.p w && tagOf s.p.tags w == td,
      mem := some (fun s => windowProbe s (xr s a) (contBytes td)), window := true,
      writes := some (fun s => (List.range s.h.vl).filter
        (vldwServes s b.toNat (windowProbe s (xr s a) (contBytes td)).plan.length)) } s

/-- VSCAT (R239): data INT or FLT; every element is read and written at its home. -/
def execVscat (d a b : BitVec 5) (g k : BitVec 3) (o : BitVec 2) (s : State) : Out :=
  let td := tagOf s.p.tags d.toNat
  let f := memForm s false d.toNat g.toNat k.toNat true (indexVa (xr s a) d.toNat b.toNat)
  vIssue (.vscat d a b g k o)
    { f with
      srcs := [d.toNat, b.toNat]
      ok := isAccess s && tagIsInt (tagOf s.p.tags b.toNat) && (tagIsInt td || tagIsFlt td)
      mem := some (fun s => probeAll s ⟨.rmw, true, true, contBytes td⟩
        (((activeNow s k.toNat).filter (fun i => !kpBit s.p i)).map
          (fun i => (i, indexVa (xr s a) d.toNat b.toNat s i)))) } s

/-- Entries per lane of the window (R240). -/
def winEntries (p : Pair) : Nat := p.win / 32

/-- VACC (R241): the hart goes on when the index check is decided. -/
def execVacc (d a : BitVec 5) (o : BitVec 2) (s : State) : Out :=
  let td := tagOf s.p.tags d.toNat
  vIssue (.vacc d a o)
    { srcs := [d.toNat, a.toNat], hold := true,
      ok := decide (0 < winEntries s.p) && tagIsInt (tagOf s.p.tags a.toNat)
        && (if s.p.wf then tagIsFlt td else tagIsInt td) } s

/-- WMERGE (R242): entry e is the element; the hart goes on when its targets' poison is known. -/
def execWmerge (a : BitVec 5) (g : BitVec 3) (p o : BitVec 2) (s : State) : Out :=
  vIssue (.wmerge a g p o)
    { hold := true, check := false, strm := some g.toNat,
      mem := some (fun s => probeAll s ⟨.rmw, true, true, 4⟩
        ((upFrom s.h.vstart (winEntries s.p)).map (fun e => (e, vaPlus (xr s a) (4 * (e : Int)))))) } s

/-! ## Effects -/

/-- What an entry leaves: the state, a scalar result, a trap on what the lane array or a home found. -/
structure Done where
  s : State
  res : Option Dword := none
  trap : Option ElemTrap := none

/-- The first position an entry does not commit: its trap's element, else VL (R200). -/
def entryLim (e : VEntry) : Nat :=
  match e.trap with
  | some t => t.elem
  | none => e.vl

/-- POL of a vector instruction that reads memory (R236, R242). -/
def polOf : Instr → Nat
  | .vld _ _ _ p _ => p.toNat
  | .vlds _ _ _ _ p _ => p.toNat
  | .vldx _ _ _ _ p _ => p.toNat
  | .vldw _ _ _ _ p _ => p.toNat
  | .wmerge _ _ p _ => p.toNat
  | _ => 0

/-- A vector load (R237): the elements of its plan; an element with a poisoned index becomes 0. -/
def runLoad (d : Nat) (e : VEntry) (s : State) : Done :=
  let t := tagOf e.tags d
  if violates s e.plan then { s := failContext s s.p.ctx }
  else
    let s := loadElems s (polOf e.instr) d t e.plan
    { s := { s with p := putCodes s.p t d (e.skip.map (fun i => (i, 0))) } }

/-- The bytes of an element's container: an iN is sign-extended to it, every other tag zero-extended (R236). -/
def contValue (t : Tag) (c : Nat) : Nat :=
  match t with
  | .int true w => lowBits (signExtend c w) (8 * contBytes t)
  | _ => c

/-- A completion that an access outside the package owes, once for each home domain (R212); it stands in program order
where its instruction, number `ord`, stands. -/
def pushAcks (s : State) (ord : Nat) (strm : Option Nat) (reads : Bool) (l : List ElemAcc) : State :=
  ((l.map (fun a => domOf a.key)).filter (· != 0)).eraseDups.foldl (fun s x =>
    pushReq s { id := 0, uid := 0, hart := 0, strm := strm, dom := x, op := .ack reads, size := 0, done := true, ord := ord,
                va := ((l.find? (fun a => domOf a.key == x)).map (·.va)).getD 0
                key := ((l.find? (fun a => domOf a.key == x)).map (·.key)).getD 0 }) s

/-- The bytes of a sector that a list of stores of `cb` bytes writes with clean data. -/
def cleanBytes (cb : Nat) (l : List (ElemAcc × Nat × Bool)) (sec : Nat) : Nat :=
  ((l.filter (fun x => !x.2.2)).flatMap (fun x => (List.range cb).map (x.1.key + ·))
    |>.filter (fun b => sectorOf b == sec)).eraseDups.length

/-- Whether a list of stores replaces a whole sector with clean data (R205). -/
def coversSector (cb : Nat) (l : List (ElemAcc × Nat × Bool)) (sec : Nat) : Bool :=
  cleanBytes cb l sec == 64 && !l.any (fun x => x.2.2 && sectorOf x.1.key == sec)

/-- Whose an element store is: the context, the item, the hart that events of it are attributed to (R345, R349). -/
structure Storer where
  ctx : Nat
  item : Option (Nat × Nat)
  hart : Option Nat

/-- One element store at its home (R192, R205, R237): a poisoned element writes the poison encoding. -/
def storeElem (o : Storer) (cb : Nat) (full : Nat → Bool) (s : State) (x : ElemAcc × Nat × Bool) : State :=
  let (a, v, pois) := x
  let s :=
    if checkSector s a.key a.gen = .media ∧ full (sectorOf a.key) = false then
      setPois (fireFor s (liveCtx s o.ctx) o.hart a.key (some true)) a.key true else s
  let s := stampGen (writeLoc s a.key v cb) a.key a.gen
  if pois then markEscape (setPois s a.key true) o.item
  else if full (sectorOf a.key) then setPois s a.key false else s

/-- Stores of one vector instruction or engine command, in element order (R214), each seen by the waits on
its word (R304); `cov` names those that count towards replacing a sector whole; a partly written sector of another key is
an integrity violation. -/
def storeAll (s : State) (o : Storer) (cb : Nat) (cov l : List (ElemAcc × Nat × Bool)) : State :=
  let full := coversSector cb cov
  if l.any (fun x => !full (sectorOf x.1.key) && checkSector s x.1.key x.1.gen == .violation) then failContext s o.ctx
  else l.foldl (fun s x => observeWord (storeElem o cb full s x) x.1.key) s

/-- The element stores of a vector instruction of the hart in focus. -/
def storeElems (s : State) (ord : Nat) (strm : Option Nat) (cb : Nat) (l : List (ElemAcc × Nat × Bool)) : State :=
  pushAcks (storeAll s { ctx := s.p.ctx, item := s.p.item, hart := some s.cur } cb l l) ord strm false (l.map (·.1))

/-- The stores of register `r` that a plan names. -/
def planStores (p : Pair) (t : Tag) (r : Nat) (l : List ElemAcc) : List (ElemAcc × Nat × Bool) :=
  l.map (fun a => (a, contValue t (elemCode p t r a.i), kpBit p a.i))

/-- A vector store (R237); an indexed one has read kp at issue and stores what it then found clean, and a skipped
poisoned index marks the item (R343). -/
def runStore (d g : Nat) (indexed : Bool) (e : VEntry) (s : State) : Done :=
  let t := tagOf e.tags d
  let l := planStores (if indexed then { s.p with kp := 0 } else s.p) t d e.plan
  let s := storeElems s e.id (some g) (contBytes t) l
  { s := if e.skip.isEmpty then s else noteSkip s s.cur }

/-- The permute phase of VLDW (R238), position by position: `kp0` is kp at issue; a served position takes the window's
value, and kp of the window position as it then stands. -/
def vldwPermute (t : Tag) (d wn : Nat) (idx : Nat → Int) (kp0 : List Nat) (p : Pair) (i : Nat) : Pair :=
  if kp0.contains i then putCodes p t d [(i, 0)]
  else if 0 ≤ idx i ∧ idx i < (wn : Int) then
    let q := putCodes p t d [(i, elemCode p t (d + 1) (idx i).toNat)]
    if kpBit p (idx i).toNat then markKp q [i] else q
  else p

/-- VLDW (R238): the window phase, then the permute phase, below a fault in a chunk (R245; log entry 38). -/
def runVldw (d b k : Nat) (e : VEntry) (s : State) : Done :=
  if violates s e.plan then { s := failContext s s.p.ctx }
  else
    let t := tagOf e.tags d
    let wn := e.plan.length
    let s := loadElems s (polOf e.instr) (d + 1) t e.plan
    let p := s.p
    let idx (i : Nat) : Int := elemInt p (tagOf e.tags b) b i
    let all := upFrom e.vstart (min e.vl (entryLim e))
    let p' := all.foldl (vldwPermute t d wn idx e.skip) p
    let bits := all.map (fun i => (i, !e.skip.contains i && !(decide (0 ≤ idx i) && decide (idx i < (wn : Int)))))
    { s := { s with p := { p' with k := p'.k.set k (putBits (p'.k.getD k 0) bits) } } }

/-- add, min or max of an OP field (R83). -/
def winOp (o : BitVec 2) : RedOp := if o = 0 then .add else if o = 1 then .min else .max

/-- The value an element atomic writes (R239), as a code of the data's tag. -/
def scatCode (op : RedOp) (t : Tag) (mem data : Nat) : Nat :=
  match t with
  | .flt f => (fltStage op f .rne 0 mem data).1
  | t => narrowTo t (intStage op t (ivalOf t mem) (ivalOf t data))

/-- One element atomic at its home, seen by the waits on its word (R304): in a poisoned sector it adds nothing. -/
def scatElem (op : RedOp) (t : Tag) (s : State) (x : ElemAcc × Nat) : State :=
  match checkSector s x.1.key x.1.gen with
  | .violation => failContext s s.p.ctx
  | .media => fireShot s (some s.cur) x.1.key (allocates s s.p.ctx x.1.va.toNat none)
  | .good =>
    let old := readNat s x.1.key (contBytes t) % 2 ^ tagWidth t
    observeWord (stampGen (writeLoc s x.1.key (contValue t (scatCode op t old x.2)) (contBytes t)) x.1.key x.1.gen) x.1.key

/-- An order of arrival: which element comes next is free (R214, log entry 17). -/
def arrivalOrder {α : Type} (s : State) : Nat → List α → List α
  | 0, l => l
  | n + 1, l =>
    let i := freeBelow s (2000 + n) l.length
    match l[i]? with
    | some x => x :: arrivalOrder s n (l.eraseIdx i)
    | none => l

/-- VSCAT (R239). -/
def runVscat (o : BitVec 2) (d g : Nat) (e : VEntry) (s : State) : Done :=
  let t := tagOf e.tags d
  let l := e.plan.map (fun a => (a, elemCode s.p t d a.i))
  let s := (arrivalOrder s l.length l).foldl (scatElem (winOp o) t) s
  let s := pushAcks s e.id (some g) true e.plan
  { s := if e.skip.isEmpty then s else noteSkip s s.cur }

/-- The fill of a window entry (R240). -/
def windowFill (p : Pair) : Word :=
  match p.wf, p.wop with
  | false, 0 => 0
  | false, 1 => 0x7FFFFFFF
  | false, _ => 0x80000000
  | true, 0 => 0x80000000
  | true, 1 => 0x7F800000
  | true, _ => 0xFF800000

/-- The type of a window entry as a tag (R240). -/
def windowTag (p : Pair) : Tag := if p.wf then .flt .f32 else .int true 32

/-- One application to a 32-bit word: i32 wraps, f32 rounds RNE (R241, R242). -/
def wordApply (op : RedOp) (f32 : Bool) (c : Nat) (v : Int) (code : Nat) : Nat × Flags :=
  if f32 then fltStage op .f32 .rne 0 c code
  else (lowBits (intStage op (.int true 32) (signExtend c 32) v) 32, flagNone)

/-- The exact f32 code of an f16 or bf16 value. -/
def toF32 (f : FFmt) (c : Nat) : Nat := (toFloatCode .f32 false .rne 0 (decodeF f c)).1

/-- The value of a VACC element as an f32 code, a signalling NaN kept signalling for the stage that meets it. -/
def vaccCode (t : Tag) (c : Nat) : Nat :=
  match t with
  | .flt f => if isSNaN (decodeF f c) then 0x7F800001 else toF32 f c
  | _ => c

/-- VACC (R241). -/
def runVacc (o : BitVec 2) (d a : Nat) (e : VEntry) (s : State) : Done :=
  let p := s.p
  let nw := winEntries p
  let t := tagOf e.tags d
  let idx (i : Nat) : Int := elemInt p (tagOf e.tags a) a i
  let f := (span e).find? (fun i => !kpBit p i && (decide (idx i < 0) || decide ((nw : Int) ≤ idx i)))
  let done := (span e).filter (fun i => decide (i < f.getD e.vl))
  let (win, fl) := (done.filter (fun i => !kpBit p i)).foldl (fun (acc : SMap Word × Flags) i =>
    let key := i % lanesOf p * nw + (idx i).toNat
    let c := SMap.get (windowFill p) acc.1 key
    let (v, g) := wordApply (winOp o) p.wf c.toNat (elemInt p t d i) (vaccCode t (elemCode p t d i))
    (SMap.set (windowFill p) acc.1 key (BitVec.ofNat 32 v), acc.2 ||| g)) (p.window, 0)
  let s := orFpst fl { s with p := { p with window := win } }
  { s := if done.any (kpBit p) then noteSkip s s.cur else s
    trap := f.map (fun i => { cause := causeACCESS, sub := 0, elem := i, tval := low64 (idx i) }) }

/-- The tree over the lanes' copies of an entry (R242). -/
def windowTree (op : RedOp) (p : Pair) (n : Nat) : Nat × Int × Flags :=
  let nw := winEntries p
  let leaf (j : Nat) : Node :=
    let c := (SMap.get (windowFill p) p.window (j * nw + n)).toNat
    { lo := j, int := signExtend c 32, code := c, act := true, pois := false }
  let ((_, fl), x) := treeReduce op (windowTag p) .rne (lanesOf p) (p, 0) ((List.range (lanesOf p)).map leaf)
  match x with
  | some x => (x.code, x.int, fl)
  | none => (0, 0, fl)

/-- WMERGE from its plan (R242): each word in one step at its home, seen by the waits on it (R304); the first poisoned
target stops it. -/
def runWmerge (op : RedOp) (g pol ord : Nat) : List ElemAcc → State → Done
  | [], s => { s := s }
  | a :: l, s =>
    match checkSector s a.key a.gen with
    | .violation => { s := failContext s s.p.ctx }
    | .media =>
      { s := fireShot s (some s.cur) a.key (allocates s s.p.ctx a.va.toNat (some pol))
        trap := some { cause := causePOISON, sub := 0, elem := a.i, tval := a.va } }
    | .good =>
      let (code, int, fl) := windowTree op s.p a.i
      let old := readNat s a.key 4
      let (v, g') := wordApply op s.p.wf old int code
      let s := observeWord (stampGen (writeLoc s a.key v 4) a.key a.gen) a.key
      let nw := winEntries s.p
      let s := { s with p := { s.p with window := SMap.clearWhere (fun k => k % nw == a.i) s.p.window } }
      runWmerge op g pol ord l (pushAcks (orFpst (fl ||| g') s) ord (some g) true [a])

end Sys2Proof.Machine
end

