-- ==== Sys2Proof/Machine/Matrix.lean ====
section
/-! DEFINITION. The stationary-tile matrix and MX instructions (spec/07_results_matrix.md R166-R184;
spec/04_results_formats.md R118): their checks at issue and their effects. -/
namespace Sys2Proof.Machine
open Sys2Proof

/-! ## Issue -/

/-- What every matrix instruction asks for beside VSTART 0: the execute hart (R166). -/
def matOk (s : State) : Bool := roleOfCur s == 1

/-- Whether an accumulator row is one the pair has (R40). -/
def rowOk (s : State) (r : BitVec 5) : Bool := decide (r.toNat < s.p.accrows)

/-- KT, NT and TAG of a shape operand (R170). -/
def shapeOf (v : Dword) : Nat × Nat × Option Tag := (field v 15 0, field v 31 16, tileTag (field v 37 32))

/-- The tile as the front end knows it (R166): the shape of the latest TLOAD issued. -/
def frontTile (s : State) : Nat × Tag :=
  match (s.p.dq.filter (fun e =>
      match e.instr with
      | .tload _ _ => true
      | _ => false)).getLast? with
  | some e => ((shapeOf e.b).1, (shapeOf e.b).2.2.getD (.int true 1))
  | none => (s.p.tile.kt, s.p.tile.tag)

/-- Whether a shape fits the pair's macros (R167, R170). -/
def shapeOk (p : Pair) (kt nt : Nat) (t : Tag) : Bool :=
  decide (0 < kt) && decide (kt ≤ 256 * macrosOf p) && decide (0 < nt)
    && decide (ceilDiv kt 256 * ceilDiv nt (colsOf t) ≤ macrosOf p)

/-- Code registers and scale registers of a tile (R171). -/
def tileRegs (vl kt nt : Nat) (t : Tag) : Nat × Nat :=
  (ceilDiv (kt * nt) vl, if tagIsMx t then ceilDiv (nt * ceilDiv kt 32) vl else 0)

/-- TLOAD (R170, R171); of the registers it reads only vs1, which it names, counts for a bound register (R245), and one in
the middle of its span beyond its group's count is ILL as one at its end is (R76; log entry 54). -/
def execTload (a b : BitVec 5) (s : State) : Out :=
  let v := xr s b
  let (kt, nt, ot) := shapeOf v
  let t := ot.getD (.int true 1)
  let (rc, rs) := tileRegs s.h.vl kt nt t
  let codes := upFrom a.toNat (min 32 (a.toNat + rc))
  let scales := upFrom (min 32 (a.toNat + rc)) (min 32 (a.toNat + rc + rs))
  let fits := matOk s && ot.isSome && decide (s.h.vl ≠ 0) && shapeOk s.p kt nt t && decide (a.toNat + rc + rs ≤ 32)
  vIssue (.tload a b)
    { srcs := [a.toNat], whole := true, check := false, b := v,
      ok := fits && (codes ++ scales).all (regOk s.p) && codes.all (fun r => tagOf s.p.tags r == t)
        && scales.all (fun r => tagOf s.p.tags r == .int false 8) } s

/-- Whether an activation row suits the tile (R179). -/
def tileTakes (s : State) (a : BitVec 5) (sat : BitVec 1) : Bool :=
  let (kt, t) := frontTile s
  let ta := tagOf s.p.tags a.toNat
  decide (kt ≠ 0) && (if tagIsMx t then tagIsMx ta && sat == 0 else tagIsInt ta)

/-- MMROW (R180). -/
def execMmrow (d a : BitVec 5) (t : BitVec 1) (k : BitVec 3) (s : State) : Out :=
  vIssue (.mmrow d a t k)
    { srcs := [a.toNat], whole := true, check := false, ok := matOk s && rowOk s d && tileTakes s a t } s

/-- MMROWS (R181). -/
def execMmrows (d a : BitVec 5) (m : BitVec 3) (t : BitVec 1) (k : BitVec 3) (s : State) : Out :=
  vIssue (.mmrows d a m t k)
    { srcs := [a.toNat], whole := true, check := false,
      ok := matOk s && rowOk s d && tileTakes s a t && decide (s.h.vl ≤ lanesOf s.p) } s

/-- ACCZ (R176). -/
def execAccz (d : BitVec 5) (k : BitVec 3) (s : State) : Out :=
  vIssue (.accz d k) { whole := true, check := false, ok := matOk s && rowOk s d } s

/-- The accumulator words ACCZ, ACCRD and ACCWR act on: wact of R166. -/
def wactOf (p : Pair) (vl k : Nat) : List Nat := (List.range (min vl (lanesOf p))).filter (maskOn p k)

/-- ACCRD (R178). -/
def execAccrd (d a b : BitVec 5) (k : BitVec 3) (s : State) : Out :=
  let td := tagOf s.p.tags d.toNat
  vIssue (.accrd d a b k)
    { dest := some d.toNat, whole := true, b := xr s b,
      ok := matOk s && rowOk s a && (tagIsInt td || tagIsFlt td),
      writes := some (fun s => wactOf s.p s.h.vl k.toNat) } s

/-- ACCWR (R177). -/
def execAccwr (d a : BitVec 5) (k : BitVec 3) (s : State) : Out :=
  let ta := tagOf s.p.tags a.toNat
  vIssue (.accwr d a k)
    { srcs := [a.toNat], whole := true, ok := matOk s && rowOk s d && (tagIsInt ta || tagIsFlt ta) } s

/-- MXQ (R172). -/
def execMxq (d a : BitVec 5) (s : State) : Out :=
  vIssue (.mxq d a)
    { srcs := [a.toNat], dest := some d.toNat, whole := true,
      ok := matOk s && tagIsFlt (tagOf s.p.tags a.toNat) && tagIsMx (tagOf s.p.tags d.toNat)
        && decide (s.h.vl ≤ lanesOf s.p),
      writes := some (fun s => List.range s.h.vl) } s

/-- MXS (R173). -/
def execMxs (a : BitVec 5) (s : State) : Out :=
  vIssue (.mxs a)
    { srcs := [a.toNat], whole := true,
      ok := matOk s && tagOf s.p.tags a.toNat == .int false 8 && decide (s.h.vl ≤ lanesOf s.p) } s

/-- MXD (R174). -/
def execMxd (d a : BitVec 5) (s : State) : Out :=
  let td := tagOf s.p.tags d.toNat
  vIssue (.mxd d a)
    { srcs := [a.toNat], dest := some d.toNat, whole := true,
      ok := matOk s && tagIsMx (tagOf s.p.tags a.toNat) && (tagIsFlt td || td == .int false 8)
        && decide (s.h.vl ≤ lanesOf s.p),
      writes := some (fun s => List.range (if tagIsFlt td then s.h.vl else ceilDiv s.h.vl 32)) } s

/-! ## Effects -/

/-- TLOAD (R171): the whole tile is replaced. -/
def laneTload (p : Pair) (e : VEntry) (a : Nat) : LaneRes :=
  let (kt, nt, ot) := shapeOf e.b
  let t := ot.getD (.int true 1)
  let nb := ceilDiv kt 32
  let (rc, _) := tileRegs e.vl kt nt t
  let code (tg : Tag) (x : Nat) : Nat := elemCode p tg (a + x / e.vl) (x % e.vl)
  let cells := List.range (kt * nt)
  let blocks := if tagIsMx t then List.range (nt * nb) else []
  let w := cells.foldl (fun m x => SMap.set 0 m x (kview t (code t x))) ([] : SMap Int)
  let sb := blocks.foldl (fun m x => SMap.set 0 m x (code (.int false 8) (rc * e.vl + x) % 256)) ([] : SMap Nat)
  let bad := (cells.filter (fun x => kpBit p (x % e.vl))).map (· / kt)
    ++ (blocks.filter (fun x => kpBit p ((rc * e.vl + x) % e.vl))).map (· / nb)
  let pois := putBits 0 (bad.map (fun n => (n, true)))
  { p := { p with tile := { kt := kt, nt := nt, tag := t, w := w, sb := sb, colpois := pois } } }

/-- Writes words of an accumulator row with their poison bits. -/
def putRow (p : Pair) (r : Nat) (f32 : Bool) (l : List (Nat × Nat × Bool)) : Pair :=
  let row := p.acc.getD r {}
  let w := l.foldl (fun m x => SMap.set 0 m x.1 (BitVec.ofNat 32 x.2.1)) row.w
  let pois := putBits row.pois (l.map (fun x => (x.1, x.2.2)))
  { p with acc := p.acc.set r { f32 := f32, w := w, pois := pois } }

/-- The bits of an accumulator word. -/
def rowWord (p : Pair) (r n : Nat) : Nat := (SMap.get 0 (p.acc.getD r {}).w n).toNat

/-- ACCZ (R176). -/
def laneAccz (p : Pair) (e : VEntry) (d k : Nat) : LaneRes :=
  { p := putRow p d (p.acc.getD d {}).f32 ((wactOf p e.vl k).map (fun n => (n, 0, false))) }

/-- ACCWR (R177). -/
def laneAccwr (p : Pair) (e : VEntry) (d a k : Nat) : LaneRes :=
  let t := tagOf e.tags a
  let word (n : Nat) : Nat × Flags :=
    match t with
    | .flt f => toFloatCode .f32 false .rne 0 (decodeF f (elemCode p t a n))
    | t => (lowBits (ivalOf t (elemCode p t a n)) 32, flagNone)
  let ns := wactOf p e.vl k
  { p := putRow p d (tagIsFlt t) (ns.map (fun n => (n, (word n).1, kpBit p n))),
    fl := (ns.filter (fun n => !kpBit p n)).foldl (fun fl n => fl ||| (word n).2) 0 }

/-! ### Checksums (R184) -/

/-- The weights of macro row k in the tile columns of a macro column group g. -/
def macroWeights (t : Tile) (g k : Nat) : List Int :=
  let c := colsOf t.tag
  (upFrom (g * c) (min ((g + 1) * c) t.nt)).map (fun n => SMap.get 0 t.w (n * t.kt + k))

/-- The checksum column of a macro (R168, R184): for row k the sum of the integer weights of that row over the macro's
tile columns.  It is exact for the tile held, so it is read off the tile, as TLOAD, a save and a restore leave it. -/
def checkCell (t : Tile) (g k : Nat) : Int := (macroWeights t g k).foldl (· + ·) 0

/-- The comparison a macro makes for a block of rows (R184): the sum of the column partials against the broadcast row
dotted with the checksum column. -/
def macroAgrees (t : Tile) (g : Nat) (rows : List Nat) (act : Nat → Int) : Bool :=
  let c := colsOf t.tag
  let cols := upFrom (g * c) (min ((g + 1) * c) t.nt)
  let part (n : Nat) : Int := (rows.map (fun k => act k * SMap.get 0 t.w (n * t.kt + k))).foldl (· + ·) 0
  (cols.map part).foldl (· + ·) 0 == (rows.map (fun k => act k * checkCell t g k)).foldl (· + ·) 0

/-- A value times a power of two (R178). -/
def scaleVal (v : FVal) (t : Int) : FVal :=
  match v with
  | .fin x => .fin (fracMul x (fracPow2 t))
  | v => v

/-- An integer as a float value. -/
def intVal (v : Int) : FVal := if v = 0 then .zero false else .fin (fracInt v)

/-- The poison bits of an accumulator row enter kp at the positions named (R178). -/
def kpFromRow (p : Pair) (r : Nat) (ns : List Nat) : Pair := markKp p (ns.filter ((p.acc.getD r {}).pois.testBit ·))

/-- ACCRD (R178).  A position that its row's poison bit alone poisons raises no flag and draws nothing (log entry 73). -/
def laneAccrd (p : Pair) (e : VEntry) (d a k : Nat) : LaneRes :=
  let td := tagOf e.tags d
  let f32 := (p.acc.getD a {}).f32
  let t := signExtend (field e.b 5 0) 6
  let sati := e.b.getLsbD 6
  let ns := wactOf p e.vl k
  let p := kpFromRow p a ns
  let val (n : Nat) : FVal :=
    scaleVal (if f32 then decodeF .f32 (rowWord p a n) else intVal (signExtend (rowWord p a n) 32)) t
  let half (n : Nat) : Nat :=
    let q := fracFloor (fracAdd (fracMul (fracInt (signExtend (rowWord p a n) 32)) (fracPow2 t)) ⟨1, 2⟩)
    if sati then narrowSat td q else narrowTo td q
  let (p', out, fl) := walkElems p e.rm (tagIsFlt td || f32) ns (fun n m r =>
    match td with
    | .flt f => toFloatCode f false m r (val n)
    | .int sg w => if f32 then toIntCode sg w m r (val n) else (half n, flagNone)
    | .mx _ => (0, flagNone))
  { p := putCodes p' td d out, fl := fl }

/-- esu_fold of R118 on the blocks' partial sums, exponents and whether a scale is 0xFF: an f32 code and flags. -/
def esuFold (l : List (Int × Int × Bool)) : Nat × Flags :=
  if l.any (·.2.2) then (0x7FC00000, flagNone)
  else
    match (l.filter (fun b => b.1 != 0)).map (·.2.1) with
    | [] => (0, flagNone)
    | x :: xs =>
      let emax := xs.foldl max x
      let term (b : Int × Int × Bool) : Frac := fracMul (fracInt b.1) (fracPow2 (b.2.1 - emax + 96))
      let w := (l.map (fun b => fracFloor (term b))).foldl (· + ·) 0
      let sticky := l.any (fun b => !fracIsInt (term b))
      if w = 0 ∧ sticky = false then (0, flagNone)
      else roundInto .f32 false .rne 0 (fracMul (fracInt (2 * w + (if sticky then 1 else 0))) (fracPow2 (emax - 97)))

/-- The planes broadcast for an INT activation row of positions 0 to n − 1, and of an MX-tagged one by its broadcast
occupancy (R182). -/
def rowPlanes (p : Pair) (r n : Nat) : Nat :=
  (List.range (ceilDiv n 256)).foldl (fun m g =>
    m ||| (if tagIsMx (tagOf p.tags r) then bcastOcc p r g else occOf p r g)) 0

/-- One word of an MMROW (R180): its final addition raises the flags of R101, NV included (log entry 53).  `act k` is the
code of activation element k, 0 where a routed row has none. -/
def mmWord (p : Pair) (ta : Tag) (act : Nat → Option Nat) (sat : Bool) (old n : Nat) : Nat × Flags :=
  let t := p.tile
  let view (k : Nat) : Int := (((act k).map (kview ta)).getD 0) * SMap.get 0 t.w (n * t.kt + k)
  let sum (l : List Nat) : Int := (l.map view).foldl (· + ·) 0
  if tagIsMx t.tag then
    let nb := ceilDiv t.kt 32
    let fexp (x : Tag) : Int :=
      match x with
      | .mx m => mxExp m
      | _ => 0
    let block (b : Nat) : Int × Int × Bool :=
      let sa := SMap.get 127 p.scale b
      let sb := SMap.get 0 t.sb (n * nb + b)
      (sum (upFrom (32 * b) (min (32 * b + 32) t.kt)),
       ((sa : Int) - 127) + ((sb : Int) - 127) + fexp ta + fexp t.tag, sa == 255 || sb == 255)
    let (c, f1) := esuFold ((List.range nb).map block)
    let (r, f2) := finish .f32 .rne 0 (addExact .rne (decodeF .f32 old) (decodeF .f32 c))
    (r, f1 ||| f2)
  else
    let v := signExtend old 32 + sum (List.range t.kt)
    (lowBits (if sat then satSigned v 32 else v) 32, flagNone)

/-- MMROW and MMROWS on an activation row (R180): `act` its codes, `bad` whether one of them is poisoned. -/
def laneMm (p : Pair) (ta : Tag) (act : Nat → Option Nat) (bad sat : Bool) (d k : Nat) : LaneRes :=
  let t := p.tile
  let row := p.acc.getD d {}
  let mx := tagIsMx t.tag
  let scaleBad := mx && (List.range (ceilDiv t.kt 32)).any p.scalePois.testBit
  let ns := (List.range t.nt).filter (maskOn p k)
  let pois (n : Nat) : Bool := row.pois.testBit n || t.colpois.testBit n || bad || scaleBad
  let out := ns.map (fun n => (n, mmWord p ta act sat (rowWord p d n) n))
  { p := putRow p d mx (out.map (fun x => (x.1, x.2.1, pois x.1))),
    fl := (out.filter (fun x => !pois x.1)).foldl (fun fl x => fl ||| x.2.2) 0 }

/-- MMROW (R180). -/
def laneMmrow (p : Pair) (e : VEntry) (d a k : Nat) (sat : Bool) : LaneRes :=
  let ta := tagOf e.tags a
  laneMm p ta (fun i => some (elemCode p ta a i)) ((List.range p.tile.kt).any (kpBit p)) sat d k

/-- MMROWS (R181): the activation row is routed through the positions a mask keeps. -/
def laneMmrows (p : Pair) (e : VEntry) (d a m k : Nat) (sat : Bool) : LaneRes :=
  let ta := tagOf e.tags a
  let js := ((List.range e.vl).filter (p.k.getD m 0).testBit).take p.tile.kt
  laneMm p ta (fun r => (js[r]?).map (fun j => elemCode p ta a j)) (js.any (kpBit p)) sat d k

/-- emax of an MX tag (R172). -/
def mxEmax : MxFmt → Int
  | .mx4 => 2 | .mx6a => 2 | .mx6b => 4 | .mxi8 => 0

/-- Writes one scale set entry with its poison bit. -/
def putScale (p : Pair) (b v : Nat) (pois : Bool) : Pair :=
  { p with scale := SMap.set 127 p.scale b v, scalePois := setBit p.scalePois b pois }

/-- One element quantised at a scale (R172): its code and flags; what is saturated raises NX, not OF. -/
def mxqElem (m : MxFmt) (mode : Rm) (r s : Nat) (v : FVal) : Nat × Flags :=
  match mxElem m with
  | some f =>
    (match v with
     | .zero neg => (withSign f neg 0, flagNone)
     | .fin x =>
       let (c, fl) := roundInto f false mode r (fracMul x (fracPow2 (127 - (s : Int))))
       (c, if fl = flagOFNX then flagNX else fl)
     | .nan _ => (0, flagNone)
     | .inf _ => (0, flagNone))
  | none =>
    (match v with
     | .fin x =>
       let (q, inexact) := roundUnits mode r (fracMul x (fracPow2 (127 - (s : Int) + 6)))
       (lowBits (satSigned q 8) 8, if inexact || satSigned q 8 != q then flagNX else flagNone)
     | .zero _ => (0, flagNone)
     | .nan _ => (0, flagNone)
     | .inf _ => (0, flagNone))

/-- |x| of a finite value. -/
def absFrac : FVal → Frac
  | .fin x => if x.num < 0 then fracNeg x else x
  | _ => ⟨0, 1⟩

/-- Whether a value is a NaN or an infinity. -/
def isSpecial : FVal → Bool
  | .nan _ => true
  | .inf _ => true
  | _ => false

/-- One block of MXQ (R172). -/
def mxqBlock (m : MxFmt) (f : FFmt) (rm : Rm) (d a vl : Nat) (acc : Pair × Flags) (b : Nat) : Pair × Flags :=
  let (p, fl) := acc
  let is := upFrom (32 * b) (min (32 * b + 32) vl)
  let val (i : Nat) : FVal := decodeF f (elemCode p (.flt f) a i)
  let pois := is.any (kpBit p)
  if is.any (fun i => isSpecial (val i)) then
    let p := putScale (if pois then markKp p is else p) b 255 pois
    let (p', out, g) := walkElems p rm true is (fun _ _ _ => (0, flagNV))
    (putCodes p' (.mx m) d out, fl ||| g)
  else
    let top := (is.map (fun i => absFrac (val i))).foldl (fun x y => if fracLt x y then y else x) ⟨0, 1⟩
    let s : Nat := if top.num = 0 then 0 else (min (max (fracLog2 top - mxEmax m + 127) 0) 254).toNat
    let p := putScale (if pois then markKp p is else p) b s pois
    let (p', out, g) := walkElems p rm true is (fun i mode r => mxqElem m mode r s (val i))
    (putCodes p' (.mx m) d out, fl ||| g)

/-- MXQ (R172). -/
def laneMxq (p : Pair) (e : VEntry) (d a : Nat) : LaneRes :=
  match tagOf e.tags a, tagOf e.tags d with
  | .flt f, .mx m =>
    let (p', fl) := (List.range (ceilDiv e.vl 32)).foldl (mxqBlock m f e.rm d a e.vl) (p, 0)
    { p := p', fl := fl }
  | _, _ => { p := p }

/-- MXS (R173). -/
def laneMxs (p : Pair) (e : VEntry) (a : Nat) : LaneRes :=
  { p := (List.range (ceilDiv e.vl 32)).foldl
      (fun q b => putScale q b (elemCode p (.int false 8) a b) (kpBit p b)) p }

/-- The value of an MX element code (R102). -/
def mxValue (m : MxFmt) (c : Nat) : FVal :=
  match mxElem m with
  | some f => decodeF f c
  | none => scaleVal (intVal (signExtend c 8)) (-6)

/-- MXD (R174): dequantises, or exports the scale set.  A position that its scale alone poisons raises no flag and draws
nothing (log entry 73). -/
def laneMxd (p : Pair) (e : VEntry) (d a : Nat) : LaneRes :=
  let td := tagOf e.tags d
  match td, tagOf e.tags a with
  | .flt f, .mx m =>
    let is := List.range e.vl
    let p := markKp p (is.filter (fun i => p.scalePois.testBit (i / 32)))
    let (p', out, fl) := walkElems p e.rm true is (fun i mode r =>
      let s := SMap.get 127 p.scale (i / 32)
      if s = 255 then (fmtQNaN f, flagNone)
      else toFloatCode f false mode r (scaleVal (mxValue m (elemCode p (.mx m) a i)) ((s : Int) - 127)))
    { p := putCodes p' td d out, fl := fl }
  | _, _ =>
    let bs := List.range (ceilDiv e.vl 32)
    let p' := markKp p (bs.filter p.scalePois.testBit)
    { p := putCodes p' td d (bs.map (fun b => (b, SMap.get 127 p.scale b))) }

end Sys2Proof.Machine
end

