-- ==== Sys2Proof/Machine/VComplete.lean ====
section
/-! DEFINITION. The lane array takes the queue's entries in order (spec/02_execution.md R44-R46, R53): what each
instruction does there, its flags, scalar result or trap; and the point at which VTYPE, the window or the seed
changes (spec/04_results_formats.md R107, R113). -/
namespace Sys2Proof.Machine
open Sys2Proof

/-- What an instruction of the lane array does to the pair; the memory instructions stand in `runEntry`. -/
def laneOf (i : Instr) (p : Pair) (e : VEntry) : LaneRes :=
  let bin (op : AOp) (d a b : BitVec 5) (k : BitVec 3) (x : BitVec 1) : LaneRes :=
    laneArith op p e d.toNat a.toNat (srcOf b x) k.toNat
  let un (op : AOp) (d a : BitVec 5) (k : BitVec 3) : LaneRes := laneArith op p e d.toNat a.toNat .none k.toNat
  let cmp (c : Cmp) (d : BitVec 3) (a b : BitVec 5) (k : BitVec 3) (x : BitVec 1) : LaneRes :=
    laneArith (.cmp c) p e d.toNat a.toNat (srcOf b x) k.toNat
  match i with
  | .vadd d a b k x => bin .add d a b k x
  | .vsub d a b k x => bin .sub d a b k x
  | .vrsub d a b k x => bin .rsub d a b k x
  | .vmul d a b k x => bin .mul d a b k x
  | .vmulh d a b k x => bin .mulh d a b k x
  | .vma d a b k x => bin .ma d a b k x
  | .vms d a b k x => bin .ms d a b k x
  | .vmin d a b k x => bin .min d a b k x
  | .vmax d a b k x => bin .max d a b k x
  | .vabs d a k => un .abs d a k
  | .vneg d a k => un .neg d a k
  | .vand d a b k x => bin .and d a b k x
  | .vor d a b k x => bin .or d a b k x
  | .vxor d a b k x => bin .xor d a b k x
  | .vnot d a k => un .not d a k
  | .vsll d a b k x => bin .sll d a b k x
  | .vsrl d a b k x => bin .srl d a b k x
  | .vsra d a b k x => bin .sra d a b k x
  | .vclip d a b k x => bin .clip d a b k x
  | .vsel d a b k x => bin .sel d a b k x
  | .vcvt d a k => un .cvt d a k
  | .vcvtSat d a k => un .cvtSat d a k
  | .vrcp d a k => un (.sp .rcp) d a k
  | .vrsq d a k => un (.sp .rsq) d a k
  | .vsqrt d a k => un (.sp .sqrt) d a k
  | .vdiv d a b k x => bin .div d a b k x
  | .vexp2 d a k => un (.sp .exp2) d a k
  | .vlog2 d a k => un (.sp .log2) d a k
  | .vsin d a k => un (.sp .sin) d a k
  | .vcos d a k => un (.sp .cos) d a k
  | .vcmpEq d a b k x => cmp .eq d a b k x
  | .vcmpNe d a b k x => cmp .ne d a b k x
  | .vcmpLt d a b k x => cmp .lt d a b k x
  | .vcmpLe d a b k x => cmp .le d a b k x
  | .vcmpGt d a b k x => cmp .gt d a b k x
  | .vcmpGe d a b k x => cmp .ge d a b k x
  | .vaddSat d a b k x => bin .addSat d a b k x
  | .vsubSat d a b k x => bin .subSat d a b k x
  | .vrsubSat d a b k x => bin .rsubSat d a b k x
  | .kand d a b => laneMask .and p e d.toNat a.toNat b.toNat
  | .kor d a b => laneMask .or p e d.toNat a.toNat b.toNat
  | .kxor d a b => laneMask .xor p e d.toNat a.toNat b.toNat
  | .kandn d a b => laneMask .andn p e d.toNat a.toNat b.toNat
  | .knot d a => laneMask .not p e d.toNat a.toNat a.toNat
  | .kmov d a => laneMask .mov p e d.toNat a.toNat a.toNat
  | .kpopc _ a => laneKpopc p e a.toNat
  | .kfirst _ a => laneKfirst p e a.toNat
  | .vmov d a k => laneVmov p e d.toNat a.toNat k.toNat
  | .vbcast d _ k => laneVbcast p e d.toNat k.toNat
  | .vext _ a _ => laneVext p e a.toNat
  | .vins d _ _ => laneVins p e d.toNat
  | .vslup d a _ k => laneVslup p e d.toNat a.toNat k.toNat
  | .vsldn d a _ k => laneVsldn p e d.toNat a.toNat k.toNat
  | .vperm d a b k => laneVperm p e d.toNat a.toNat b.toNat k.toNat
  | .vpair d a k => laneVpair p e d.toNat a.toNat k.toNat
  | .vcmprs d a k => laneVcmprs p e d.toNat a.toNat k.toNat
  | .vexpnd d a k => laneVexpnd p e d.toNat a.toNat k.toNat
  | .viota d k => laneViota p e d.toNat k.toNat
  | .vred d a k o => laneVred (redOf o) p e d.toNat a.toNat k.toNat none
  | .vredSeg d a b k o => laneVred (redOf o) p e d.toNat a.toNat k.toNat (some (p.k.getD b.toNat 0))
  | .vscan d a k o => laneVscan (redOf o) p e d.toNat a.toNat k.toNat none
  | .vscanSeg d a b k o => laneVscan (redOf o) p e d.toNat a.toNat k.toNat (some (p.k.getD b.toNat 0))
  | .vsetvf _ a b k => laneVsetvf p e a.toNat b.toNat k.toNat
  | .visect d a b k => laneVisect p e d.toNat a.toNat b.toNat k.toNat
  | .vsplit d a _ k => laneVsplit p e d.toNat a.toNat k.toNat
  | .tload a _ => laneTload p e a.toNat
  | .mmrow d a t k => laneMmrow p e d.toNat a.toNat k.toNat (t == 1)
  | .mmrows d a m t k => laneMmrows p e d.toNat a.toNat m.toNat k.toNat (t == 1)
  | .accz d k => laneAccz p e d.toNat k.toNat
  | .accrd d a _ k => laneAccrd p e d.toNat a.toNat k.toNat
  | .accwr d a k => laneAccwr p e d.toNat a.toNat k.toNat
  | .mxq d a => laneMxq p e d.toNat a.toNat
  | .mxs a => laneMxs p e a.toNat
  | .mxd d a => laneMxd p e d.toNat a.toNat
  | _ => { p := p }

/-- Applies what the lane array left to the pair and the hart in focus: flags, VL, a skipped index. -/
def ofLane (r : LaneRes) (s : State) : Done :=
  let s := orFpst r.fl { s with p := r.p }
  let s := match r.vl with
    | some n => { s with h := { s.h with vl := n } }
    | none => s
  { s := if r.skip then noteSkip s s.cur else s, res := r.res, trap := r.trap }

/-- Runs an entry whole. -/
def runEntry (e : VEntry) (s : State) : Done :=
  match e.instr with
  | .vld d _ _ _ _ => runLoad d.toNat e s
  | .vlds d _ _ _ _ _ => runLoad d.toNat e s
  | .vldx d _ _ _ _ _ => runLoad d.toNat e s
  | .vldw d _ b _ _ k => runVldw d.toNat b.toNat k.toNat e s
  | .vst d _ g _ _ => runStore d.toNat g.toNat false e s
  | .vsts d _ _ g _ _ => runStore d.toNat g.toNat false e s
  | .vstx d _ _ g _ _ => runStore d.toNat g.toNat true e s
  | .vscat d _ _ g _ o => runVscat o d.toNat g.toNat e s
  | .vacc d a o => runVacc o d.toNat a.toNat e s
  | .wmerge _ g _ o => runWmerge (winOp o) g.toNat (polOf e.instr) e.id e.plan s
  | i => ofLane (laneOf i s.p e) s

/-- Whether an instruction combines positions, and so is not cut at an element (R144, R166). -/
def runsWhole : Instr → Bool
  | .vred _ _ _ _ | .vredSeg _ _ _ _ _ | .vscan _ _ _ _ | .vscanSeg _ _ _ _ _ | .vperm _ _ _ _ | .vslup _ _ _ _
  | .vsldn _ _ _ _ | .vpair _ _ _ | .vcmprs _ _ _ | .vexpnd _ _ _ | .viota _ _ | .vsetvf _ _ _ _ | .visect _ _ _ _
  | .vsplit _ _ _ _ | .kpopc _ _ | .kfirst _ _ | .vext _ _ _ | .vins _ _ _ | .tload _ _ | .mmrow _ _ _ _
  | .mmrows _ _ _ _ _ | .accz _ _ | .accrd _ _ _ _ | .accwr _ _ _ | .mxq _ _ | .mxs _ | .mxd _ _ => true
  | _ => false

/-- Keeps the destination's old codes outside the positions from `lo` up to `lim`. -/
def keepOutside (old new : Pair) (d lo lim : Nat) : Pair :=
  let v := (upFrom lo lim).foldl (fun v i => SMap.set 0 v i (SMap.get 0 (new.v.getD d []) i)) (old.v.getD d [])
  { new with v := new.v.set d v }

/-- Runs an entry whose chunk faulted at an element (R245): element-wise instructions run below it; one that
combines positions waits for its whole read chunk, and of a write chunk commits the positions below. -/
def runCut (e : VEntry) (f : Nat) (s : State) : Done :=
  if !runsWhole e.instr then runEntry { e with vl := min e.vl f } s
  else if e.binds.any (!·.out) then { s := s }
  else
    match e.dest with
    | some d =>
      let r := runEntry { e with vstart := 0 } s
      { s := { r.s with p := keepOutside s.p r.s.p d e.vstart f } }
    | none => { s := s }

/-- Runs an entry that resumes at VSTART (R245): one that combines positions runs over all of them, and of a write chunk
commits the positions from VSTART on (log entry 38). -/
def runFrom (e : VEntry) (s : State) : Done :=
  let whole := match e.instr with
    | .vins _ _ _ => false
    | i => runsWhole i
  if !whole || e.vstart == 0 then runEntry e s
  else
    let r := runEntry { e with vstart := 0 } s
    match e.dest with
    | some d =>
      if e.binds.any (fun b => !b.out) then r
      else { r with s := { r.s with p := keepOutside s.p r.s.p d e.vstart (vlmaxOf s.p) } }
    | none => r

/-- Runs an entry (R200, R245). -/
def runBound (e : VEntry) (s : State) : Done :=
  match e.trap with
  | some t => if e.binds.isEmpty then runEntry e s else runCut e t.elem s
  | none => runFrom e s

/-- A matrix instruction whose checksum comparison failed twice at a column (R184): every word of its row whose
column lies in that macro is poisoned; it keeps the value and the flags of the run that met no fault (log entry 29).
`n` is a tile column, as the report's ADDR holds (log entry 51). -/
def cimLoss (d n : Nat) (p : Pair) : Pair :=
  let c := colsOf p.tile.tag
  let row := p.acc.getD d {}
  let ns := (List.range p.tile.nt).filter (fun j => j / c == n / c)
  { p with acc := p.acc.set d { row with pois := putBits row.pois (ns.map (fun j => (j, true))) } }

/-- The accumulator row a matrix product writes. -/
def cimRow : Instr → Option Nat
  | .mmrow d _ _ _ | .mmrows d _ _ _ _ => some d.toNat
  | _ => none

/-- The active mask that an element-wise instruction names (R143). -/
def maskOfInstr : Instr → Nat
  | .vadd _ _ _ k _ | .vsub _ _ _ k _ | .vrsub _ _ _ k _ | .vmul _ _ _ k _ | .vmulh _ _ _ k _ | .vma _ _ _ k _
  | .vms _ _ _ k _ | .vmin _ _ _ k _ | .vmax _ _ _ k _ | .vand _ _ _ k _ | .vor _ _ _ k _ | .vxor _ _ _ k _
  | .vsll _ _ _ k _ | .vsrl _ _ _ k _ | .vsra _ _ _ k _ | .vclip _ _ _ k _ | .vsel _ _ _ k _ | .vdiv _ _ _ k _
  | .vcmpEq _ _ _ k _ | .vcmpNe _ _ _ k _ | .vcmpLt _ _ _ k _ | .vcmpLe _ _ _ k _ | .vcmpGt _ _ _ k _
  | .vcmpGe _ _ _ k _ | .vaddSat _ _ _ k _ | .vsubSat _ _ _ k _ | .vrsubSat _ _ _ k _ | .vabs _ _ k | .vneg _ _ k
  | .vnot _ _ k | .vcvt _ _ k | .vcvtSat _ _ k | .vrcp _ _ k | .vrsq _ _ k | .vsqrt _ _ k | .vexp2 _ _ k
  | .vlog2 _ _ k | .vsin _ _ k | .vcos _ _ k | .vmov _ _ k | .vbcast _ _ k | .vslup _ _ _ k | .vsldn _ _ _ k
  | .vperm _ _ _ k | .vpair _ _ k | .vcmprs _ _ k | .vexpnd _ _ k | .viota _ k | .visect _ _ _ k | .vsplit _ _ _ k
  | .accrd _ _ _ k | .accwr _ _ k => k.toNat
  | _ => 0

/-- The positions whose element a checked instruction of the lane array writes: of a vector or mask register, or the
numbers of the words and scales it writes (R143, R157-R164, R172-R178, R339). -/
def writesOf (p : Pair) (e : VEntry) : List Nat :=
  let k := maskOfInstr e.instr
  let m := p.k.getD k 0
  match e.instr with
  | .kand _ _ _ | .kor _ _ _ | .kxor _ _ _ | .kandn _ _ _ | .knot _ _ | .kmov _ _ | .vsel _ _ _ _ _ => span e
  | .vacc _ _ _ => (span e).filter (fun i => !kpBit p i)
  | .vins _ _ _ => if e.b.toNat < vlmaxOf p then [e.b.toNat] else []
  | .vslup _ _ _ _ => (actives p e k).filter (fun i => decide (e.b.toNat ≤ i))
  | .vcmprs _ _ _ => (ranked m e.vl).map (·.2)
  | .vexpnd _ _ _ => (ranked m e.vl).map (·.1)
  | .viota _ _ | .vscan _ _ _ _ | .vscanSeg _ _ _ _ _ | .visect _ _ _ _ | .mxq _ _ => List.range e.vl
  | .vred _ _ _ _ => List.range (segStarts none e.vl).length
  | .vredSeg _ _ b _ _ => List.range (segStarts (some (p.k.getD b.toNat 0)) e.vl).length
  | .vsplit _ _ _ _ => (List.range e.vl).filter (maskOn p k)
  | .accrd _ _ _ _ | .accwr _ _ _ => wactOf p e.vl k
  | .mxs _ => List.range (ceilDiv e.vl 32)
  | .mxd d _ => List.range (if tagIsFlt (tagOf e.tags d.toNat) then e.vl else ceilDiv e.vl 32)
  | .vsetvf _ _ _ _ => List.range (vlmaxOf p)
  | .kpopc _ _ | .kfirst _ _ | .vext _ _ _ => []
  | _ => actives p e k

/-- The elements at which the check of a checked instruction can fail (R340): those it writes, below a chunk's fault
(R245); of a scalar result the comparison names any element that it covers. -/
def votePlaces (p : Pair) (e : VEntry) : List Nat :=
  let l := match e.instr with
    | .kpopc _ _ | .kfirst _ _ | .vext _ _ _ => List.range (max 1 e.vl)
    | _ => writesOf p e
  match e.trap with
  | some t => l.filter (fun i => decide (i < t.elem))
  | none => l

/-- Whether a failed check of MXQ at an element is of its block's scale entry: free (R340). -/
def scaleVote (e : VEntry) (s : State) : Bool :=
  match e.instr with
  | .mxq _ _ => freeBelow s 3010 2 == 1
  | _ => false

/-- The word, scale entry, window entry or mask bits that a checked ACCWR, MXS, MXQ, VACC or VSETVF writes for an element
take a result that is not the right one: a free value (R340). -/
def voteOther (e : VEntry) (s : State) (i : Nat) : Pair :=
  let p := s.p
  match e.instr with
  | .accwr d _ _ =>
    let row := p.acc.getD d.toNat {}
    { p with acc := p.acc.set d.toNat { row with w := SMap.set 0 row.w i (BitVec.ofNat 32 (freeBelow s 3002 (2 ^ 32))) } }
  | .mxs _ => putScale p i (freeBelow s 3003 256) ((p.scalePois).testBit i)
  | .mxq _ _ => if scaleVote e s then putScale p (i / 32) (freeBelow s 3003 256) ((p.scalePois).testBit (i / 32)) else p
  | .vacc _ a _ =>
    let n := elemInt p (tagOf e.tags a.toNat) a.toNat i
    if 0 ≤ n ∧ n < (winEntries p : Int) then
      let v := BitVec.ofNat 32 (freeBelow s 3004 (2 ^ 32))
      { p with window := SMap.set (windowFill p) p.window (i % lanesOf p * winEntries p + n.toNat) v }
    else p
  | .vsetvf _ _ b k =>
    let put (p : Pair) (r n : Nat) : Pair := setMaskReg p r (setBit (maskReg p r) i (freeBelow s n 2 == 1))
    put (put p b.toNat 3001) k.toNat 3007
  | _ => p

/-- A result of a checked instruction at an element that is not the right one: a free value. -/
def voteData (e : VEntry) (s : State) (i : Nat) : Pair :=
  let s := { s with p := voteOther e s i }
  let p := match (if scaleVote e s then none else e.dest), e.dtag with
    | some r, some t => putCodes s.p t r [(i, freeBelow s (3100 + i) (2 ^ tagWidth t))]
    | _, _ => s.p
  match e.kdest with
  | some k => setMaskReg p k (setBit (maskReg p k) i (freeBelow s 3001 2 == 1))
  | none => p

/-- Whether a failed check of an instruction with a scalar result is of that result: of VSETVF, which also writes two
masks, it is free. -/
def scalarVote (e : VEntry) (s : State) : Bool :=
  match e.instr with
  | .vsetvf _ _ _ _ => freeBelow s 3008 2 == 0
  | _ => true

/-- VL after a VSETVF whose scalar results two runs agree on wrongly: a free value. -/
def wrongVl (e : VEntry) (s : State) : State :=
  match e.instr with
  | .vsetvf _ _ _ _ => { s with h := { s.h with vl := freeBelow s 3009 (vlmaxOf s.p + 1) } }
  | _ => s

/-- One vote of a checked instruction (R340): where all three results differ the third, a free value, is written and the
position poisoned; where two agree on a wrong value that is kept; a report changes no data.  A scalar result that loses
its vote is not written, and the hart raises POISON (R344).
`before` is the state before the instruction. -/
def voteOne (e : VEntry) (before : State) (d : Done) (v : Vote) : Done :=
  if d.res.isSome && scalarVote e d.s then
    (match v.kind with
     | .wrong => { d with s := wrongVl e d.s, res := some (low64 (Config.freeNat d.s.free 3005)) }
     | _ => { s := before, trap := some (poisonTrap (2 ^ 64 - 1)) })
  else if (writesOf before.p e).contains v.elem = true ∧ d.trap.isNone = true then
    let p := if v.kind = .report then d.s.p else voteData e d.s v.elem
    { d with s := { d.s with p := if v.kind = .wrong then p else markKp p [v.elem] } }
  else d

/-- The tag of the first vector source of an instruction of the lane array, where it names one. -/
def sourceTag (e : VEntry) : Option Tag :=
  let t (a : BitVec 5) : Option Tag := some (tagOf e.tags a.toNat)
  match e.instr with
  | .vadd _ a _ _ _ | .vsub _ a _ _ _ | .vrsub _ a _ _ _ | .vmul _ a _ _ _ | .vmulh _ a _ _ _ | .vma _ a _ _ _
  | .vms _ a _ _ _ | .vmin _ a _ _ _ | .vmax _ a _ _ _ | .vclip _ a _ _ _ | .vdiv _ a _ _ _ | .vcmpEq _ a _ _ _
  | .vcmpNe _ a _ _ _ | .vcmpLt _ a _ _ _ | .vcmpLe _ a _ _ _ | .vcmpGt _ a _ _ _ | .vcmpGe _ a _ _ _
  | .vaddSat _ a _ _ _ | .vsubSat _ a _ _ _ | .vrsubSat _ a _ _ _ | .vabs _ a _ | .vneg _ a _ | .vcvt _ a _
  | .vcvtSat _ a _ | .vrcp _ a _ | .vrsq _ a _ | .vsqrt _ a _ | .vexp2 _ a _ | .vlog2 _ a _ | .vsin _ a _
  | .vcos _ a _ | .vred _ a _ _ | .vredSeg _ a _ _ _ | .vscan _ a _ _ | .vscanSeg _ a _ _ _ | .vacc _ a _
  | .mxq _ a | .mxs a | .mxd _ a => t a
  | _ => none

/-- Whether an instruction rounds, compares or converts floating-point values, and so may raise flags (R119): one that
reads or writes a tag that is not INT, a fold into an FLT window, the ESU's row reads and writes. -/
def mayFlag (p : Pair) (e : VEntry) : Bool :=
  match e.instr with
  | .accrd _ _ _ _ | .accwr _ _ _ | .mxq _ _ | .mxs _ | .mxd _ _ => true
  | .vacc _ _ _ => p.wf
  | _ =>
    match sourceTag e with
    | some t => !tagIsInt t || (e.dtag.map (fun d => !tagIsInt d)).getD false
    | none => false

/-- The flags that a checked instruction raises at the elements its checks did not fail at (R119): those of its run with
the others poisoned, which raise nothing; of one that reduces, or whose elements share a scale, none is told apart. -/
def flagsBeside (e : VEntry) (before : State) (l : List Nat) : Flags :=
  match e.instr with
  | .vred _ _ _ _ | .vredSeg _ _ _ _ _ | .accrd _ _ _ _ | .accwr _ _ _ | .mxq _ _ | .mxs _ | .mxd _ _ => 0
  | _ => (runBound e { before with h := { before.h with fpst := 0 }, p := markKp before.p l }).s.h.fpst

/-- The elements of a vector result whose kept value is the third run's, or a wrong one that two runs agree on (R340). -/
def votedElems (e : VEntry) (before : State) (d : Done) : List Nat :=
  if d.res.isSome || d.trap.isSome then []
  else (e.votes.filter (fun v => v.kind != .report && (writesOf before.p e).contains v.elem)).map (·.elem)

/-- FPST after the votes of a checked instruction: of the elements whose kept value is not that of the run that met no fault
it takes the flags of the value kept, which are free (R119; log entry 29). -/
def voteFlags (e : VEntry) (before : State) (d r : Done) : Done :=
  let l := votedElems e before d
  if l.isEmpty || !mayFlag before.p e then r
  else
    let free : Flags := BitVec.ofNat 5 (freeBelow before 3011 32)
    { r with s := { r.s with h := { r.s.h with fpst := before.h.fpst ||| flagsBeside e before l ||| free } } }

/-- The votes of a checked instruction, or the columns a matrix instruction's checksums failed at (R184, R340). -/
def voteLoss (e : VEntry) (before : State) (d : Done) : Done :=
  match cimRow e.instr with
  | some r => e.votes.foldl (fun d v => { d with s := { d.s with p := cimLoss r v.elem d.s.p } }) d
  | none => voteFlags e before d (e.votes.foldl (voteOne e before) d)

/-- The write chunks an entry emits (R245). -/
def emitChunks (e : VEntry) (s : State) : State :=
  (e.binds.filter (·.out)).foldl (fun s b =>
    let t := e.dtag.getD (.int true 1)
    storeElems s e.id (some b.g) (contBytes t) (planStores s.p t b.reg b.plan)) s

/-- Advances POS of the streams an entry took part in (R245). -/
def movePos (e : VEntry) (h : Hart) : Hart :=
  e.binds.foldl (fun h b =>
    if hg : b.g < 8 then
      let x := h.g[b.g]
      { h with g := h.g.set b.g { x with pos := x.pos + BitVec.ofNat 48 b.n } }
    else h) h

/-- The scalar destination of a vector instruction. -/
def scalarDest : Instr → BitVec 5
  | .kpopc d _ | .kfirst d _ | .vext d _ _ | .vsetvf d _ _ _ => d
  | _ => 0

/-- Whether a trap of an entry names an element in VSTART (R200, R241, R242): the POISON traps of a scalar
result do not (R321). -/
def namesElem (e : VEntry) : Bool :=
  match e.instr with
  | .kpopc _ _ | .kfirst _ _ | .vext _ _ _ | .vsetvf _ _ _ _ => e.trap.isSome
  | _ => true

/-- The hart that waited for the entry goes on, or takes the trap: VSTART is the element it names, or keeps its value (R45,
R200, R323). -/
def wakeIssuer (e : VEntry) (res : Option Dword) (trap : Option ElemTrap) (s : State) : State :=
  if s.h.issue ≠ .stalled (.vecResult e.id) then s
  else
    let s := { s with h := { s.h with issue := .ready } }
    match trap with
    | some t =>
      let s := { s with h := { s.h with vstart := if namesElem e then t.elem else e.vstart } }
      takeTrap t.cause t.sub (namesElem e) t.tval e.pc s
    | none =>
      match res with
      | some v => resultX 4 (scalarDest e.instr) v s
      | none => advance 4 s

/-- Takes an entry off the queue and runs it, its hart in focus. -/
def completeEntry (e : VEntry) (s : State) : State :=
  let s := { s with p := { s.p with dq := s.p.dq.tail } }
  let d := voteLoss e s (runBound e s)
  let trap := match d.trap with
    | some t => some t
    | none => e.trap
  let s := emitChunks e d.s
  let s := if trap.isSome then s else { s with h := movePos e s.h }
  wakeIssuer e d.res trap s

/-- Whether the head entry may be taken: the earlier scalar accesses of its hart in its streams are performed
(R213), and for FENSV every earlier one in the package (R224), but for those on words, which are in no stream (R402). -/
def entryReady (s : State) (e : VEntry) : Bool :=
  !s.reqs.any (fun r => r.uid == s.h.uid && !r.done &&
    ((decide (r.id < e.id) && (match r.strm with
        | some g => e.strms.contains g
        | none => false))
      || (decide (r.id < e.afterReq) && r.dom == 0 && r.strm.isSome)))

/-- The number of the hart whose entry stands at the head of a pair's queue. -/
def headHart (s : State) (pair : Nat) : Option (Nat × VEntry) :=
  match ((getPair s pair).getD {}).dq with
  | e :: _ => some (2 * pair + e.role, e)
  | [] => none

/-- VECTOR_COMPLETE (R53): the entry at the head of a pair's queue. -/
def execVectorComplete (pair : Nat) (s : State) : Out :=
  .next (match headHart s pair with
    | some (id, e) => withHart s id (fun s => if entryReady s e then completeEntry e s else s)
    | none => s)

/-! ## The point of change (R107) -/

/-- Clears what R107 clears when S changed. -/
def clearStorage (p : Pair) : Pair :=
  { p with v := List.replicate 32 [], k := List.replicate 8 0, kp := 0 }

/-- The tags SETVT sets: i of each group's width. -/
def groupTags (gw : List Nat) : List Tag := (List.range 32).map (fun r => .int true (gw.getD (r / 8) 1))

/-- SETVT at its point (R140). -/
def applySetvt (p : Pair) (groups : Nat) (rm : Rm) : Pair :=
  let gw := groupWidths groups
  let gc := groupCounts groups
  let q := if storageOf gw gc p.win ≠ storageOf p.gw p.gc p.win then clearStorage p
    else { p with v := p.v.mapIdx (fun r m => if gw.getD (r / 8) 1 = p.gw.getD (r / 8) 1 then m else []) }
  { q with gw := gw, gc := gc, rm := rm, tags := groupTags gw }

/-- ACCWIN at its point (R240). -/
def applyAccwin (p : Pair) (bits : Nat) (wf : Bool) (wop : Nat) : Pair :=
  let q := if bits ≠ p.win then clearStorage p else p
  { q with win := bits, wf := wf, wop := wop, window := [] }

/-- The change that waits is made, its hart in focus: VL becomes 0 and rd takes VLMAX; a write of SRSEED reseeds
the pair and its SETC returns (R107, R113). -/
def applyChange (s : State) : State :=
  let finish (rd : Nat) (p : Pair) (s : State) : State :=
    resultX 4 (BitVec.ofNat 5 rd) (BitVec.ofNat 64 (vlmaxOf p))
      { s with p := p, h := { s.h with vl := 0, issue := .ready } }
  let s0 := { s with p := { s.p with chg := none } }
  match s.p.chg with
  | some (.setvt _ groups rm rd) => finish rd (applySetvt s0.p groups rm) s0
  | some (.accwin _ bits wf wop rd) => finish rd (applyAccwin s0.p bits wf wop) s0
  | some (.seed _ v rd) => endSetc rd (s.p.seed.setWidth 64) { s0 with p := reseed s0.p v }
  | none => s

/-- The hart a change belongs to. -/
def changeHart (pair : Nat) : Change → Nat
  | .setvt r _ _ _ => 2 * pair + r
  | .accwin r _ _ _ _ => 2 * pair + r
  | .seed r _ _ => 2 * pair + r

/-- VTYPE_CHANGE_POINT (R107): when the pair's queue is empty. -/
def execVtypeChangePoint (pair : Nat) (s : State) : Out :=
  .next (match ((getPair s pair).getD {}).chg with
    | some c =>
      withHart s (changeHart pair c)
        (fun s => if s.p.dq.isEmpty && s.h.issue == .stalled .change then applyChange s else s)
    | none => s)

end Sys2Proof.Machine
end

