-- ==== Sys2Proof/Machine/Engine.lean ====
section
/-! DEFINITION. Engine commands (spec/10_order_instructions.md R246-R251; spec/09_order_rules.md R222, R223): their
issue, and the two steps of a copy engine, which commits a command's elements and then records it. -/
namespace Sys2Proof.Machine
open Sys2Proof

/-! ## Issue (R246) -/

/-- The semaphore of a SEMSPEC (R30, R247, R313): its physical number, none outside the group, or the number that
lies outside the context's window. -/
def semSpec (s : State) (v : Nat) : Option Nat ⊕ Nat :=
  let pkg := bitsOf v 18 14
  let n := bitsOf v 8 0
  if s.hub.pkgs ≤ pkg then .inl none
  else
    match semOf s (bitsOf v 18 9) n with
    | some k => .inl (some k)
    | none => .inr n

/-- A command as its descriptor gives it. -/
def cmdOf (s : State) (op : EngOp) (t : Nat) (sem : Option Nat) (acq rel : Option Nat) (va : Dword) (a x : Acc) : Cmd :=
  let get (o n : Nat) : Nat := readNat s (a.key + o) n
  let xctl := get 0x2C 4
  let r := (if xctl.testBit 0 then get 0 8 else get 8 8) % 32
  { id := s.nextId, tce := t, op := op, uid := s.h.uid, hart := s.cur, user := s.h.level == 0, ctx := s.p.ctx,
    item := s.p.item.getD (0, 0), ticket := s.h.engCount % 65536 + t % 4 * 65536, afterReq := s.nextId, acq := acq,
    rel := rel, src := get 0 8, dst := get 8 8, rowlen := get 0x10 4, rows := get 0x14 4, sstr := get 0x18 8,
    dstr := get 0x20 8, sem := sem, xctl := xctl, tag := tagOf s.p.tags r, vlmax := vlmaxOf s.p,
    inUse := regOk s.p r, crec := x.key, crecGen := x.gen, crecVa := (va + 0x38).toNat }

/-- Queues a command: rd takes the ticket. -/
def queueCmd (d : BitVec 5) (m : Cmd) (s : State) : State :=
  resultX 4 d (BitVec.ofNat 64 m.ticket)
    { s with cmds := s.cmds ++ [m], nextId := s.nextId + 1, h := { s.h with engCount := s.h.engCount + 1 } }

/-- An engine command at issue (R246): the access hart alone (R43); the descriptor, its semaphore and its record
are checked in this order; then a queue with room. -/
def engOp (i : Instr) (op : EngOp) (d a : BitVec 5) (c : BitVec 3) (q r : BitVec 1) (s : State) : Out :=
  legalOr i s <|
  let va := xr s a
  if !onUser s || !isAccess s then .next (illTrap i s)
  else if va.toNat % 64 ≠ 0 then .next (trapHere causeACCESS va s)
  else
    match resolveCur s va 64 .read with
    | .ok x =>
      (match checkSector s x.key x.gen with
       | .violation => .next (failContext s s.p.ctx)
       | .media => .next (trapHere causePOISON va (fireShot s (some s.cur) x.key (allocates s s.p.ctx va.toNat none)))
       | .good =>
         match semSpec s (readNat s (x.key + 0x28) 4 % 2 ^ 19) with
         | .inr n => .next (trapHere causeACCESS (BitVec.ofNat 64 n) s)
         | .inl sem =>
           match resolveCur s (va + 0x38) 8 .write with
           | .ok y =>
             (match tceChoice s with
              | none => .next (stall .tceFull s)
              | some t =>
                .next (queueCmd d (cmdOf s op t sem (if q = 1 then some c.toNat else none)
                  (if r = 1 then some c.toNat else none) va x y) s))
           | e => .next (memFault e (va + 0x38) s))
    | e => .next (memFault e va s)

/-- XCOPY (R248). -/
def execXcopy (d a : BitVec 5) (c : BitVec 3) (q r : BitVec 1) (s : State) : Out :=
  engOp (.xcopy d a c q r) .xcopy d a c q r s
/-- DCOPY (R249). -/
def execDcopy (d a : BitVec 5) (c : BitVec 3) (q r : BitVec 1) (s : State) : Out :=
  engOp (.dcopy d a c q r) .dcopy d a c q r s
/-- DFILL (R249). -/
def execDfill (d a : BitVec 5) (c : BitVec 3) (q r : BitVec 1) (s : State) : Out :=
  engOp (.dfill d a c q r) .dfill d a c q r s

/-! ## The probe pass (R200, R250) -/

/-- The item of a command. -/
def cmdItem (s : State) (m : Cmd) : Option Item := (getLaunch s m.item.1).bind (getItem · m.item.2)

/-- The pair an item's commands reach the local window through: the one it is or was last bound to. -/
def cmdPair (s : State) (m : Cmd) : Nat := ((cmdItem s m).map (·.pair)).getD (pairOf m.hart)

/-- Whether the item of a command is bound now. -/
def cmdBound (s : State) (m : Cmd) : Bool :=
  match cmdItem s m with
  | some it => isBound it
  | none => true

/-- Whether an address lies in the TCM part of the local window (R188). -/
def inTcm (va : Nat) : Bool := decide (va < 2 ^ 55) && bitsOf va 54 32 == (2 ^ 15 - 1) * 2 ^ 8

/-- The allocations of an item that a command reaches while the item is saved: those of its launch (R189, R200). -/
def savedWindow (s : State) (m : Cmd) : Pair :=
  match getLaunch s m.item.1 with
  | none => {}
  | some l =>
    let clus := cmdPair s m / 64
    { scrb := l.scrb, scrBase := ((l.scr.find? (fun e => e.1 == clus)).map (·.2)).getD 0,
      dsrb := l.dsrb, dsrBase := l.dsr.headD 0 }

/-- An access of a command to the TCM of an item that is saved: to the copy in its record, which the restore copies back
(R229, R284, R330; log entry 21). -/
def savedTcm (s : State) (m : Cmd) (off size : Nat) (k : AccKind) : Res :=
  match (cmdItem s m).bind (·.saveVa), getLaunch s m.item.1 with
  | some va, some l =>
    if off + size ≤ l.tcmb then ctxAccess s (ctxOf s m.ctx) (va + 0x1000 + off) k false else .fault causeACCESS
  | _, _ => .fault causeACCESS

/-- Resolves an address of a command, as translation and allocations stand now. -/
def cmdResolve (s : State) (m : Cmd) (va size : Nat) (k : AccKind) : Res :=
  let pid := cmdPair s m
  if cmdBound s m then resolve s ((getPair s pid).getD {}) (2 * pid) (ctxOf s m.ctx) m.user va size k
  else if inTcm va then savedTcm s m (va % 2 ^ 32) size k
  else resolve s (savedWindow s m) (2 * pid) (ctxOf s m.ctx) m.user va size k

/-- The hart that events of a command are attributed to: the access hart that issued it, where its item runs (R349). -/
def cmdHart (s : State) (m : Cmd) : Option Nat := if cmdBound s m then some (2 * cmdPair s m) else none

/-- Where a command's record goes: the place found at issue, or, in TCM, that of the item's pair now or, while the item is
saved, its copy there (R284; log entry 21). -/
def crecPlace (s : State) (m : Cmd) : Res :=
  if spaceOf m.crec ≠ 1 then .ok ⟨m.crec, m.crecGen⟩
  else if cmdBound s m then
    .ok ⟨tcmKey (2 * cmdPair s m) (((getPair s (cmdPair s m)).getD {}).tcmBase + m.crecVa % 2 ^ 32), m.crecGen⟩
  else savedTcm s m (m.crecVa % 2 ^ 32) 8 .write

/-- The start of row r (R248, R249). -/
def rowStart (base stride r : Nat) : Nat := lowBits ((base : Int) + signExtend stride 64 * (r : Int)) 64

/-- Whether a row of a command lies, in part, in its item's TCM: one that does begins or ends there, since the window is
as long as the longest row. -/
def rowInTcm (base stride len r : Nat) : Bool :=
  inTcm (rowStart base stride r) || inTcm ((rowStart base stride r + (len - 1)) % 2 ^ 64)

/-- Whether a command reads or writes its item's TCM, in any of its rows. -/
def cmdInTcm (m : Cmd) : Bool :=
  (List.range m.rows).any (fun r =>
    (m.op != .dfill && rowInTcm m.src m.sstr m.rowlen r) || rowInTcm m.dst m.dstr m.rowlen r)

/-- Element width and container of an XCOPY. -/
def xWidth (m : Cmd) : Nat := tagWidth m.tag
/-- Whether an XCOPY is packed, and whether it stores. -/
def xPack (m : Cmd) : Bool := m.xctl.testBit 1
/-- DIR of an XCOPY: true from register to memory. -/
def xOut (m : Cmd) : Bool := m.xctl.testBit 0

/-- The accesses of element t, each with its size and kind (R248, R249). -/
def cmdAccs (m : Cmd) (t : Nat) : List (Nat × Nat × AccKind) :=
  let r := t / m.rowlen
  let c := t % m.rowlen
  let src := rowStart m.src m.sstr r
  let dst := rowStart m.dst m.dstr r
  match m.op with
  | .dcopy => [((src + c) % 2 ^ 64, 1, .read), ((dst + c) % 2 ^ 64, 1, .write)]
  | .dfill => [((dst + c) % 2 ^ 64, 1, .write)]
  | .xcopy =>
    let base := if xOut m then dst else src
    let kind : AccKind := if xOut m then .write else .read
    if xPack m then
      let lo := c * xWidth m / 8
      let hi := (c * xWidth m + xWidth m - 1) / 8
      (upFrom lo (hi + 1)).map (fun j => ((base + j) % 2 ^ 64, 1, kind))
    else [((base + c * contBytes m.tag) % 2 ^ 64, contBytes m.tag, kind)]

/-- The outcome of one element's probe: its places, a cause with the address, or an integrity violation. -/
inductive Places
  | at (l : List Acc)
  | fault (cause va : Nat)
  | violation

/-- Probes the accesses of one element in order. -/
def probeAccs (s : State) (m : Cmd) : List (Nat × Nat × AccKind) → Places
  | [] => .at []
  | (va, size, k) :: l =>
    if va % size ≠ 0 then .fault causeACCESS va
    else
      match cmdResolve s m va size k with
      | .violation => .violation
      | .fault c => .fault c va
      | .ok a =>
        match probeAccs s m l with
        | .at r => .at (a :: r)
        | e => e

/-- Probes `n` elements from `t` upward: the places of those below the first failing one, and how that failed. -/
def probeEls (s : State) (m : Cmd) : Nat → Nat → List (List Acc) × Option Places
  | 0, _ => ([], none)
  | n + 1, t =>
    match probeAccs s m (cmdAccs m t) with
    | .at l =>
      let (r, e) := probeEls s m n (t + 1)
      (l :: r, e)
    | e => ([], some e)

/-! ## What is committed -/

/-- A place as an element access. -/
def placeOf (t : Nat) (a : Acc) : ElemAcc := { i := t, key := a.key, gen := a.gen, va := 0 }

/-- A byte of a source: its value and whether its sector is poisoned. -/
def srcByte (s : State) (a : Acc) : Byte × Bool :=
  (readByte s a.key, checkSector s a.key a.gen == .media)

/-- The value a byte of a DCOPY takes from its source, with its poison (R249): what the source holds before the command
or, where elements of the command write the source too, before or after them in the row, what one of those writes: which
is free (log entry 18).  A chain of such sources is followed for `fuel` bytes at most. -/
def copyValue (s : State) (els : List (Nat × Acc × Acc)) : Nat → Nat × Acc × Acc → Nat × Bool
  | 0, x => ((srcByte s x.2.1).1.toNat, (srcByte s x.2.1).2)
  | fuel + 1, x =>
    let before := srcByte s x.2.1
    match els.filter (fun y => y.2.2.key == x.2.1.key) with
    | [] => (before.1.toNat, before.2)
    | w :: ws =>
      match (w :: ws)[freeBelow s (10000 + x.1) (ws.length + 2)]? with
      | some y =>
        let r := copyValue s els fuel y
        (r.1, before.2 || r.2)
      | none => (before.1.toNat, before.2)

/-- The elements of a DCOPY, numbered from `t0`, with their source and destination. -/
def copyEls (t0 : Nat) (places : List (List Acc)) : List (Nat × Acc × Acc) :=
  (places.mapIdx (fun t l => (t0 + t, l))).filterMap (fun x =>
    match x.2 with
    | [a, b] => some (x.1, a, b)
    | _ => none)

/-- DCOPY from its places (R249). -/
def copyBytes (s : State) (t0 : Nat) (places : List (List Acc)) : List (ElemAcc × Nat × Bool) :=
  let els := copyEls t0 places
  els.map (fun x => (placeOf x.1 x.2.2, copyValue s els els.length x))

/-- DFILL from its places (R249). -/
def fillBytes (m : Cmd) (t0 : Nat) (places : List (List Acc)) : List (ElemAcc × Nat × Bool) :=
  (places.mapIdx (fun t l => (t0 + t, l))).flatMap (fun x =>
    x.2.map (fun a => (placeOf x.1 a, bitsOf m.src (8 * (x.1 % m.rowlen % 8) + 7) (8 * (x.1 % m.rowlen % 8)), false)))

/-- An element of an XCOPY read from memory (R248): position, code, poison. -/
def xRead (s : State) (m : Cmd) (t : Nat) (l : List Acc) : Nat × Nat × Bool :=
  let bad := l.any (fun a => checkSector s a.key a.gen == .media)
  let v := if xPack m then ofBytesLE (l.map (fun a => readByte s a.key))
    else ofBytesLE (l.flatMap (fun a => readBytes s a.key (contBytes m.tag)))
  let off := if xPack m then t % m.rowlen * xWidth m % 8 else 0
  (t, if bad then freeBelow s (1000 + t) (2 ^ xWidth m) else v / 2 ^ off % 2 ^ xWidth m, bad)

/-- The register an XCOPY names. -/
def xReg (m : Cmd) : Nat := (if xOut m then m.src else m.dst) % 32

/-- The bytes a packed XCOPY stores, of its elements `t0` up to `t1`: byte by byte over each row, bits outside those
elements kept (R248).  `place t` is where element t lies; the flag says whether every bit of the byte is written. -/
def packBytes (s : State) (m : Cmd) (p : Pair) (t0 t1 : Nat) (place : Nat → List Acc) : List ((ElemAcc × Nat × Bool) × Bool) :=
  let w := xWidth m
  (upFrom (t0 / m.rowlen) (ceilDiv t1 m.rowlen)).flatMap (fun r =>
    let lo := max t0 (r * m.rowlen) - r * m.rowlen
    let hi := min t1 ((r + 1) * m.rowlen) - r * m.rowlen
    (upFrom (lo * w / 8) (ceilDiv (hi * w) 8)).filterMap (fun j =>
      let bits := (List.range 8).filter (fun b => decide (lo ≤ (8 * j + b) / w) && decide ((8 * j + b) / w < hi))
      let c := (8 * j + bits.headD 0) / w
      let a := (place (r * m.rowlen + c))[j - c * w / 8]?
      let code (b : Nat) : Bool :=
        (elemCode p m.tag (xReg m) (r * m.rowlen + (8 * j + b) / w)).testBit ((8 * j + b) % w)
      a.map (fun a =>
        let v := bits.foldl (fun v b => setBit v b (code b)) (readByte s a.key).toNat
        let pois := bits.any (fun b => kpBit p (r * m.rowlen + (8 * j + b) / w))
        ((placeOf (r * m.rowlen + c) a, v, pois), bits.length == 8))))

/-- An event of a command whose item is saved: the notice waits with the item's access hart (R349). -/
def noteSaved (s : State) (m : Cmd) (unit sev : Nat) (inj : Bool) : State :=
  let chk := (ctxOf s m.ctx).chkctl
  if (sev = 0 ∧ chk.getLsbD 16 = true) ∨ (sev = 1 ∧ chk.getLsbD 17 = true) then
    modItem s m.item.1 m.item.2 (fun it => { it with harts := adjustKey it.harts 0 (fun h => { h with
      errNote := match h.errNote with
        | some t => some t
        | none => some (BitVec.ofNat 64 (unit + sev * 16 + (if inj then 64 else 0))) }) })
  else s

/-- What followed a command's step where the one-shot fired in it while its item is saved: the notice (R349). -/
def noteFired (s s' : State) (m : Cmd) : State :=
  if s.hub.arm && !s'.hub.arm && !cmdBound s m then noteSaved s' m 0 1 true else s'

/-- The one-shot fires at a sector a command read at an address (R351); a miss there allocates as its page says (R203). -/
def fireCmd (s : State) (m : Cmd) (key va : Nat) : State :=
  noteFired s (fireFor s (liveCtx s m.ctx) (cmdHart s m) key (allocates s m.ctx va none)) m

/-- Fires the one-shot at the sectors a command read, of its elements from number `t0`. -/
def fireAll (s : State) (m : Cmd) (t0 : Nat) (places : List (List Acc)) : State :=
  (places.mapIdx (fun i l => (t0 + i, l))).foldl (fun s x =>
    (List.zip x.2 ((cmdAccs m x.1).map (·.1))).foldl (fun s y => fireCmd s m y.1.key y.2) s) s

/-- The places a command reads. -/
def readPlaces (m : Cmd) (places : List (List Acc)) : List (List Acc) :=
  match m.op with
  | .dcopy => places.map (·.take 1)
  | .dfill => []
  | .xcopy => if xOut m then [] else places

/-- Whose the stores of a command are (R349). -/
def cmdStorer (s : State) (m : Cmd) : Storer := { ctx := m.ctx, item := some m.item, hart := cmdHart s m }

/-- Commits the elements of a command from number `t0`, at these places: the state, and whether some of them were
poisoned. -/
def commitCmd (s : State) (m : Cmd) (t0 : Nat) (places : List (List Acc)) : State × Bool :=
  let pid := cmdPair s m
  let p := (getPair s pid).getD {}
  let reads := readPlaces m places
  if (reads.flatMap id).any (fun a => checkSector s a.key a.gen == .violation) then (failContext s m.ctx, false)
  else
    match m.op with
    | .dcopy =>
      let l := copyBytes s t0 places
      (noteFired (fireAll s m t0 reads) (storeAll (fireAll s m t0 reads) (cmdStorer s m) 1 l l) m, l.any (·.2.2))
    | .dfill =>
      let l := fillBytes m t0 places
      (noteFired s (storeAll s (cmdStorer s m) 1 l l) m, false)
    | .xcopy =>
      if !xOut m then
        let xs := places.mapIdx (fun t l => xRead s m (t0 + t) l)
        let p' := markKp (putCodes p m.tag (xReg m) (xs.map (fun x => (x.1, x.2.1)))) ((xs.filter (·.2.2)).map (·.1))
        (modPair (fireAll s m t0 reads) pid (fun _ => p'), xs.any (·.2.2))
      else if xPack m then
        let l := packBytes s m p t0 (t0 + places.length) (fun t => places.getD (t - t0) [])
        (noteFired s (storeAll s (cmdStorer s m) 1 ((l.filter (·.2)).map (·.1)) (l.map (·.1))) m, l.any (·.1.2.2))
      else
        let l := places.mapIdx (fun t l => l.map (fun a =>
          (placeOf (t0 + t) a, contValue m.tag (elemCode p m.tag (xReg m) (t0 + t)), kpBit p (t0 + t))))
        (noteFired s (storeAll s (cmdStorer s m) (contBytes m.tag) l.flatten l.flatten) m, l.flatten.any (·.2.2))

/-! ## The steps -/

/-- Whether a descriptor draws BADDESC (R247, R248). -/
def badDesc (m : Cmd) : Bool :=
  m.rowlen == 0 || m.rows == 0 || decide (65536 < m.rows) || m.sem.isNone ||
  (m.op == .xcopy && (decide (m.vlmax < m.rows * m.rowlen) || !m.inUse
    || (xPack m && decide (1 < m.rows) && m.rowlen * xWidth m % 8 != 0)))

/-- Sets the result of a command. -/
def setStatus (s : State) (id : Nat) (st : Nat × Nat × Nat) : State :=
  { s with cmds := s.cmds.map (fun m => if m.id == id then { m with status := some st } else m) }

/-- The owner number of a command's own writes outside the package. -/
def cmdUid (m : Cmd) : Nat := 2 ^ 127 + m.id

/-- The places a command writes. -/
def writePlaces (m : Cmd) (places : List (List Acc)) : List Acc :=
  match m.op with
  | .dcopy => places.flatMap (·.drop 1)
  | .dfill => places.flatten
  | .xcopy => if xOut m then places.flatten else []

/-- The completions that a command's writes outside the package owe, one for each home domain (R212, R223). -/
def cmdAcks (s : State) (m : Cmd) (l : List Acc) : State :=
  ((l.map (fun a => domOf a.key)).filter (· != 0)).eraseDups.foldl (fun s d =>
    { s with
      nextId := s.nextId + 1
      reqs := s.reqs ++ [{ id := s.nextId, uid := cmdUid m, hart := m.hart, strm := none, dom := d, op := .ack false,
                           key := ((l.find? (fun a => domOf a.key == d)).map (·.key)).getD 0, size := 0,
                           ctx := m.ctx, done := true, cmd := some m.item }] }) s

/-- Ends a command whose elements below the first failing one are committed: POISONED, FAULT or OK (R250); DONE counts
elements, or bytes. -/
def endCommits (s : State) (m : Cmd) (done : Nat) (bad : Bool) (fail : Option (Nat × Nat)) : State :=
  match fail with
  | some (c, va) => setStatus (noteFired s (walkDone s m.ctx (cmdHart s m) c va) m) m.id (2, c, done)
  | none => setStatus (if bad then markEscape s (some m.item) else s) m.id (if bad then 1 else 0, 0, done)

/-- A command's probe and commits (R250). -/
def runCmd (s : State) (m : Cmd) : State :=
  if badDesc m then setStatus s m.id (3, 0, 0)
  else
    let (places, e) := probeEls s m (m.rows * m.rowlen) 0
    match e with
    | some .violation => failContext s m.ctx
    | some (.fault c va) =>
      let (s, bad) := commitCmd (cmdAcks s m (writePlaces m places)) m 0 places
      endCommits s m places.length bad (some (c, va))
    | _ =>
      let (s, bad) := commitCmd (cmdAcks s m (writePlaces m places)) m 0 places
      endCommits s m places.length bad none

/-! ### A command in parts (R148, R251; log entry 47) -/

/-- Whether a command may be cut before its k-th remaining place: no sector is written on both sides, and an XCOPY is cut
between element groups. -/
def cutsAt (m : Cmd) (t0 : Nat) (places : List (List Acc)) (k : Nat) : Bool :=
  let secs (l : List (List Acc)) : List Nat := (writePlaces m l).map (fun a => sectorOf a.key)
  (m.op != .xcopy || (t0 + k) % 256 == 0) && (secs (places.take k)).all (fun x => !(secs (places.drop k)).contains x)

/-- How many of the remaining elements the next part commits: a free number, not the whole, raised to where a command may
be cut. -/
def partOfCmd (s : State) (m : Cmd) (t0 : Nat) (places : List (List Acc)) : Nat :=
  let n := places.length
  ((upFrom (1 + freeBelow s 12 (n - 1)) n).find? (cutsAt m t0 places)).getD n

/-- Stores how far a command has come. -/
def setProg (s : State) (id : Nat) (g : Option CmdProg) : State :=
  { s with cmds := s.cmds.map (fun m => if m.id == id then { m with prog := g } else m) }

/-- The places of a command begun in parts, as accesses. -/
def progPlaces (g : CmdProg) : List (List Acc) := g.places.map (fun l => l.map (fun a => { key := a.1, gen := a.2 : Acc }))

/-- The element groups that an XCOPY into a register has still to move. -/
def groupsLeft (g : CmdProg) : List Nat := (List.range (ceilDiv g.places.length 256)).filter (fun j => !g.groups.contains j)

/-- The element groups that the next part of an XCOPY into a register moves: free ones, not all of several (R47, R148). -/
def groupsNext (s : State) (g : CmdProg) : List Nat :=
  let l := groupsLeft g
  let pick := l.filter (fun j => freeBelow s (2 ^ 65 + j) 2 == 1)
  if l.length ≤ 1 then l else if pick.isEmpty then l.take 1 else if pick.length = l.length then pick.tail else pick

/-- Moves one element group, unless the command has gone. -/
def commitGroup (m : Cmd) (g : CmdProg) (x : State × Bool) (j : Nat) : State × Bool :=
  if x.1.cmds.any (fun n => n.id == m.id) then
    let r := commitCmd x.1 m (256 * j) (((progPlaces g).drop (256 * j)).take 256)
    (r.1, x.2 || r.2)
  else x

/-- Moves some element groups of an XCOPY into a register, and ends it when none is left. -/
def commitGroups (s : State) (m : Cmd) (g : CmdProg) (js : List Nat) : State :=
  let (s, bad) := js.foldl (commitGroup m g) (s, g.bad)
  let g' : CmdProg := { g with groups := g.groups ++ js, bad := bad,
                               t0 := g.t0 + (js.map (fun j => min 256 (g.places.length - 256 * j))).sum }
  if (groupsLeft g').isEmpty then endCommits (setProg s m.id none) m g.places.length bad g.fail
  else setProg s m.id (some g')

/-- Commits `n` of the remaining elements of a command, and ends it when none is left. -/
def commitSome (s : State) (m : Cmd) (g : CmdProg) (n : Nat) : State :=
  let places := progPlaces g
  let (s, bad) := commitCmd s m g.t0 (places.take n)
  let bad := g.bad || bad
  let left := g.places.drop n
  if left.isEmpty then endCommits (setProg s m.id none) m (g.t0 + n) bad g.fail
  else setProg s m.id (some { places := left, t0 := g.t0 + n, fail := g.fail, bad := bad })

/-- Whether a command moves data into a register. -/
def intoReg (m : Cmd) : Bool := m.op == .xcopy && !xOut m

/-- The next part of a command: of an XCOPY into a register any of its element groups (R148). -/
def nextPart (s : State) (m : Cmd) (g : CmdProg) : State :=
  if intoReg m then commitGroups s m g (groupsNext s g) else commitSome s m g (partOfCmd s m g.t0 (progPlaces g))

/-- All that is left of a command begun in parts. -/
def restPart (s : State) (m : Cmd) (g : CmdProg) : State :=
  if intoReg m then commitGroups s m g (groupsLeft g) else commitSome s m g g.places.length

/-- The probe pass of a command and the first part of its commits. -/
def beginCmd (s : State) (m : Cmd) : State :=
  if badDesc m then setStatus s m.id (3, 0, 0)
  else
    let (places, e) := probeEls s m (m.rows * m.rowlen) 0
    let fail : Option (Nat × Nat) := match e with
      | some (.fault c va) => some (c, va)
      | _ => none
    match e with
    | some .violation => failContext s m.ctx
    | _ =>
      let g : CmdProg := { places := places.map (fun l => l.map (fun a => (a.key, a.gen))), t0 := 0, fail := fail, bad := false }
      nextPart (cmdAcks s m (writePlaces m places)) m g

/-- Whether the first of two commands goes ahead in its engine (R18, R269): the boosted hart's, then higher ep, then
the one queued first. -/
def cmdBefore (s : State) (a b : Cmd) : Bool :=
  let ba := isBoosted s a.uid
  let bb := isBoosted s b.uid
  if ba != bb then ba else if ep s a.uid ≠ ep s b.uid then decide (ep s b.uid < ep s a.uid) else decide (a.id < b.id)

/-- Whether a command may start: its engine is free, none goes ahead of it, its acquire is done (R222), its cluster
is clocked. -/
def cmdStarts (s : State) (m : Cmd) : Bool :=
  m.status.isNone && m.prog.isNone && clocked s (m.tce / 4) && (cmdBound s m || m.op != .xcopy) &&
    s.cmds.all (fun n => n.id == m.id || n.tce != m.tce || (n.status.isNone && n.prog.isNone && !cmdBefore s n m)) &&
    (match m.acq with
     | some sc => !relBlocked s m.uid m.hart m.afterReq sc
     | none => true)

/-- Whether a command that has committed a part may go on. -/
def cmdGoes (s : State) (m : Cmd) : Bool := m.status.isNone && m.prog.isSome && clocked s (m.tce / 4)

/-- TCE_COMMAND_START (R250 steps 1 to 3): the acquire, the probe pass, the elements below the first that fails; of a
command begun in parts, those that are left. -/
def execTceCommandStart (id : Nat) (s : State) : Out :=
  .next (match s.cmds.find? (fun m => m.id == id) with
    | some m =>
      if cmdStarts s m then runCmd s m
      else
        (match m.prog with
         | some g => if cmdGoes s m then restPart s m g else s
         | none => s)
    | none => s)

/-- A part of a command (R148): the engine commits some of its elements; one that reaches its item's TCM in any row runs
whole, since that TCM may move while the command runs (R229, R284). -/
def commandPart (id : Nat) (s : State) : State :=
  match s.cmds.find? (fun m => m.id == id) with
  | some m =>
    (match m.prog with
     | some g => if cmdGoes s m then nextPart s m g else s
     | none => if cmdStarts s m && (m.op == .xcopy || badDesc m || !cmdInTcm m) then beginCmd s m else s)
  | none => s

/-- One increment of a semaphore, with its sticky error bit for a command that failed (R250); one of a peer package is
told to its home (R246; log entry 12). -/
def semBump (s : State) (k : Nat) (err : Bool) : State :=
  if 32 ≤ k / 512 then s
  else
  let s := { s with sems := SMap.set 0 s.sems k (semAddValue 1 (SMap.get 0 s.sems k)) }
  if err then setErr s k else s

/-- Whether a command may be recorded: it has a status, and its release waits for its writes (R223). -/
def cmdEnds (s : State) (m : Cmd) : Bool :=
  m.status.isSome && !s.reqs.any (fun r => r.uid == cmdUid m && meetsScope m.hart r.key (m.rel.getD 3))

/-- The increment of a finished command (R250 step 5). -/
def bumpFor (m : Cmd) (st : Nat) (s : State) : State :=
  match m.sem with
  | some k => semBump s k (st != 0)
  | none => s

/-- Records a command (R250 steps 4 and 5): CREC, then the semaphore; where the record would be written into another
key's sector the context ends, with no increment (R204, R223).  A record whose place in a saved item's TCM cannot be
reached any more is left out (log entry 21). -/
def recordCmd (s : State) (m : Cmd) (st cause done : Nat) : State :=
  let s' := { s with cmds := s.cmds.filter (fun n => n.id != m.id) }
  match crecPlace s m with
  | .ok a =>
    if checkSector s' a.key a.gen = .violation then failContext s' m.ctx
    else
      bumpFor m st (noteFired s
        (storeHome s' (cmdHart s m) m.ctx a.key a.gen (st + cause * 256 + done % 2 ^ 48 * 2 ^ 16) 8) m)
  | .fault f => bumpFor m st (noteFired s (walkDone s' m.ctx (cmdHart s m) f m.crecVa) m)
  | .violation => failContext s' m.ctx

/-- TCE_COMMAND_FINISH (R250 steps 4 and 5). -/
def execTceCommandFinish (id : Nat) (s : State) : Out :=
  .next (match s.cmds.find? (fun m => m.id == id) with
    | some m =>
      (match m.status with
       | some (st, cause, done) => if cmdEnds s m then recordCmd s m st cause done else s
       | none => s)
    | none => s)

/-- Cancels the commands of an item (R251): each stops before its next element; CREC takes CANCELLED with what it had
done. -/
def cancelCmds (s : State) (t i : Nat) : State :=
  { s with cmds := s.cmds.map (fun m =>
      if m.item = (t, i) ∧ m.status.isNone then
        { m with status := some (4, 0, (m.prog.map (·.t0)).getD 0), prog := none }
      else m) }

end Sys2Proof.Machine
end

