-- ==== Sys2Proof/Machine/WaitEvents.lean ====
section
/-! DEFINITION. The steps that end waits, the Umpire's own steps, page responses and invalidations
(spec/11_progress_rules.md R257, R265, R267; spec/12 R301; spec/08_order_memory.md R197, R198). -/
namespace Sys2Proof.Machine
open Sys2Proof

/-- Runs a step on a hart that waits. -/
def onWaiting (hart : Nat) (f : State → State) (s : State) : Out :=
  .next (withHart s hart (fun s => if s.h.issue = .waiting then f s else s))

/-- WAIT_SATISFIED (R257): the decision reached, with the Umpire's answer, is written. -/
def execWaitSatisfied (hart : Nat) (s : State) : Out := onWaiting hart satisfiedOp s
/-- WAIT_TIMEOUT (R257, R262): the budget ran out. -/
def execWaitTimeout (hart : Nat) (s : State) : Out := onWaiting hart timeoutOp s
/-- WITHDRAWAL_ANSWER (R301). -/
def execWithdrawalAnswer (hart : Nat) (s : State) : Out := onWaiting hart withdrawalOp s
/-- UMPIRE_ANSWER (R257, R271-R274). -/
def execUmpireAnswer (hart : Nat) (s : State) : Out := onWaiting hart answerOp s

/-- UMPIRE_SHARE_REFILL (R265). -/
def execUmpireShareRefill (die : Nat) (s : State) : Out := .next (refillShare s die)

/-- The owner number of a hart of a peer package. -/
def peerUid (hart : Nat) : Nat := 2 ^ 129 + hart

/-- What a message of a peer's Umpire is about (R267): a hold or a wait of one of its harts here, a member's arrival. -/
inductive FarKind
  | hold (k : HoldKind) | wait (k : HoldKind) | arrival
  deriving DecidableEq, Repr

/-- The kinds of message by number; the messages of a walk and of priority change nothing here (log entry 12). -/
def farKind (what : Nat) : Option FarKind :=
  match what with
  | 0 => some (.hold .wo) | 1 => some (.hold .lock) | 2 => some (.hold .member)
  | 3 => some (.wait .lock) | 4 => some (.wait .member) | 5 => some (.wait .wo)
  | 6 => some .arrival | 7 => some (.hold .wo)
  | _ => none

/-- The object of a message: a word of the HBM of a package, or a semaphore; of an object homed elsewhere its home passes
on what concerns the harts here (R267; log entry 12). -/
def farObj (what key : Nat) : Option Obj :=
  if what = 7 then (if key < 2 ^ 19 then some (.sem key) else none)
  else if isHbm key then some (.word (wordOf key)) else none

/-- Adds or removes a hold of a peer's hart. -/
def setFarHold (uid : Nat) (o : Obj) (k : HoldKind) (insert : Bool) (s : State) : State :=
  let mine (h : Hold) : Bool := h.uid == uid && h.obj == o && h.kind == k
  if insert then (if s.holds.any mine then s else { s with holds := s.holds ++ [farHold o k uid] })
  else { s with holds := s.holds.filter (fun h => !mine h) }

/-- Adds, changes the priority of, or removes a wait of a peer's hart. -/
def setFarWait (uid : Nat) (o : Obj) (k : HoldKind) (prio : Nat) (insert : Bool) (s : State) : State :=
  let mine (r : RemoteWait) : Bool := r.uid == uid && r.obj == o && r.kind == k
  if insert then
    (if s.rwaits.any mine then { s with rwaits := s.rwaits.map (fun r => if mine r then { r with prio := prio % 16 } else r) }
     else { s with nextId := s.nextId + 1,
                   rwaits := s.rwaits ++ [{ uid := uid, prio := prio % 16, obj := o, kind := k, seq := s.nextId }] })
  else { s with rwaits := s.rwaits.filter (fun r => !mine r) }

/-- UMPIRE_REMOTE_MESSAGE (R267): a peer's Umpire, which accounts the entry, adds or removes a hold or a wait of one of
its harts on an object whose home is here, or on one homed elsewhere that a hart of this package waits on or holds, or
tells an arrival of its member (log entry 12). -/
def execUmpireRemoteMessage (hart key : Nat) (insert : Bool) (s : State) : Out :=
  let what := bitsOf key 75 72
  let prio := bitsOf key 79 76
  let key := key % 2 ^ 72
  .next (match farKind what, farObj what key with
    | some k, some o =>
      if pkgOf hart = 0 then s
      else
        match k with
        | .hold k => setFarHold (peerUid hart) o k insert s
        | .wait k => setFarWait (peerUid hart) o k prio insert s
        | .arrival => setPending s (peerUid hart) key (some (barPhase (readLoc s (wordOf key) 8)))
    | _, _ => s)

/-- The increment PRISEM asks for on a page response (R198). -/
def priSignal (s : State) (c : Nat) (ok : Bool) : State :=
  let v := (ctxOf s c).prisem
  if !v.getLsbD 14 then s
  else
    match ctxSem s c (v.extractLsb' 9 5).toNat (v.extractLsb' 0 9).toNat with
    | some k => semBump s k (!ok)
    | none => s

/-- Records the host's mapping of a page, or its absence (R197). -/
def setHostMap (s : State) (pasid page perm : Nat) (ok : Bool) : State :=
  let rest := s.hub.hostMap.filter (fun e => !(e.1 == pasid && e.2.1 == page))
  { s with hub := { s.hub with hostMap := if ok then rest ++ [(pasid, page, perm)] else rest } }

/-- PAGE_RESPONSE (R198): the answer to an outstanding page request of a context; another is no answer. -/
def execPageResponse (pasid page perm : Nat) (ok : Bool) (s : State) : Out :=
  .next (match s.ctxs.find? (fun e => e.2.pasid == pasid && e.2.pri.contains page) with
    | some (c, _) =>
      let s := modCtx s c (fun x => { x with
        pri := x.pri.filter (· != page)
        hubPages := (x.hubPages.filter (fun e => e.1 != page)) ++
          (if !ok && x.hubPages.any (fun e => e.1 == page) then [(page, true)] else []) })
      priSignal (setHostMap s pasid page perm ok) c ok
    | none => s)

/-- Whether a place lies in one of `n` pages of a PASID. -/
def inHostPages (pasid page n key : Nat) : Bool :=
  decide (hostKey pasid (page * 4096) ≤ key) && decide (key < hostKey pasid ((page + n) * 4096))

/-- The requests, queue entries and engine commands whose accesses used translations of some host pages. -/
def atsUsers (s : State) (pasid page n : Nat) : List Nat :=
  let hit := inHostPages pasid page n
  ((s.reqs.filter (fun r => hit r.key)).map (·.id))
    ++ (allPairs s).flatMap (fun e => (e.2.dq.filter (fun x => (entryPlan x).any (fun a => hit a.key))).map (·.id))
    ++ (s.cmds.filter (fun m => hit m.crec || ((m.prog.map (·.places)).getD []).any (·.any (fun a => hit a.1)))).map (·.id)

/-- ATS_INVALIDATE (R197): the translations of `n` pages go; the invalidation completes when what used them is
performed. -/
def execAtsInvalidate (pasid page n : Nat) (s : State) : Out :=
  .next { s with hub := { s.hub with
    atsWait := s.hub.atsWait ++ [atsUsers s pasid page n]
    hostMap := s.hub.hostMap.filter (fun e => !(e.1 == pasid && decide (page ≤ e.2.1) && decide (e.2.1 < page + n))) } }

/-- Whether something with a number is still outstanding. -/
def outstanding (s : State) (id : Nat) : Bool :=
  s.reqs.any (fun r => r.id == id) || (allPairs s).any (fun e => e.2.dq.any (fun x => x.id == id))
    || s.cmds.any (fun m => m.id == id)

/-- Whether the oldest invalidation may complete. -/
def atsDue (s : State) : Bool :=
  match s.hub.atsWait with
  | l :: _ => !l.any (outstanding s)
  | [] => false

/-- The oldest invalidation completes: the host is told (R197). -/
def atsComplete (s : State) : State :=
  if atsDue s then { s with hub := { s.hub with atsWait := s.hub.atsWait.tail, atsDone := s.hub.atsDone + 1 } } else s

end Sys2Proof.Machine
end

