-- ==== Sys2Proof/Machine/Save.lean ====
section
/-! DEFINITION. The record of a saved item (spec/13_isolation.md R329-R332): what a save writes into the save pool
and what a restore finds there, the drains before a save (spec/11_progress_rules.md R286, R287; spec/09 R229). -/
namespace Sys2Proof.Machine
open Sys2Proof

/-- `n` rounded up to a multiple of 64. -/
def up64 (n : Nat) : Nat := (n + 63) / 64 * 64

/-- Bytes padded with zeros to a multiple of 64. -/
def pad64 (l : List Byte) : List Byte := l ++ List.replicate (up64 l.length - l.length) 0

/-- Bytes padded with zeros to a length. -/
def padTo (n : Nat) (l : List Byte) : List Byte := l ++ List.replicate (n - l.length) 0

/-! ## What a save writes (R330, R331) -/

/-- A stream as the record holds it: 40 bytes. -/
def streamBytes (g : Stream) : List Byte :=
  natBytes g.addr.toNat 8 ++ natBytes g.strd.toNat 8 ++ natBytes g.len.toNat 8 ++ natBytes g.pos.toNat 8
    ++ natBytes (gctlWord g) 8

/-- A comparator: 16 bytes. -/
def bpBytes (b : Breakpoint) : List Byte := natBytes b.va.toNat 8 ++ natBytes b.ctl.toNat 8

/-- STATE of a hart: 0 running, 1 waiting, 2 ended. -/
def hartState (h : Hart) : Nat := if h.issue = .ended then 2 else if h.wait.isSome then 1 else 0

/-- The 1,024 bytes of a hart. -/
def hartBytes (h : Hart) : List Byte :=
  let d (v : Nat) : List Byte := natBytes v 8
  let w := h.wait
  padTo 0x200 (
    d h.pc.toNat ++ (upFrom 1 32).flatMap (fun n => d (h.x.toList.getD n 0).toNat)
      ++ padTo 8 [BitVec.ofNat 8 h.level, BitVec.ofNat 8 (hartState h)]
      ++ d h.vl ++ d h.vstart ++ d h.fpst.toNat ++ d h.ldst.toNat ++ d h.prio.toNat ++ d h.tcause.toNat
      ++ d h.tpc.toNat ++ d h.tval.toNat ++ d h.tstat.toNat ++ d h.tvec.toNat ++ d h.tscr.toNat ++ d h.txol.toNat
      ++ d ((w.map (fun w => w.budget - w.counted)).getD 0) ++ d ((w.map (·.word)).getD 0)
      ++ d h.gsel.toNat ++ d h.bpsel.toNat ++ d (h.engCount % 65536))
    ++ padTo 0x200 (h.g.toList.flatMap streamBytes ++ h.bps.toList.flatMap bpBytes)

/-- A queue: its count and 16 places. -/
def queueBytes (q : List Dword) : List Byte :=
  padTo 136 (natBytes q.length 8 ++ q.flatMap (fun v => natBytes v.toNat 8))

/-- A section with its header. -/
def sectionBytes (k i t : Nat) (l : List Byte) : List Byte :=
  natBytes (k + i * 256 + t * 65536) 8 ++ natBytes l.length 8 ++ pad64 l

/-- `n` bits of a mask, eight to a byte. -/
def maskBytes (m n : Nat) : List Byte := natBytes (m % 2 ^ n) (ceilDiv n 8)

/-- The registers in use. -/
def usedRegs (p : Pair) : List Nat := (List.range 32).filter (regOk p)

/-- Elements of a register in their containers. -/
def regBytes (p : Pair) (r : Nat) : List Byte :=
  let t := tagOf p.tags r
  (List.range (vlmaxOf p)).flatMap (fun i => natBytes (contValue t (elemCode p t r i)) (contBytes t))

/-- A row: its words, its poison bits. -/
def rowBytes (p : Pair) (n : Nat) : List Byte :=
  let a := p.acc.getD n {}
  (List.range (lanesOf p)).flatMap (fun j => natBytes (SMap.get 0 a.w j).toNat 4) ++ maskBytes a.pois (lanesOf p)

/-- Scale codes of a tile: of an MX tile, nb for each column. -/
def tileScales (t : Tile) : Nat := if tagIsMx t.tag then t.nt * ceilDiv t.kt 32 else 0

/-- The tile. -/
def tileBytes (t : Tile) : List Byte :=
  natBytes t.kt 2 ++ natBytes t.nt 2 ++ natBytes (tagCode t.tag) 4
    ++ (List.range (t.kt * t.nt)).flatMap (fun i => natBytes (lowBits (SMap.get 0 t.w i) 16) 2)
    ++ (List.range (tileScales t)).flatMap (fun i => natBytes (SMap.get 0 t.sb i) 1)
    ++ maskBytes t.colpois t.nt

/-- The sections of a record, in order. -/
def sectionsOf (p : Pair) : List Byte :=
  let l := lanesOf p
  (usedRegs p).flatMap (fun r => sectionBytes 1 r (tagCode (tagOf p.tags r)) (regBytes p r))
    ++ (List.range 9).flatMap (fun n => sectionBytes 2 n 0 (maskBytes (maskReg p n) (vlmaxOf p)))
    ++ (List.range p.accrows).flatMap (fun n =>
      sectionBytes 3 n (if (p.acc.getD n {}).f32 then 0x31 else 0x30) (rowBytes p n))
    ++ (if p.tile.kt = 0 then [] else sectionBytes 4 0 0 (tileBytes p.tile))
    ++ sectionBytes 5 0 0 ((List.range (l / 32)).flatMap (fun b => natBytes (SMap.get 127 p.scale b) 1)
        ++ maskBytes p.scalePois (l / 32))
    ++ (if p.win = 0 then [] else sectionBytes 6 0 0
        ((List.range (l * winEntries p)).flatMap (fun e => natBytes (SMap.get (windowFill p) p.window e).toNat 4)))
    ++ sectionBytes 7 0 0 ((List.range l).flatMap (fun j => natBytes (genState p j).toNat 4))

/-- The bytes of a pair's TCM allocation. -/
def tcmBytes (s : State) (p : Pair) (pid : Nat) : List Byte := readBytes s (tcmKey (2 * pid) p.tcmBase) p.tcmb

/-- The fixed part: header, harts, queues. -/
def fixedBytes (p : Pair) (kind idx ltag total vsect : Nat) (a e : Hart) : List Byte :=
  padTo 0x1000 (
    padTo 0x100 (
      natBytes 1 2 ++ natBytes kind 1 ++ natBytes p.pairs 1 ++ natBytes (lanesOf p) 2 ++ natBytes p.accrows 2
        ++ natBytes (vtypeWord p) 8 ++ natBytes idx 4 ++ natBytes (ltag % 65536) 4 ++ natBytes total 8
        ++ natBytes p.seed.toNat 8 ++ natBytes ((if p.wf then 1 else 0) + p.wop * 2) 8 ++ natBytes vsect 8)
      ++ hartBytes a ++ hartBytes e ++ p.q.flatMap queueBytes)

/-- Offset of the first section: none for KIND 1; KIND 3 has no TCM copy. -/
def vsectOf (p : Pair) (kind : Nat) : Nat :=
  if kind = 1 then 0 else if kind = 2 then 0x1000 + up64 p.tcmb else 0x1000

/-- The whole record, in 64-byte pieces, each with the poison it carries (that of the TCM block it copies). -/
def recordPieces (s : State) (p : Pair) (pid kind idx ltag : Nat) (a e : Hart) : List (List Byte × Bool) :=
  let secs := if kind = 1 then [] else sectionsOf p
  let tcm := if kind = 3 then [] else pad64 (tcmBytes s p pid)
  let total := 0x1000 + tcm.length + secs.length
  let piece (l : List Byte) (i : Nat) : List Byte := (l.drop (64 * i)).take 64
  let fixed := fixedBytes p kind idx ltag total (vsectOf p kind) a e
  let secs := pad64 secs
  (List.range 64).map (fun i => (piece fixed i, false))
    ++ (List.range (tcm.length / 64)).map (fun i => (piece tcm i, isPois s (tcmKey (2 * pid) p.tcmBase + 64 * i)))
    ++ (List.range (secs.length / 64)).map (fun i => (piece secs i, false))

/-- Writes 64-byte pieces at an address of a context, as S; a piece that cannot be written is left out (log entry 11), its
page asked for (R198); an integrity violation in a walk ends the context. -/
def putPieces (c : Nat) : Nat → List (List Byte × Bool) → State → State
  | _, [], s => s
  | va, (bs, bad) :: l, s =>
    match ctxAccess s (ctxOf s c) va .write false with
    | .ok a => putPieces c (va + 64) l (putSector s a.key a.gen bs bad)
    | .fault f => putPieces c (va + 64) l (walkDone s c none f va)
    | .violation => failContext s c

/-! ## What a restore finds (R332) -/

/-- Why a restore ends: a check of R332 that fails, a translation that fails at an address, an integrity violation in a
walk or a sector (R204). -/
inductive RecBad
  | check
  | fault (cause va : Nat)
  | violation
  deriving DecidableEq, Repr

/-- What a restore reads of a record. -/
abbrev Rec (α : Type) := Except RecBad α

/-- A value that R332 asks for. -/
def recSome {α : Type} : Option α → Rec α
  | some v => .ok v
  | none => .error .check

/-- The access of a byte of a record, read as S. -/
def recAccess (s : State) (c : Ctx) (va : Nat) : Rec Acc :=
  match ctxAccess s c va .read false with
  | .ok a => .ok a
  | .fault f => .error (.fault f va)
  | .violation => .error .violation

/-- The value of `n` bytes of a record; one that is poisoned fails the checks (log entry 43). -/
def recNat (s : State) (c : Ctx) (va : Nat) : Nat → Rec Nat
  | 0 => .ok 0
  | n + 1 => do
    let a ← recAccess s c va
    match checkSector s a.key a.gen with
    | .good => do
      let r ← recNat s c (va + 1) n
      .ok ((readByte s a.key).toNat + 256 * r)
    | .media => .error .check
    | .violation => .error .violation

/-- A stream from its 40 bytes. -/
def parseStream (rd : Nat → Nat → Rec Nat) (o : Nat) : Rec Stream := do
  let a ← rd o 8
  let t ← rd (o + 8) 8
  let l ← rd (o + 16) 8
  let q ← rd (o + 24) 8
  let c ← rd (o + 32) 8
  .ok { addr := BitVec.ofNat 64 a, strd := BitVec.ofNat 64 t, len := BitVec.ofNat 48 l, pos := BitVec.ofNat 48 q,
         act := c.testBit 0, dir := c.testBit 1, breg := BitVec.ofNat 5 (c / 8), bnd := c.testBit 8 }

/-- A comparator from its 16 bytes. -/
def parseBp (rd : Nat → Nat → Rec Nat) (o : Nat) : Rec Breakpoint := do
  let a ← rd o 8
  let c ← rd (o + 8) 8
  .ok { va := BitVec.ofNat 55 a, ctl := bpctlStored (BitVec.ofNat 64 c) }

/-- What a hart's part of a record says beside its registers (R330): STATE, the remaining budget, the instruction word
of the wait in progress. -/
structure WaitPart where
  st : Nat
  budget : Nat
  word : Nat
  deriving DecidableEq, Repr

/-- A hart from its part of the record, over what the record does not hold.  A level byte that is not 0 is read as S (log
entry 55). -/
def parseHart (rd : Nat → Nat → Rec Nat) (old : Hart) : Rec (Hart × WaitPart) := do
  let pc ← rd 0 8
  let xs ← (upFrom 1 32).mapM (fun n => rd (8 * n) 8)
  let level ← rd 0x100 1
  let st ← rd 0x101 1
  let r ← (List.range 17).mapM (fun n => rd (0x108 + 8 * n) 8)
  let gs ← (List.range 8).mapM (fun n => parseStream rd (0x200 + 40 * n))
  let bs ← (List.range 8).mapM (fun n => parseBp rd (0x340 + 16 * n))
  let f (n : Nat) : Nat := r.getD n 0
  let d (n : Nat) : Dword := BitVec.ofNat 64 (f n)
  let pc : Dword := BitVec.ofNat 64 pc &&& ~~~1#64
  .ok ({ old with
    pc := pc
    x := Vector.ofFn (fun i => if i.val = 0 then 0 else BitVec.ofNat 64 (xs.getD (i.val - 1) 0))
    level := if level = 0 then 0 else 1
    vl := f 0, vstart := f 1, fpst := BitVec.ofNat 5 (f 2), ldst := BitVec.ofNat 5 (f 3), prio := BitVec.ofNat 4 (f 4)
    tcause := BitVec.ofNat 12 (f 5), tpc := d 6 &&& ~~~1#64, tval := d 7, tstat := BitVec.ofNat 9 (f 8)
    tvec := d 9 &&& ~~~3#64, tscr := d 10, txol := d 11 &&& ~~~1#64
    gsel := BitVec.ofNat 3 (f 14), bpsel := BitVec.ofNat 3 (f 15), engCount := f 16 % 65536
    g := Vector.ofFn (fun i => gs.getD i.val {})
    bps := Vector.ofFn (fun i => bs.getD i.val {})
    xol := if pc = old.pc then old.xol else none }, { st := st, budget := f 12, word := f 13 % 2 ^ 32 })

/-- A queue from its part of the record; a count above 16 is read as 16 (log entry 55). -/
def parseQueue (rd : Nat → Nat → Rec Nat) (o : Nat) : Rec (List Dword) := do
  let n ← rd o 8
  (List.range (min n 16)).mapM (fun i => (rd (o + 8 + 8 * i) 8).map (BitVec.ofNat 64))

/-- A section with the header it must have: its TAG, its payload, what follows it. -/
def parseSection (rd : Nat → Nat → Rec Nat) (o k i len : Nat) : Rec (Nat × Nat × Nat) := do
  let w ← rd o 8
  let n ← rd (o + 8) 8
  if w % 256 = k ∧ bitsOf w 15 8 = i ∧ n = len then .ok (bitsOf w 21 16, o + 16, o + 16 + up64 len) else .error .check

/-- `n` items of `size` bytes each, as a sparse map without its default. -/
def parseMap {α : Type} [DecidableEq α] (rd : Nat → Nat → Rec Nat) (d : α) (f : Nat → α) (o size n : Nat) :
    Rec (SMap α) :=
  (List.range n).foldlM (fun m i => (rd (o + size * i) size).map (fun v => SMap.set d m i (f v))) []

/-- A register's section (R331). -/
def parseReg (rd : Nat → Nat → Rec Nat) (p : Pair) (o r : Nat) : Rec (Pair × Nat) := do
  let w ← rd o 8
  let t ← recSome (tagOfCode (bitsOf w 21 16))
  if tagFits p r t then
    let (_, q, o') ← parseSection rd o 1 r (vlmaxOf p * contBytes t)
    let m ← parseMap rd (0 : Half) (fun v => BitVec.ofNat 16 (v % 2 ^ tagWidth t)) q (contBytes t) (vlmaxOf p)
    .ok ({ p with v := p.v.set r m, tags := p.tags.set r t }, o')
  else .error .check

/-- A mask's section. -/
def parseMask (rd : Nat → Nat → Rec Nat) (p : Pair) (o n : Nat) : Rec (Pair × Nat) := do
  let (_, q, o') ← parseSection rd o 2 n (ceilDiv (vlmaxOf p) 8)
  let m ← rd q (ceilDiv (vlmaxOf p) 8)
  .ok (setMaskReg p n (m % 2 ^ vlmaxOf p), o')

/-- A row's section. -/
def parseRow (rd : Nat → Nat → Rec Nat) (p : Pair) (o n : Nat) : Rec (Pair × Nat) := do
  let l := lanesOf p
  let (t, q, o') ← parseSection rd o 3 n (4 * l + l / 8)
  if t = 0x30 ∨ t = 0x31 then
    let m ← parseMap rd (0 : Word) (BitVec.ofNat 32) q 4 l
    let b ← rd (q + 4 * l) (l / 8)
    .ok ({ p with acc := p.acc.set n { f32 := t == 0x31, w := m, pois := b } }, o')
  else .error .check

/-- Whether KT, NT and a tag make a tile legal for the pair (R170). -/
def tileLegal (p : Pair) (kt nt : Nat) (t : Tag) : Bool :=
  decide (0 < kt) && decide (kt ≤ 256 * macrosOf p) && decide (0 < nt) &&
    decide (ceilDiv kt 256 * ceilDiv nt (colsOf t) ≤ macrosOf p)

/-- An integer view from its 16 bits: of an nN tag without a sign (R167). -/
def viewFrom (t : Tag) (v : Nat) : Int :=
  match t with
  | .int false _ => v
  | _ => signExtend v 16

/-- The tile's section, where there is one. -/
def parseTile (rd : Nat → Nat → Rec Nat) (p : Pair) (o : Nat) : Rec (Pair × Nat) := do
  let w ← rd o 8
  if w % 256 ≠ 4 then .ok ({ p with tile := {} }, o)
  else
    let kt ← rd (o + 16) 2
    let nt ← rd (o + 18) 2
    let t ← recSome (tileTag (← rd (o + 20) 1))
    let tile : Tile := { kt := kt, nt := nt, tag := t }
    let n := tileScales tile
    if tileLegal p kt nt t then
      let (_, q, o') ← parseSection rd o 4 0 (8 + 2 * kt * nt + n + ceilDiv nt 8)
      let views ← parseMap rd (0 : Int) (viewFrom t) (q + 8) 2 (kt * nt)
      let sb ← parseMap rd (0 : Nat) id (q + 8 + 2 * kt * nt) 1 n
      let cp ← rd (q + 8 + 2 * kt * nt + n) (ceilDiv nt 8)
      .ok ({ p with tile := { tile with w := views, sb := sb, colpois := cp % 2 ^ nt } }, o')
    else .error .check

/-- The scale set's section. -/
def parseScale (rd : Nat → Nat → Rec Nat) (p : Pair) (o : Nat) : Rec (Pair × Nat) := do
  let n := lanesOf p / 32
  let (_, q, o') ← parseSection rd o 5 0 (n + n / 8)
  let m ← parseMap rd 127 id q 1 n
  let b ← rd (q + n) (n / 8)
  .ok ({ p with scale := m, scalePois := b }, o')

/-- The window's section, where the window has bits. -/
def parseWindow (rd : Nat → Nat → Rec Nat) (p : Pair) (o : Nat) : Rec (Pair × Nat) :=
  if p.win = 0 then .ok (p, o)
  else do
    let n := lanesOf p * winEntries p
    let (_, q, o') ← parseSection rd o 6 0 (4 * n)
    let m ← parseMap rd (windowFill p) (BitVec.ofNat 32) q 4 n
    .ok ({ p with window := m }, o')

/-- The generators' section; a state of 0 is restored as 1. -/
def parseGens (rd : Nat → Nat → Rec Nat) (p : Pair) (o : Nat) : Rec (Pair × Nat) := do
  let (_, q, o') ← parseSection rd o 7 0 (4 * lanesOf p)
  let m ← parseMap rd (0 : Word) (fun v => if v = 0 then 1 else BitVec.ofNat 32 v) q 4 (lanesOf p)
  .ok ({ p with gens := m }, o')

/-- The sections of a KIND 2 or 3 record. -/
def parseSections (rd : Nat → Nat → Rec Nat) (p : Pair) (o : Nat) : Rec Pair := do
  let (p, o) ← (usedRegs p).foldlM (fun (x : Pair × Nat) r => parseReg rd x.1 x.2 r) (p, o)
  let (p, o) ← (List.range 9).foldlM (fun (x : Pair × Nat) n => parseMask rd x.1 x.2 n) (p, o)
  let (p, o) ← (List.range p.accrows).foldlM (fun (x : Pair × Nat) n => parseRow rd x.1 x.2 n) (p, o)
  let (p, o) ← parseTile rd p o
  let (p, o) ← parseScale rd p o
  let (p, o) ← parseWindow rd p o
  (parseGens rd p o).map (·.1)

/-- VTYPE of a record into a pair: counts 0 to 8, WIN a multiple of 32 up to 2,048 (R332); every register takes the entry
tag of its group (R286).  An RM of 5 to 7, which no save writes, is read as stochastic (log entry 55). -/
def parseVtype (v w seed : Nat) (p : Pair) : Rec Pair :=
  let gc := groupCounts v
  let gw := groupWidths v
  let win := bitsOf v 51 40
  if gc.all (· ≤ 8) ∧ win % 32 = 0 ∧ win ≤ 2048 then
    .ok { p with gc := gc, gw := gw, rm := rmOfCode (bitsOf v 34 32), win := win, wf := w.testBit 0,
                  wop := bitsOf w 2 1, tags := groupTags gw, seed := BitVec.ofNat 32 seed, gens := [] }
  else .error .check

/-- What a restore yields: KIND, the pair, the harts with what the record says of their waits. -/
structure Restored where
  kind : Nat
  p : Pair
  a : Hart × WaitPart
  e : Hart × WaitPart

/-- The TCM copy of a record can be read; a poisoned block of it is no failure (R284). -/
def recTcm (s : State) (c : Ctx) (va n : Nat) : Rec Unit :=
  (List.range (ceilDiv n 64)).foldlM (fun _ b => do
    let a ← recAccess s c (va + 0x1000 + 64 * b)
    if checkSector s a.key a.gen = .violation then .error .violation else .ok ()) ()

/-- Restores a record at an address onto a pair freshly made from its launch (R332): an error when a check or a read
fails. -/
def parseRecord (s : State) (c : Ctx) (va : Nat) (base : Pair) (a e : Hart) : Rec Restored := do
  let rd (o n : Nat) : Rec Nat := recNat s c (va + o) n
  let version ← rd 0 2
  let kind ← rd 2 1
  let pairs ← rd 3 1
  let lanes ← rd 4 2
  if version = 1 ∧ 1 ≤ kind ∧ kind ≤ 3 ∧ pairs = base.pairs ∧ (kind = 1 ∨ lanes = lanesOf base) then
    let p ← parseVtype (← rd 8 8) (← rd 0x28 8) (← rd 0x20 8) base
    let ha ← parseHart (fun o n => rd (0x100 + o) n) a
    let he ← parseHart (fun o n => rd (0x500 + o) n) e
    let q ← (List.range 8).mapM (fun n => parseQueue rd (0x900 + 0x88 * n))
    let p := { p with q := q }
    if kind ≠ 3 then recTcm s c va base.tcmb
    if kind = 1 then .ok { kind := kind, p := p, a := ha, e := he }
    else
      let p ← parseSections rd p (← rd 0x30 8)
      .ok { kind := kind, p := p, a := ha, e := he }
  else .error .check

/-- The bytes of a record that a restore reads: those the record says it has, within the room it was given (R330). -/
def recordSpan (s : State) (c : Ctx) (va room : Nat) : Nat :=
  match recNat s c (va + 0x18) 8 with
  | .ok n => min n room
  | .error _ => 64

/-- The one-shot fires at the sectors of a record that the hub reads (R351). -/
def fireRecord (s : State) (c va room : Nat) : State :=
  if s.hub.arm then
    (upFrom (va / 64) (ceilDiv (va + recordSpan s (ctxOf s c) va room) 64)).foldl (fun s i =>
      match ctxAccess s (ctxOf s c) (64 * i) .read false with
      | .ok a => fireFor s (some c) none a.key (allocates s c (64 * i) none)
      | _ => s) s
  else s

/-- What follows a restore that cannot go on: an integrity violation ends the context (R204); else the walk is seen to
(R195, R198), and the item ends as `end_` says (R332). -/
def recFailed (s : State) (c va room : Nat) (bad : RecBad) (end_ : State → State) : State :=
  match bad with
  | .violation => failContext s c
  | .fault f at_ => end_ (walkDone s c none f at_)
  | .check => end_ (fireRecord s c va room)

/-! ## The state of an item while it is saved -/

/-- Whether a hart is where a save may take it: its wait, if any, has no decision and no withdrawal in flight (R258,
R301). -/
def hartSettled (h : Hart) : Bool :=
  match h.wait with
  | some w => w.decided.isNone && w.withdrawing.isNone
  | none => true

/-- Whether the accesses of a hart are performed (R229). -/
def hartDrained (s : State) (h : Hart) : Bool := !s.reqs.any (fun r => r.uid == h.uid)

/-- The drains of a save (R229, R251, R287): the pair's queue, the accesses of both harts, the XCOPYs of the item. -/
def pairDrained (s : State) (pid : Nat) (it : Nat × Nat) : Bool :=
  match getPair s pid, getHart s (2 * pid), getHart s (2 * pid + 1) with
  | some p, some a, some e =>
    p.dq.isEmpty && p.chg.isNone && hartSettled a && hartSettled e && hartDrained s a && hartDrained s e &&
      !s.cmds.any (fun m => m.item == it && m.op == .xcopy)
  | _, _, _ => false

/-- A hart as the item keeps it: its wait stands with the item, and it runs when it is restored. -/
def keepHart (h : Hart) : Hart :=
  { h with wait := none, issuedAt := none, issue := if h.issue = .ended then .ended else .ready }

/-- A wait with the keys of its words changed. -/
def mapWait (f : Nat → Nat) (w : Wait) : Wait :=
  { w with kind := match w.kind with
    | .bar key ph pending scope => .bar (f key) ph pending scope
    | .lock key scope => .lock (f key) scope
    | .ldwait key c cmp scope => .ldwait (f key) c cmp scope
    | .waitv all ents => .waitv all (ents.map (fun e => (f e.1, e.2)))
    | k => k }

/-- A hold with the key of its word changed. -/
def mapHold (f : Nat → Nat) (h : Hold) : Hold :=
  { h with obj := match h.obj with
    | .word k => .word (f k)
    | o => o }

/-- The holds of an item's harts with the keys of their words changed. -/
def mapHolds (s : State) (t i : Nat) (f : Nat → Nat) : State :=
  { s with holds := s.holds.map (fun h => if h.uid = uidOf t i 0 ∨ h.uid = uidOf t i 1 then mapHold f h else h) }

/-- The key by which the Umpire knows a byte of a pair's TCM allocation while its item is saved: the object of a wait or
hold is the same byte of the allocation wherever that is bound (R263, R288). -/
def keyAway (p : Pair) (pid t i key : Nat) : Nat :=
  let base := tcmKey (2 * pid) p.tcmBase
  if base ≤ key ∧ key < base + p.tcmb then savedKey t i (key - base) else key

/-- The key of a byte of a saved item's TCM on the pair where it is bound again. -/
def keyBack (p : Pair) (pid t i key : Nat) : Nat :=
  if isSaved key && savedItemOf key == (t, i) then tcmKey (2 * pid) p.tcmBase + (key - 2 ^ 100) % 2 ^ 20 else key

/-- The phases of the barrier words in a pair's TCM that its harts are members of or wait on. -/
def tcmPhases (s : State) (p : Pair) (pid t i : Nat) (ws : List (Nat × Wait)) : List (Nat × Nat) :=
  let held := s.holds.filterMap (fun h => match h.obj with
    | .word k => if h.uid = uidOf t i 0 ∨ h.uid = uidOf t i 1 then some k else none
    | _ => none)
  ((ws.flatMap (fun e => wordsOf e.2.kind) ++ held).eraseDups.filter (fun k => keyAway p pid t i k != k)).map
    (fun k => (keyAway p pid t i k, barPhase (readLoc s k 8)))

/-- Moves what the record does not hold, and the registrations the Umpire keeps (R288), from the pair to the item. -/
def keepItem (s : State) (t i pid : Nat) : State :=
  let hs := [0, 1].filterMap (fun r => (getHart s (2 * pid + r)).map (fun h => (r, h)))
  let p := (getPair s pid).getD {}
  let ws := hs.filterMap (fun e => e.2.wait.map (fun w => (e.2.uid, w)))
  modItem (mapHolds s t i (keyAway p pid t i)) t i (fun x => { x with
    waits := ws.map (fun e => (e.1, mapWait (keyAway p pid t i) e.2))
    phases := tcmPhases s p pid t i ws
    prios := (hs.filter (fun e => e.2.issue ≠ .ended)).map (fun e => (e.2.uid, e.2.prio))
    harts := hs.map (fun e => (e.1, keepHart e.2)) })

/-- A bind record (R281): VALID, CTX, PC, ITEM, LTAG, RES. -/
def bindRecord (ctx pairs idx ltag : Nat) (res : Bool) : Dword :=
  BitVec.ofNat 64 (1 + ctx % 64 * 2 + (if pairs = 8 then 3 else pairs / 2 % 4) * 2 ^ 7 + idx % 2 ^ 17 * 2 ^ 9 + ltag % 2 ^ 16 * 2 ^ 26
    + (if res then 2 ^ 42 else 0))

/-- Writes a bind record in a die's slot table; its VALID bit going to 1 starts the pair (R281). -/
def setSlot (s : State) (pid : Nat) (v : Dword) : State := { s with slots := SMap.set 0 s.slots pid v }

/-- Frees a pair (R312): nothing of the item stays in it, and its bind record is not valid. -/
def freePair (s : State) (pid : Nat) : State :=
  let s := modPair (setSlot s pid 0) pid (fun _ => {})
  modHart (modHart s (2 * pid) (fun _ => {})) (2 * pid + 1) (fun _ => {})

/-- Writes the record of the item bound to a pair. -/
def writeSave (s : State) (t i pid kind : Nat) : State :=
  match getPair s pid, getHart s (2 * pid), getHart s (2 * pid + 1) with
  | some p, some a, some e =>
    let va := (((getLaunch s t).bind (getItem · i)).bind (·.saveVa)).getD 0
    putPieces p.ctx va (recordPieces s p pid kind i t a e) s
  | _, _, _ => s

/-- The status register and the E bit of a waiting instruction of the kind of a wait; none of any other instruction. -/
def waitForm (i : Instr) (k : WaitKind) : Option (BitVec 5 × BitVec 1) :=
  match i, k with
  | .qsend d _ _ e _, .qsend _ _ => some (d, e)
  | .qrecv _ a _ e _, .qrecv _ _ => some (a, e)
  | .waits d _ _ e _, .waits _ _ => some (d, e)
  | .barwt d _ _ e _, .bar _ _ pending _ => if pending then none else some (d, e)
  | .baraw d _ _ e _, .bar _ _ pending _ => if pending then some (d, e) else none
  | .lock d _ _ e _, .lock _ _ => some (d, e)
  | .ldwait d _ _ e _ _, .ldwait _ _ _ _ => some (d, e)
  | .waitv d _ _ e _ _, .waitv _ _ => some (d, e)
  | .sleep d _ e, .sleep => some (d, e)
  | .fence d _ e _ _ _, .fence _ _ _ => some (d, e)
  | .sbar d _ e _, .sbar _ _ => some (d, e)
  | _, _ => none

/-- A kept wait under the instruction word that a restore finds (R330, R332): that word, where it is a legal instruction of
the wait's kind; else the wait stands as it was kept (log entry 74). -/
def rewordWait (w : Wait) (word : Nat) : Wait :=
  match decodeTableWord 32 word with
  | some i =>
    (match waitForm i w.kind with
     | some (d, e) => if i.wf then { w with word := word, rd := d.toNat, esc := e == 1 } else w
     | none => w)
  | none => w

/-- A hart as a restore leaves it: ended, in its wait with the remaining budget under the word found, its first resident
cycle counted, or ready (R288, R258, R332).  A STATE above 2, or of a wait that the Umpire does not keep, is read as running
(log entry 55). -/
def resumeHart (h : Hart) (f : WaitPart) (w : Option Wait) (now : Nat) : Hart :=
  let h := { h with wait := none, issuedAt := none, chkCount := 0, probeFrom := none }
  if f.st = 2 then
    { h with issue := .ended, endCode := match h.endCode with
        | some e => some e
        | none => some (0, 0, now) }
  else
    match f.st, w with
    | 1, some w =>
      { h with issue := .waiting, wait := some { rewordWait w f.word with budget := f.budget, counted := min 1 f.budget }, endCode := none }
    | _, _ => { h with issue := .ready, endCode := none }

/-- The wait that a saved item kept for a role, on the words of the pair it is restored to. -/
def keptWait (s : State) (t i pid : Nat) (p : Pair) (role : Nat) : Option Wait :=
  (((getLaunch s t).bind (getItem · i)).bind (fun it => it.waits.find? (fun e => e.1 == uidOf t i role))).map
    (fun e => mapWait (keyBack p pid t i) e.2)

/-- Puts a restored item on a pair: the pair, its harts, the waits and holds it kept, those on its TCM now on the words
there; a wait the record no longer shows is removed. -/
def putRestored (s : State) (t i pid : Nat) (r : Restored) : State :=
  let wait : Nat → Option Wait := keptWait s t i pid r.p
  let drop (role st : Nat) (s : State) : State := if st = 1 then s else freeWait s r.p.ctx (dieFor (2 * pid)) (wait role)
  let s := drop 1 r.e.2.st (drop 0 r.a.2.st (mapHolds s t i (keyBack r.p pid t i)))
  let put (role : Nat) (x : Hart × WaitPart) (s : State) : State :=
    modHart s (2 * pid + role) (fun _ => { resumeHart x.1 x.2 (wait role) s.now with uid := uidOf t i role })
  put 1 r.e (put 0 r.a (modPair s pid (fun _ => r.p)))

/-- Copies the TCM copy of a record back, poison included (R284). -/
def restoreTcm (s : State) (c : Ctx) (va : Nat) (p : Pair) (pid : Nat) : State :=
  (List.range (ceilDiv p.tcmb 64)).foldl (fun s b =>
    match recAccess s c (va + 0x1000 + 64 * b) with
    | .ok a =>
      let key := tcmKey (2 * pid) p.tcmBase + 64 * b
      setPois (writeBytes s key (readBytes s a.key (min 64 (p.tcmb - 64 * b)))) key
        (checkSector s a.key a.gen == .media)
    | .error _ => s) s

/-! ## Operands read again (R292, R334) -/

/-- What a waiting instruction of the hart in focus waits for when its operands are read again after a halt: the kind
of its wait, or the trap of a check that now fails.  `old` is the hart before the halt, with its wait: a WAITV whose word
and table address are unchanged keeps the table it read at issue (R305). -/
def reread (s : State) (old : Hart) (w : Wait) : Prep :=
  let same (va : Dword) (kind : AccKind) (key : Nat) (f : Acc → State → Prep) : Prep :=
    wordPrep va kind (fun x s => if wordOf x.key = wordOf key then .wait w.kind w.gens [va.toNat] s else f x s) s
  match decodeTableWord 32 w.word, w.kind with
  | some (.qsend _ a _ _ q), .qsend n _ =>
    .wait (.qsend (if maySend (roleOfCur s) q.toNat then q.toNat else n) (xr s a)) [] [] s
  | some (.qrecv d _ _ _ q), .qrecv n _ => .wait (.qrecv (if maySend (roleOfCur s) q.toNat then n else q.toNat) d.toNat) [] [] s
  | some (.waits _ a _ _ n), .waits _ _ =>
    match semOf s (clusOf s.cur) n.toNat with
    | some k => .wait (.waits k (field (xr s a) 31 0)) [] [] s
    | none => .trapped (trapHere causeACCESS (n.setWidth 64) s)
  | some (.barwt _ a _ _ c), .bar k _ _ _ => same (xr s a) .rmw k (barPrep c.toNat (xr s a).toNat)
  | some (.baraw _ a _ _ c), .bar k _ _ _ => same (xr s a) .rmw k (barPrep c.toNat (xr s a).toNat)
  | some (.lock _ a _ _ c), .lock k _ => same (xr s a) .rmw k (lockPrep c.toNat (xr s a).toNat)
  | some (.ldwait d a _ _ c k), .ldwait _ _ _ _ =>
    wordPrep (xr s a) .read (fun x s => .wait (.ldwait x.key k.toNat (xr s d) c.toNat) [x.gen] [(xr s a).toNat] s) s
  | some (.waitv _ a _ _ n m), .waitv _ _ =>
    let va := xr s a
    if va = readX old a ∧ old.wait.map (·.word) = some w.word then .wait w.kind w.gens w.vas s
    else if va.toNat % 16 ≠ 0 then .trapped (trapHere causeACCESS va s)
    else
      match readTable s va (n.toNat + 1) [] with
      | .inr s' => .trapped s'
      | .inl es => tablePrep s (m == 1) es []
  | _, k => .wait k w.gens w.vas s

/-- The wait of the hart in focus goes on with its operands read again; on another object its edges are new, and the
Umpire registers them afresh (R271, R292). -/
def rereadWait (old : Hart) (s : State) : State :=
  match s.h.wait with
  | none => s
  | some w =>
    match reread s old w with
    | .trapped s' => freeWait { s' with h := { s'.h with wait := none } } s.p.ctx (dieFor s.cur) (some w)
    | .wait k gens vas s =>
      let w' : Wait := if objsOf s.h.uid k = objsOf s.h.uid w.kind then w else { w with found := none, answered := false }
      { s with h := { s.h with wait := some { w' with kind := k, gens := gens, vas := vas } } }
    | .took k s => finishWait s { w with kind := k } 0

/-- Reads the operands of a restored hart's wait again where the record's registers or word are not those it was saved
with (R332): no record holds an operand. -/
def rereadRestored (s : State) (id : Nat) (old : Hart) (r : Hart × WaitPart) : State :=
  if r.2.st = 1 ∧ (r.1.x ≠ old.x ∨ old.wait.map (·.word) ≠ some r.2.word) then withHart s id (rereadWait old) else s

end Sys2Proof.Machine
end

