-- ==== Sys2Proof/Machine/Record.lean ====
section
/-! DEFINITION. A launch record (spec/02_execution.md R28-R35), its kernel image (spec/03_encoding.md R94, R95;
spec/15_attachment.md R364-R366), the checks of R34 in their order, and the placement of instances on cores
(R31, R32, R280). -/
namespace Sys2Proof.Machine
open Sys2Proof

/-! ## What ends a check -/

/-- Why a check of a record ends without passing: a refusal code; a translation that failed (ADDRFAULT); a page the host
has to bring; a media error at a key and address; an integrity violation. -/
inductive Bad
  | code (n : Nat)
  | trans (va : Nat)
  | page (va : Nat)
  | media (key va : Nat)
  | violation
  deriving DecidableEq, Repr

/-- A check: passed with a value, or ended. -/
abbrev Chk (α : Type) := Except Bad α

/-- A condition with its refusal code. -/
def need (b : Bool) (code : Nat) : Chk Unit := if b then .ok () else .error (.code code)

/-- An access of the hub for a context at U (R34, R359): one that fails is ADDRFAULT. -/
def chkAccess (s : State) (c : Ctx) (va : Nat) (kind : AccKind) : Chk Acc :=
  match ctxAccess s c va kind true with
  | .ok a => .ok a
  | .violation => .error .violation
  | .fault f => .error (if f = causePAGEREQ then .page va else if f = causeTRANS then .trans va else .code 0x18)

/-- Reads `n` bytes that lie in one sector. -/
def readPart (s : State) (c : Ctx) (va n : Nat) : Chk (List Byte) := do
  let a ← chkAccess s c va .read
  match checkSector s a.key a.gen with
  | .good => .ok (readBytes s a.key n)
  | .media => .error (.media a.key va)
  | .violation => .error .violation

/-- Reads bytes sector by sector. -/
def readParts (s : State) (c : Ctx) : Nat → Nat → Nat → Chk (List Byte)
  | 0, _, _ => .ok []
  | f + 1, va, n =>
    if n = 0 then .ok []
    else do
      let m := min n (64 - va % 64)
      let b ← readPart s c va m
      let r ← readParts s c f (va + m) (n - m)
      pure (b ++ r)

/-- Reads `n` bytes from an address of a context at U. -/
def readCtx (s : State) (c : Ctx) (va n : Nat) : Chk (List Byte) := readParts s c (n / 64 + 2) va n

/-- Translates every byte of a range, page by page (check 8). -/
def spanOk (s : State) (c : Ctx) (kind : AccKind) (va n : Nat) : Chk Unit :=
  if n = 0 then .ok ()
  else
    (upFrom (va / 4096) (ceilDiv (va + n) 4096)).foldlM
      (fun _ p => (chkAccess s c (max va (p * 4096)) kind).map (fun _ => ())) ()

/-- The field of `n` bytes at an offset. -/
def fieldOf (bs : List Byte) (o n : Nat) : Nat := ofBytesLE ((bs.drop o).take n)

/-! ## The record's own fields (checks 1 to 4) -/

/-- A level: domain, scope, count (R29). -/
def levelOf (w : Nat) : Nat × Nat × Nat := (bitsOf w 2 0, bitsOf w 5 3, bitsOf w 31 16)

/-- The product of the COUNTs of a domain (R31). -/
def domProd (l : List (Nat × Nat × Nat)) (d : Nat) : Nat :=
  (l.filter (fun e => e.1 == d)).foldl (fun m e => m * e.2.2) 1

/-- Number of instances (R32). -/
def instances (l : List (Nat × Nat × Nat)) : Nat := l.foldl (fun m e => m * e.2.2) 1

/-- Levels stand from outer to inner domain. -/
def levelsRise : List (Nat × Nat × Nat) → Bool
  | a :: b :: l => decide (a.1 ≤ b.1) && levelsRise (b :: l)
  | _ => true

/-- The minimum SCOPE of a domain (R31). -/
def minScope (d : Nat) : Nat := [6, 6, 5, 4, 3, 2].getD d 0

/-- The fields of a record as a launch (R28). -/
def launchOf (tag c qidx : Nat) (bs : List Byte) : Launch :=
  let f (o n : Nat) : Nat := fieldOf bs o n
  { ltag := tag, ctx := c, qidx := qidx, prio0 := f 2 1 % 16, pairs := f 4 1, accrows := f 5 1, kimage := f 8 8,
    entry := 0, arglen := f 0x14 4, args := BitVec.ofNat 64 (f 0x18 8), cword := f 0x20 8, itemst := f 0x28 8,
    vgroups := f 0x30 8, tcmb := f 0x38 4, scrb := f 0x3C 4, dsrb := f 0x40 4, deps := [],
    levels := (List.range (min (f 3 1) 8)).map (fun i => levelOf (f (0x68 + 8 * i) 8)), pins := 0,
    prio := f 2 1 % 16 }

/-- Checks 1 to 4 of R34. -/
def checkFields (bs : List Byte) (l : Launch) : Chk Unit := do
  let nlev := fieldOf bs 3 1
  need (fieldOf bs 0 2 == 1) 0x10
  need (decide (1 ≤ nlev) && decide (nlev ≤ 8)) 0x11
  need (l.levels.all (fun e => decide (e.1 ≤ 5) && decide (1 ≤ e.2.2)) && levelsRise l.levels) 0x11
  need (l.levels.all (fun e => decide (e.2.1 ≤ 6) && decide (minScope e.1 ≤ e.2.1))) 0x12
  need ([1, 2, 4, 8].contains l.pairs && decide (l.accrows ≤ 32) && (groupCounts l.vgroups).all (· ≤ 8)
    && domProd l.levels 5 == l.pairs) 0x13

/-! ## Placement (R31, R32, R280) -/

/-- Bytes of die-shared SRAM that every die has (R27, R34): where the dies' steps differ, the least (log entry 61). -/
def dsrSize (s : State) : Nat := (s.hub.dsrSteps.foldl min 8) * 2 ^ 23

/-- The lowest 64-aligned place of `n` bytes below `cap` beside what is used. -/
def firstFit (cap : Nat) (used : List (Nat × Nat)) (n : Nat) : Option Nat :=
  ((0 :: used.map (fun u => up64 (u.1 + u.2))).filter (fun o =>
      decide (o + n ≤ cap) && used.all (fun u => decide (o + n ≤ u.1) || decide (u.1 + u.2 ≤ o)))).foldl
    (fun m o => match m with
      | some v => some (min v o)
      | none => some o) none

/-- The scratchpad allocations of a cluster. -/
def scrUsed (s : State) (clus : Nat) : List (Nat × Nat) :=
  s.launches.flatMap (fun l => (l.scr.filter (fun e => e.1 == clus)).map (fun e => (e.2, l.scrb)))

/-- The die-shared allocations of a die. -/
def dsrUsed (s : State) : List (Nat × Nat) := s.launches.flatMap (fun l => l.dsr.map (fun b => (b, l.dsrb)))

/-- The place for a launch's scratchpad in a cluster. -/
def scrPlace (s : State) (clus n : Nat) : Option Nat := firstFit (2 ^ 22) (scrUsed s clus) n

/-- The place for a launch's die-shared SRAM, the same on every die. -/
def dsrPlace (s : State) (n : Nat) : Option Nat := firstFit (dsrSize s) (dsrUsed s) n

/-- The first `n` of a list, where it has as many. -/
def takeExact {α : Type} (n : Nat) (l : List α) : Option (List α) := if n ≤ l.length then some (l.take n) else none

/-- The first `n` usable cores of a cluster. -/
def placeCluster (ok : Nat → Bool) (clus n : Nat) : Option (List Nat) :=
  takeExact n (((List.range 8).map (clus * 8 + ·)).filter ok)

/-- The first `pc` clusters of a die with `pk` usable cores each. -/
def placeDie (ok : Nat → Bool) (die pc pk : Nat) : Option (List Nat) :=
  (takeExact pc ((List.range 8).filterMap (fun c => placeCluster ok (die * 8 + c) pk))).map List.flatten

/-- The cores of a launch in the order of their linear indexes, on cores that a test allows: the lowest numbered that
fit (log entry 10).  Of levels over several packages these are the instances of this one, which come first (R32). -/
def placeCores (l : Launch) (ok : Nat → Bool) : Option (List Nat) :=
  (takeExact (domProd l.levels 2) ((List.range 4).filterMap (fun d =>
    placeDie ok d (domProd l.levels 3) (domProd l.levels 4)))).map List.flatten

/-- The instances of a launch that run in this package; the others run in peers (log entry 12). -/
def nearCount (l : Launch) : Nat := instances l.levels / max 1 (domProd l.levels 1)

/-- Whether a core belongs to a context's partition (R282, R357). -/
def inPart (c : Ctx) (core : Nat) : Bool := c.part.testBit core

/-- The placement in the context's whole partition, as if every unit were free (R280). -/
def placeWhole (c : Ctx) (l : Launch) : Option (List Nat) := placeCores l (inPart c)

/-- Check 5 of R34: the limits of the part and the group, then the context's partition. -/
def checkLimits (s : State) (c : Ctx) (l : Launch) : Chk Unit := do
  need (decide (domProd l.levels 0 ≤ 1) && decide (domProd l.levels 1 ≤ popcount s.hub.reach 32)
    && decide (domProd l.levels 2 ≤ 4) && decide (domProd l.levels 3 ≤ 8) && decide (domProd l.levels 4 ≤ 8)
    && decide (l.tcmb * l.pairs ≤ 2 ^ 19) && decide (l.scrb ≤ 2 ^ 22) && decide (l.dsrb ≤ dsrSize s)) 0x14
  need (placeWhole c l).isSome 0x15

/-! ## The image (check 6) -/

/-- R94: the record fits the kernel it names. -/
def fitsKernel (e : List Byte) (l : Launch) (tcm scr : Nat) : Bool :=
  let f (o n : Nat) : Nat := fieldOf e o n
  let decl := f 8 1
  let lev := (List.range (f 9 1)).map (fun i => levelOf (f (0x14 + 4 * i) 4))
  (!decl.testBit 0 || (lev.length == l.levels.length &&
      (List.zip lev l.levels).all (fun x =>
        x.1.1 == x.2.1 && x.1.2.1 == x.2.2.1 && (x.1.2.2 == 0 || x.1.2.2 == x.2.2.2))))
    && (!decl.testBit 1 || f 0xA 1 == l.pairs)
    && (!decl.testBit 2 || f 0xC 4 == l.vgroups % 2 ^ 32)
    && (!decl.testBit 3 || decide (f 0xB 1 ≤ l.accrows))
    && decide (tcm ≤ l.tcmb) && decide (scr ≤ l.scrb)

/-- Check 6 of R34 (R364, R365, R94): the launch with its entry, sections, relocations and pins, and TOTAL. -/
def checkImage (s : State) (c : Ctx) (kindex : Nat) (l : Launch) : Chk (Launch × Nat) := do
  let h ← readCtx s c l.kimage 128
  let f (o n : Nat) : Nat := fieldOf h o n
  need (f 0 4 == 0x314B494F && f 4 2 == 1 && decide (1 ≤ f 6 1) && decide (f 6 1 ≤ 3) && f 0x12 2 != 0) 0x16
  let ncap := f 0x10 2
  let total := f 0x1C 4
  let secs := (List.range 4).map (fun i => (f (0x20 + 8 * i) 4, f (0x24 + 8 * i) 4))
  need (secs.all (fun x => decide (x.1 + x.2 ≤ total)) && decide (f 0x14 4 + 2 * ncap ≤ total)
    && decide (f 0x18 4 + 64 * f 0x12 2 ≤ total) && decide (f 0x40 4 + 8 * f 0x44 4 ≤ total)
    && decide (kindex < f 0x12 2)) 0x16
  let caps ← readCtx s c (l.kimage + f 0x14 4) (2 * ncap)
  need ((List.range ncap).all (fun i => decide (1 ≤ fieldOf caps (2 * i) 2) && decide (fieldOf caps (2 * i) 2 ≤ 6))) 0x16
  let e ← readCtx s c (l.kimage + f 0x18 4 + 64 * kindex) 64
  need (fieldOf e 4 4 % 2 == 0 && decide (fieldOf e 9 1 ≤ 8)) 0x16
  need (fitsKernel e l (secs.getD 2 (0, 0)).2 (secs.getD 3 (0, 0)).2) 0x16
  pure ({ l with
    entry := l.kimage + (secs.getD 0 (0, 0)).1 + fieldOf e 4 4
    pins := BitVec.ofNat 64 (f 8 8)
    secs := secs
    rel := (f 0x40 4, f 0x44 4) }, total)

/-! ## Pins and addresses (checks 7 and 8) -/

/-- The pins the part provides (R366). -/
def providesPins : Dword := 0

/-- Whether an item of a context is bound or PRE-EMPTED. -/
def ctxBusy (s : State) (c : Nat) : Bool :=
  s.launches.any (fun l => l.ctx == c && l.items.any (fun it =>
    isBound it || it.st == .preempted))

/-- Check 7 (R366). -/
def checkPins (s : State) (c : Nat) (l : Launch) : Chk Unit :=
  need (l.pins &&& ~~~providesPins == 0 && (!ctxBusy s c || (ctxOf s c).pins.getD l.pins == l.pins)) 0x17

/-- A dependence entry (R30): the physical semaphore and its threshold. -/
def depOf (s : State) (c w : Nat) : Chk (Option (Nat × Nat)) :=
  if !w.testBit 19 then pure none
  else
    let pkg := bitsOf w 18 14
    match ctxSem s c (bitsOf w 18 9) (bitsOf w 8 0) with
    | some k => if pkg < s.hub.pkgs ∧ s.hub.reach.testBit pkg then pure (some (k, bitsOf w 63 32)) else .error (.code 0x18)
    | none => .error (.code 0x18)

/-- Check 8: every address the record names, and its dependences. -/
def checkAddrs (s : State) (c : Nat) (bs : List Byte) (total : Nat) (l : Launch) : Chk Launch := do
  let x := ctxOf s c
  spanOk s x .read l.kimage total
  need (l.cword % 8 == 0) 0x18
  spanOk s x .write l.cword 8
  need (l.itemst % 4 == 0) 0x18
  if l.itemst ≠ 0 then spanOk s x .write l.itemst (4 * instances l.levels)
  let deps ← (List.range 4).mapM (fun i => depOf s c (fieldOf bs (0x48 + 8 * i) 8))
  pure { l with deps := deps.filterMap id }

/-- The checks of R34 in their order, on the 256 bytes of a record. -/
def checkRecord (s : State) (c : Nat) (bs : List Byte) (l : Launch) : Chk Launch := do
  checkFields bs l
  checkLimits s (ctxOf s c) l
  let (l, total) ← checkImage s (ctxOf s c) (fieldOf bs 0x10 2) l
  checkPins s c l
  checkAddrs s c bs total l

/-! ## Entry state (R39) and images (R95) -/

/-- The coordinates of an instance at its levels (R32), outermost first. -/
def coords : List (Nat × Nat × Nat) → Nat → List Nat
  | [], _ => []
  | e :: l, i => i / instances l % e.2.2 :: coords l i

/-- Four coordinates in one register. -/
def packCoords (l : List Nat) : Dword :=
  BitVec.ofNat 64 ((l.take 4).foldr (fun c v => c + v * 65536) 0)

/-- A hart at the kernel entry (R39); bit 0 of the pc is 0 (R19), also of an image or section at an odd address. -/
def entryHart (l : Launch) (tvec : Dword) (idx role stamp : Nat) : Hart :=
  let cs := coords l.levels idx
  let x : Vector Dword 32 := Vector.replicate 32 0
  let x := x.set 10 l.args
  let x := x.set 11 (BitVec.ofNat 64 idx)
  let x := x.set 12 (packCoords cs)
  let x := x.set 13 (packCoords (cs.drop 4))
  let x := x.set 14 (BitVec.ofNat 64 (instances l.levels))
  { pc := BitVec.ofNat 64 l.entry &&& ~~~1#64, x := x, prio := BitVec.ofNat 4 l.prio0, tvec := tvec, issue := .ready,
    uid := uidOf l.ltag idx role, flushAt := stamp }

/-- A pair at the kernel entry (R39), on a partition, with its allocations. -/
def entryPair (l : Launch) (idx part scr dsr : Nat) : Pair :=
  { item := some (l.ltag, idx), ctx := l.ctx, pairs := l.pairs, accrows := l.accrows, tcmb := l.tcmb,
    tcmBase := part * (2 ^ 19 / l.pairs), scrb := l.scrb, scrBase := scr, dsrb := l.dsrb, dsrBase := dsr,
    prio := BitVec.ofNat 4 l.prio0, gw := groupWidths l.vgroups, gc := groupCounts l.vgroups,
    tags := groupTags (groupWidths l.vgroups), seed := BitVec.ofNat 32 idx }

/-- Writes 0 over what is listed in a range and clears its poison (R189). -/
def zeroRange (s : State) (key n : Nat) : State :=
  let inside := (s.mem.map (·.1)).filter (fun k => decide (key ≤ k) && decide (k < key + n))
  let s := inside.foldl (fun s k => writeByte s k 0) s
  { s with poison := s.poison.filter (fun e => !(decide (key / 64 ≤ e.1) && decide (e.1 * 64 < key + n))) }

/-- The base of a section (R95). -/
def sectionBase (l : Launch) (n : Nat) : Nat :=
  match n with
  | 0 => l.kimage + (l.secs.getD 0 (0, 0)).1
  | 1 => l.kimage + (l.secs.getD 1 (0, 0)).1
  | 2 => 0x7FFF0000000000
  | _ => 0x7FFF1000000000

/-- The bytes of an image at bind; one that cannot be read any more is a free value (log entry 32). -/
def imageBytes (s : State) (c : Ctx) (va n : Nat) : List Byte :=
  (List.range n).map (fun i =>
    match readPart s c (va + i) 1 with
    | .ok [b] => b
    | _ => BitVec.ofNat 8 (Config.freeNat s.free (40000 + i)))

/-- Adds the base of a label's section to the doubleword at an offset, where it lies whole in the copy. -/
def relocate (l : Launch) (sec : Nat) (copy : List Byte) (w : Nat) : List Byte :=
  let o := w % 2 ^ 32
  if bitsOf w 33 32 = sec ∧ o + 8 ≤ copy.length then
    copy.take o ++ natBytes ((fieldOf copy o 8 + sectionBase l (bitsOf w 35 34)) % 2 ^ 64) 8 ++ copy.drop (o + 8)
  else copy

/-- The ranges of an image that the hub reads at bind: .tcm, .scratch, the relocations (R95). -/
def imageSpans (l : Launch) : List (Nat × Nat) :=
  [l.secs.getD 2 (0, 0), l.secs.getD 3 (0, 0), (l.rel.1, 8 * l.rel.2)].map (fun x => (l.kimage + x.1, x.2))

/-- What one read of an image at bind entails: a failed walk is seen to (R195, R198), the one-shot fires (R351), an
integrity violation ends the context (R204), after which nothing more is read. -/
def readImageAt (c : Nat) (x : State × Bool) (va : Nat) : State × Bool :=
  if x.2 then x
  else
    let s := x.1
    match readPart s (ctxOf s c) va 1 with
    | .ok _ => (s, false)
    | .error .violation => (failContext s c, true)
    | .error (.trans at_) => (walkDone s c none causeTRANS at_, false)
    | .error (.page at_) => (sendPri s c at_, false)
    | .error (.media k at_) => (fireFor s (some c) none k (allocates s c at_ none), false)
    | .error (.code _) => (s, false)

/-- The hub reads an image at bind; true where that ended the context. -/
def readImage (s : State) (l : Launch) : State × Bool :=
  (imageSpans l).foldl (fun x sp =>
    if sp.2 = 0 then x
    else (upFrom (sp.1 / 64) (ceilDiv (sp.1 + sp.2) 64)).foldl (fun x i => readImageAt l.ctx x (max sp.1 (64 * i))) x) (s, false)

/-- The copy of .tcm (2) or .scratch (3) with its relocations (R95). -/
def sectionCopy (s : State) (l : Launch) (sec : Nat) : List Byte :=
  let c := ctxOf s l.ctx
  let (off, len) := l.secs.getD sec (0, 0)
  (List.range l.rel.2).foldl (fun copy i =>
      relocate l sec copy (ofBytesLE (imageBytes s c (l.kimage + l.rel.1 + 8 * i) 8)))
    (imageBytes s c (l.kimage + off) len)

end Sys2Proof.Machine
end

