-- ==== Sys2Proof/Machine/Launch.lean ====
section
/-! DEFINITION. The hub and the Referee cores at work on launches (spec/15_attachment.md R359-R362, R367;
spec/02_execution.md R33-R40; spec/11_progress_rules.md R279-R290; spec/14_recovery.md R346): queues and records,
dependences, binding, pre-emption, saves, rebinding, retirement, completion words. -/
namespace Sys2Proof.Machine
open Sys2Proof

/-! ## Queues (R359-R362) -/

/-- Stops a queue on an error, with its QUEUEERR event (R358, R361, R362). -/
def stopQueue (s : State) (c ecode : Nat) : State :=
  let s := modCtx s c (fun x => { x with run := false, err := true, ecode := ecode })
  sendEvent s 7 (some c) (natBytes ecode 2)

/-- A write of TAIL (R361): accepted up to the length of the ring beyond HEAD; QLOG before the first QSET, and a slot that
holds no context, are log entry 85. -/
def kickTail (s : State) (c : Nat) (v : Word) : State :=
  match getCtx s c with
  | none => s
  | some x => if (v - x.head).toNat ≤ 2 ^ x.qlog then modCtx s c (fun x => { x with tail := v }) else stopQueue s c 1

/-- KICK_TAIL_WRITE (R361). -/
def execKickTailWrite (c : Nat) (v : Word) (s : State) : Out := .next (kickTail s c v)

/-- Where the record at HEAD lies (R359). -/
def recordVa (x : Ctx) : Nat := x.qbase + 256 * (x.head.toNat % 2 ^ x.qlog)

/-- The hub asks the host for a page (R34, R198, R362). -/
def askPage (s : State) (c va : Nat) : State :=
  modCtx (sendPri s c va) c (fun x =>
    if x.hubPages.any (fun e => e.1 == va / 4096) then x else { x with hubPages := x.hubPages ++ [(va / 4096, false)] })

/-- Whether the host has refused a page the hub asked for. -/
def pageRefused (s : State) (c va : Nat) : Bool := (ctxOf s c).hubPages.any (fun e => e == (va / 4096, true))

/-- Forgets a refused page. -/
def forgetPage (s : State) (c va : Nat) : State :=
  modCtx s c (fun x => { x with hubPages := x.hubPages.filter (fun e => e.1 != va / 4096) })

/-- The hub has done with a record: the launch stands. -/
def takeRecord (s : State) (c : Nat) (l : Launch) : State :=
  modCtx { s with launches := s.launches ++ [l], ltags := s.ltags + 1 } c (fun x => { x with record := none })

/-- A refused record (R34): no items; its completion word carries the code. -/
def refuseRecord (s : State) (c code : Nat) (l : Launch) : State :=
  takeRecord s c { l with st := .retired, code := code }

/-- A record that passed (R37): QUEUED, with its items, those of peer packages marked; the context's pins are fixed
while nothing of it runs (R366). -/
def queueRecord (s : State) (c : Nat) (l : Launch) : State :=
  let s := if ctxBusy s c then s else modCtx s c (fun x => { x with pins := some l.pins })
  takeRecord s c { l with
    st := .queued
    items := (List.range (instances l.levels)).map (fun i => { idx := i, far := decide (nearCount l ≤ i) }) }

/-- The outcome of the checks of a record. -/
def settleRecord (s : State) (c : Nat) (l : Launch) (r : Chk Launch) : State :=
  match r with
  | .ok l => queueRecord s c l
  | .error (.code n) => refuseRecord s c n l
  | .error (.trans va) => refuseRecord (walkDone s c none causeTRANS va) c 0x18 l
  | .error (.media k va) => refuseRecord (fireFor s (some c) none k (allocates s c va none)) c 0x18 l
  | .error .violation => refuseRecord (failContext s c) c 0x18 l
  | .error (.page va) =>
    if pageRefused s c va then refuseRecord (forgetPage s c va) c 0x18 l else askPage s c va

/-- Checks a record that has been read (R34). -/
def checkRead (s : State) (c idx : Nat) (bs : List Byte) : State :=
  let l := launchOf s.ltags c idx bs
  settleRecord s c l (checkRecord s c bs l)

/-- Reads the record at HEAD, which advances, and checks it (R34, R361, R362). -/
def readRecord (s : State) (c : Nat) (x : Ctx) : State :=
  match readCtx s x (recordVa x) 256 with
  | .ok bs =>
    let s := modCtx s c (fun y => { y with record := some (x.head.toNat, bs), head := x.head + 1 })
    checkRead s c x.head.toNat bs
  | .error (.code _) => stopQueue s c 2
  | .error (.trans va) => stopQueue (walkDone s c none causeTRANS va) c 2
  | .error (.media k va) => stopQueue (fireFor s (some c) none k (allocates s c va none)) c 2
  | .error .violation => stopQueue (failContext s c) c 2
  | .error (.page va) => if pageRefused s c va then stopQueue (forgetPage s c va) c 3 else askPage s c va

/-- Whether a context's queue has a record to read, or one read whose checks go on, which QSTOP does not stop (R357,
R361); one that waits for a page response does not go on before it. -/
def recordDue (s : State) (c : Nat) : Bool :=
  match getCtx s c with
  | some x => (x.record.isSome || (x.run && x.head != x.tail)) && !x.hubPages.any (fun e => !e.2 && x.pri.contains e.1)
  | none => false

/-- LAUNCH_RECORD_READ (R34, R361). -/
def execLaunchRecordRead (c : Nat) (s : State) : Out :=
  .next (if recordDue s c then
      (match (ctxOf s c).record with
       | some (i, bs) => checkRead s c i bs
       | none => readRecord s c (ctxOf s c))
    else s)

/-! ## Dependences (R30, R37, R38) -/

/-- Whether a dependence carries the sticky error bit. -/
def depsErr (s : State) (l : Launch) : Bool := l.deps.any (fun d => semErr (semSeen s d.1))

/-- Whether every dependence is satisfied. -/
def depsMet (s : State) (l : Launch) : Bool :=
  l.deps.all (fun d => decide (d.2 ≤ semValue (semSeen s d.1)))

/-- LAUNCH_READY (R37). -/
def execLaunchReady (t : Nat) (s : State) : Out :=
  .next (match getLaunch s t with
    | some l =>
      if l.st = .queued ∧ depsErr s l = false ∧ depsMet s l = true then
        modLaunch s t (fun l => { l with st := .ready, readyAt := s.stamp, items := l.items.map (fun it => { it with st := .ready }) })
      else s
    | none => s)

/-- Retires a launch of which nothing ran: every item NOTRUN (R36). -/
def notRun (code : Nat) (l : Launch) : Launch :=
  { l with st := .retired, code := code, items := l.items.map (fun it => { it with st := .retired, icode := some (7, 0) }) }

/-- LAUNCH_DEPERR (R35, R38): the sticky error bit goes before satisfaction. -/
def execLaunchDeperr (t : Nat) (s : State) : Out :=
  .next (match getLaunch s t with
    | some l => if l.st = .queued ∧ depsErr s l = true then modLaunch s t (notRun 3) else s
    | none => s)

/-! ## Items and units -/

/-- The effective priority of an item: the higher of its harts' (R268). -/
def itemEp (s : State) (t i : Nat) : Nat := max (ep s (uidOf t i 0)) (ep s (uidOf t i 1))

/-- The pairs that hold an item. -/
def boundPairs (s : State) : List (Nat × Pair) := (allPairs s).filter (fun e => e.2.item.isSome)

/-- Whether a cluster is among the hub's free resources: ON, and no QUIESCE has taken its first step there (R373, R374). -/
def clusterFree (s : State) (clus : Nat) : Bool :=
  let x := cpcOf s clus
  x.st == 0 && !(x.cmd == 1 && x.running)

/-- Whether a core can take a launch: idle, its cluster free, room for the scratchpad allocation there. -/
def coreFree (s : State) (l : Launch) (core : Nat) : Bool :=
  clusterFree s (core / 8) && !(boundPairs s).any (fun e => e.1 / 8 == core) &&
    (l.scrb == 0 || (scrPlace s (core / 8) l.scrb).isSome)

/-- The cores of a launch now, none of those in `avoid` (R280). -/
def placeNow (s : State) (l : Launch) (avoid : List Nat) : Option (List Nat) :=
  if l.dsrb ≠ 0 ∧ (dsrPlace s l.dsrb).isNone then none
  else placeCores l (fun g => inPart (ctxOf s l.ctx) g && coreFree s l g && !avoid.contains g)

/-! ## Save pools (R367) -/

/-- The room reserved for the record of one item. -/
def reserveSize (l : Launch) : Nat :=
  let n := 8192 / l.pairs
  let m := 32 / l.pairs
  0x1000 + up64 l.tcmb
    + (3168 * n + 32 * 16)
    + 9 * (16 + up64 (ceilDiv (455 * n) 8))
    + l.accrows * (16 + up64 (4 * n + n / 8))
    + (16 + up64 (8 + 133152 * m))
    + (16 + up64 (n / 32 + n / 256))
    + (16 + 256 * n)
    + (16 + 4 * n)

/-- What is reserved in a context's pool, as offsets. -/
def poolUsed (s : State) (c : Nat) (x : Ctx) : List (Nat × Nat) :=
  (s.launches.filter (fun l => l.ctx == c)).flatMap (fun l =>
    l.items.filterMap (fun it => it.saveVa.map (fun va => (va - x.poolVa, reserveSize l))))

/-- Places for `n` records of a size, each the lowest that fits. -/
def poolPlaces (cap size : Nat) : Nat → List (Nat × Nat) → Option (List Nat)
  | 0, _ => some []
  | n + 1, used => do
    let o ← firstFit cap used size
    let r ← poolPlaces cap size n ((o, size) :: used)
    some (o :: r)

/-- The addresses of the records of a launch's items, where the pool has room for all. -/
def savePlaces (s : State) (l : Launch) : Option (List Nat) :=
  let x := ctxOf s l.ctx
  (poolPlaces x.poolLen (reserveSize l) (l.items.filter (fun it => !it.far)).length (poolUsed s l.ctx x)).map (·.map (x.poolVa + ·))

/-! ## Who is served (R279, R280, R282, R284) -/

/-- Whether the first of two READY launches is served first. -/
def servedBefore (a b : Launch) : Bool :=
  if a.prio ≠ b.prio then decide (b.prio < a.prio)
  else if a.readyAt ≠ b.readyAt then decide (a.readyAt < b.readyAt)
  else decide (a.ltag < b.ltag)

/-- Puts a launch in its place among others. -/
def insertLaunch (a : Launch) : List Launch → List Launch
  | [] => [a]
  | b :: l => if servedBefore a b then a :: b :: l else b :: insertLaunch a l

/-- Launches of a context that are bound. -/
def boundLaunches (s : State) (c : Nat) : Nat := (s.launches.filter (fun l => l.ctx == c && l.st == .running)).length

/-- The READY launches that their context's quota and save pool let bind, in the order of R279. -/
def readyOrder (s : State) : List Launch :=
  ((s.launches.filter (fun l => l.st == .ready && decide (boundLaunches s l.ctx < (ctxOf s l.ctx).bound)
      && (savePlaces s l).isSome))).foldl (fun m l => insertLaunch l m) []

/-- The PRE-EMPTED items that may be bound again: launch, item, effective priority. -/
def savedItems (s : State) : List (Launch × Item × Nat) :=
  s.launches.flatMap (fun l =>
    (l.items.filter (fun it => it.st == .preempted && it.icode.isNone && !it.cancel)).map
      (fun it => (l, it, itemEp s l.ltag it.idx)))

/-- Whether a PRE-EMPTED item goes before a launch (R284): its ep is at least the launch's priority, and their
partitions share a unit (log entry 10). -/
def heldBack (s : State) (l : Launch) : Bool :=
  (savedItems s).any (fun x => decide (l.prio ≤ x.2.2) && (ctxOf s x.1.ctx).part &&& (ctxOf s l.ctx).part != 0)

/-- The launch the hub binds next, with its cores (R280): the head, or a lower one on cores that the head's placement
does not use. -/
def bindChoice (s : State) : Option (Launch × List Nat) :=
  let try_ (l : Launch) (avoid : List Nat) : Option (Launch × List Nat) :=
    if heldBack s l then none else (placeNow s l avoid).map (fun g => (l, g))
  match readyOrder s with
  | [] => none
  | h :: rest =>
    match placeNow s h [] with
    | some g => if heldBack s h then none else some (h, g)
    | none => rest.findSome? (fun l => try_ l ((placeWhole (ctxOf s h.ctx) h).getD []))

/-! ## Binding (R280, R281, R189, R39) -/

/-- Ages the other READY launches (R279). -/
def ageLaunches (s : State) (t : Nat) : State :=
  { s with launches := s.launches.map (fun l =>
      if l.st = .ready ∧ l.ltag ≠ t then
        (if s.hub.agestep ≤ l.age + 1 then { l with age := 0, prio := min 15 (l.prio + 1) } else { l with age := l.age + 1 })
      else l) }

/-- Gives a launch its scratchpad and die-shared allocations, zeroed, with the image of .scratch (R189, R95). -/
def allocShared (s : State) (l : Launch) (cores : List Nat) (image : List Byte) : State :=
  let s :=
    if l.dsrb = 0 then s
    else
      let base := (dsrPlace s l.dsrb).getD 0
      let s := modLaunch s l.ltag (fun l => { l with dsr := [base] })
      (List.range 4).foldl (fun s d => zeroRange s (dsrKey 0 d base) l.dsrb) s
  if l.scrb = 0 then s
  else
    (cores.map (· / 8)).eraseDups.foldl (fun s clus =>
      let base := (scrPlace s clus l.scrb).getD 0
      let s := modLaunch s l.ltag (fun l => { l with scr := l.scr ++ [(clus, base)] })
      let key := scrKey (clus * 128) base
      writeBytes (zeroRange s key l.scrb) key image) s

/-- Sets up a pair and starts its harts (R39, R281). -/
def startPair (s : State) (pid : Nat) (p : Pair) (a e : Hart) : State :=
  let put (id : Nat) (h : Hart) (s : State) : State :=
    if id = s.cur then { s with h := h } else { s with harts := insertKey s.harts id h }
  let s := if pid = pairOf s.cur then { s with p := p } else { s with pairs := insertKey s.pairs pid p }
  put (2 * pid + 1) e (put (2 * pid) a s)

/-- The scratchpad base of a launch in a cluster. -/
def scrBaseOf (l : Launch) (clus : Nat) : Nat := ((l.scr.find? (fun e => e.1 == clus)).map (·.2)).getD 0

/-- Binds one instance to a pair: its TCM zeroed with the image of .tcm, the entry state, its bind record, BOUND. -/
def bindItem (s : State) (t idx core saveVa : Nat) (image : List Byte) : State :=
  match getLaunch s t with
  | none => s
  | some l =>
    let part := idx % l.pairs
    let pid := core * 8 + part
    let p := entryPair l idx part (scrBaseOf l (core / 8)) (l.dsr.headD 0)
    let key := tcmKey (2 * pid) p.tcmBase
    let s := writeBytes (zeroRange s key l.tcmb) key image
    let tvec := (ctxOf s l.ctx).tvec
    let s := startPair s pid p (entryHart l tvec idx 0 s.stamp) (entryHart l tvec idx 1 s.stamp)
    let s := setSlot s pid (bindRecord l.ctx l.pairs idx t false)
    modItem s t idx (fun it => { it with st := .bound, pair := pid, boundAt := s.stamp, saveVa := some saveVa })

/-- Binds a launch whose image has been read to its cores. -/
def bindOn (s : State) (l : Launch) (cores : List Nat) (tcm scr : List Byte) : State :=
  let saves := (savePlaces s l).getD []
  let s := ageLaunches s l.ltag
  let s := modLaunch s l.ltag (fun l => { l with st := .running, age := 0 })
  let s := allocShared s l cores scr
  l.items.foldl (fun s it =>
    if it.far then modItem s l.ltag it.idx (fun x => { x with st := .bound })
    else bindItem s l.ltag it.idx (cores.getD (it.idx / l.pairs) 0) (saves.getD it.idx 0) tcm) s

/-- Binds a launch whole to its cores (R280); the instances of peer packages run there.  Where reading its image ends the
context, nothing is bound. -/
def bindLaunch (s : State) (l : Launch) (cores : List Nat) : State :=
  let r := readImage s l
  if r.2 then r.1 else bindOn r.1 l cores (sectionCopy s l 2) (sectionCopy s l 3)

/-- LAUNCH_PACKET (R280): the launch the hub binds next is bound whole. -/
def execLaunchPacket (t : Nat) (s : State) : Out :=
  .next (match bindChoice s with
    | some (l, cores) => if l.ltag = t then bindLaunch s l cores else s
    | none => s)

/-! ## Pre-emption (R283, R285) -/

/-- The bound items on some cores: launch tag, item index, ep, when bound, whether a request is pending. -/
def occupants (s : State) (cores : List Nat) : List (Nat × Nat × Nat × Nat × Bool) :=
  (boundPairs s).filterMap (fun e =>
    match e.2.item with
    | some (t, i) =>
      if cores.contains (e.1 / 8) then
        ((getLaunch s t).bind (getItem · i)).map (fun it => (t, i, itemEp s t i, it.boundAt, it.preq.isSome))
      else none
    | none => none)

/-- Whether a launch has room beside the allocations that no save frees: die-shared SRAM, scratchpads (R284). -/
def roomFor (s : State) (l : Launch) (cores : List Nat) : Bool :=
  (l.dsrb == 0 || (dsrPlace s l.dsrb).isSome) &&
    (l.scrb == 0 || cores.all (fun g => (scrPlace s (g / 8) l.scrb).isSome))

/-- The item the Referee cores ask to pre-empt next (R283): the head cannot be placed, saves would make its placement
free, every item on its units is of lower ep or already asked, and among those not asked the lowest ep goes first, then
the one bound most recently, then the first by pair (log entry 10). -/
def victim (s : State) : Option (Nat × Nat) :=
  match readyOrder s with
  | [] => none
  | h :: _ =>
    if (placeNow s h []).isSome then none
    else
      match placeWhole (ctxOf s h.ctx) h with
      | none => none
      | some cores =>
        let occ := occupants s cores
        if roomFor s h cores && occ.all (fun o => o.2.2.2.2 || decide (o.2.2.1 < h.prio)) && cores.all (fun g => clusterFree s (g / 8)) then
          ((occ.filter (fun o => !o.2.2.2.2)).foldl (fun (m : Option (Nat × Nat × Nat × Nat × Bool)) o =>
            match m with
            | none => some o
            | some b =>
              if o.2.2.1 < b.2.2.1 ∨ (o.2.2.1 = b.2.2.1 ∧ b.2.2.2.1 < o.2.2.2.1) then some o else some b) none).map
            (fun o => (o.1, o.2.1))
        else none

/-- A pre-emption request reaches a bound item (R285): its grace begins. -/
def requestPreempt (s : State) (t i : Nat) : State :=
  modItem s t i (fun it => { it with preq := match it.preq with
    | some g => some g
    | none => some 0 })

/-- PREEMPT_REQUEST (R283). -/
def execPreemptRequest (t i : Nat) (s : State) : Out :=
  .next (if victim s = some (t, i) then requestPreempt s t i else s)

/-! ## Saves (R286, R287, R38) -/

/-- Whether work is bound on a die, or a launch holds die-shared SRAM, which it keeps to its retirement (R27, R189); the
second withholds pending steps on every die (log entry 80). -/
def dieBusy (s : State) (d : Nat) : Bool :=
  (boundPairs s).any (fun e => e.1 / 512 == d) || s.launches.any (fun l => !l.dsr.isEmpty)

/-- The die-shared steps asked for reach each die on which no work is bound (R27, R357). -/
def applyDsr (s : State) : State :=
  { s with hub := { s.hub with dsrSteps := s.hub.dsrSteps.mapIdx (fun d n => if dieBusy s d then n else s.hub.dsrWant) } }

/-- Whether a hart has taken the request: an ended hart counts (R285). -/
def hasTaken (h : Hart) : Bool := h.issue == .halted || h.issue == .ended

/-- What a save finds: the pair of a bound item with a request pending, and its harts, not both ended. -/
def saveOf (s : State) (t i : Nat) : Option (Launch × Item × Hart × Hart) :=
  match getLaunch s t with
  | none => none
  | some l =>
    match getItem l i with
    | none => none
    | some it =>
      match getHart s (2 * it.pair), getHart s (2 * it.pair + 1) with
      | some a, some e =>
        if isBound it ∧ it.far = false ∧ it.preq.isSome ∧ (it.halted = false ∨ it.cancel = true) ∧
            ¬(a.issue = .ended ∧ e.issue = .ended) then
          some (l, it, a, e)
        else none
      | _, _ => none

/-- Ends the harts of a cancelled item that was bound: CANCELLED (R38; log entry 49). -/
def endCancelled (s : State) (t i : Nat) (it : Item) : State :=
  modItem (endPair s it.pair 3 0) t i (fun x => { x with icode := some (3, 0), preq := none })

/-- Whether both harts of a pair have ended. -/
def pairEnded (s : State) (pid : Nat) : Bool :=
  [0, 1].all (fun r => match getHart s (2 * pid + r) with
    | some h => h.issue == .ended
    | none => true)

/-- Takes the item off its pair: saved with a record, or, when cancelled, its state discarded (R38).  An engine command that
its access hart issued after the cancel request runs on to its own status (log entry 75). -/
def takeOff (s : State) (l : Launch) (it : Item) (kind : Nat) : State :=
  if it.cancel then endCancelled s l.ltag it.idx it
  else
    let s := writeSave s l.ltag it.idx it.pair kind
    if pairEnded s it.pair then s
    else
      let s := keepItem s l.ltag it.idx it.pair
      applyDsr (freePair (modItem s l.ltag it.idx (fun x => { x with st := .preempted, preq := none })) it.pair)

/-- COOPERATIVE_SAVE (R286): both harts have taken the request, and what they issued is drained. -/
def execCooperativeSave (t i : Nat) (s : State) : Out :=
  .next (match saveOf s t i with
    | some (l, it, a, e) =>
      if hasTaken a && hasTaken e && pairDrained s it.pair (t, i) then takeOff s l it 1 else s
    | none => s)

/-- FORCED_SAVE (R287): the grace has run out, and what the harts issued is drained. -/
def execForcedSave (t i : Nat) (s : State) : Out :=
  .next (match saveOf s t i with
    | some (l, it, a, e) =>
      if graceOver s l it && !(hasTaken a && hasTaken e) && pairDrained s it.pair (t, i) then takeOff s l it 2 else s
    | none => s)

/-! ## Rebinding (R284, R288) -/

/-- Whether a pair can take a saved item: free, on a core that is idle or runs the launch's PAIRS, in the partition,
and for a launch with a scratchpad allocation in its cluster (R284). -/
def pairTakes (s : State) (l : Launch) (it : Item) (pid : Nat) : Bool :=
  let core := pid / 8
  decide (pid % 8 < l.pairs) && inPart (ctxOf s l.ctx) core && clusterFree s (core / 8) &&
    (boundPairs s).all (fun e => e.1 != pid && (e.1 / 8 != core || e.2.pairs == l.pairs)) &&
    (l.scrb == 0 || it.pair / 64 == core / 8)

/-- The cores kept for a head launch of higher priority than an item (log entry 10). -/
def keptFor (s : State) (e : Nat) : List Nat :=
  match readyOrder s with
  | h :: _ => if e < h.prio then (placeWhole (ctxOf s h.ctx) h).getD [] else []
  | [] => []

/-- The pair a saved item goes to: the lowest numbered that takes it. -/
def rebindPlace (s : State) (x : Launch × Item × Nat) : Option Nat :=
  let kept := keptFor s x.2.2
  (List.range 2048).find? (fun pid => pairTakes s x.1 x.2.1 pid && !kept.contains (pid / 8))

/-- The saved item that is rebound next (R284): the highest ep among those a pair can take, of equal ones the first by
launch and item (log entry 10), before any READY launch of no higher priority. -/
def rebindChoice (s : State) : Option (Launch × Item × Nat) :=
  let best := (savedItems s).foldl (fun (m : Option ((Launch × Item × Nat) × Nat)) x =>
    match rebindPlace s x, m with
    | none, _ => m
    | some pid, none => some (x, pid)
    | some pid, some (y, q) => if y.2.2 < x.2.2 then some (x, pid) else some (y, q)) none
  match best with
  | some ((l, it, e), pid) =>
    (match bindChoice s with
     | some (h, _) => if e < h.prio then none else some (l, it, pid)
     | none => some (l, it, pid))
  | none => none

/-- A saved item whose record at an address fails its checks ends: RESTORE (R332); M learns the address (R367). -/
def failRestore (s : State) (t i va : Nat) : State :=
  endItem { s with hub := { s.hub with restores := s.hub.restores ++ [va] } } t i 2 causeRESTORE

/-- Binds a saved item to a pair (R284, R286, R288, R332). -/
def rebind (s : State) (l : Launch) (it : Item) (pid : Nat) : State :=
  let c := ctxOf s l.ctx
  let part := pid % 8
  let base := entryPair l it.idx part (scrBaseOf l (pid / 64)) (l.dsr.headD 0)
  let old (r : Nat) : Hart := (lookupKey it.harts r).getD {}
  let va := it.saveVa.getD 0
  match parseRecord s c va base (old 0) (old 1) with
  | .error bad => recFailed s l.ctx va (reserveSize l) bad (fun s => failRestore s l.ltag it.idx va)
  | .ok r =>
    let s := setSlot (startPair s pid base {} {}) pid (bindRecord l.ctx l.pairs it.idx l.ltag true)
    let s := zeroRange s (tcmKey (2 * pid) base.tcmBase) l.tcmb
    let s := if r.kind = 3 then s else restoreTcm s c va base pid
    let s := putRestored s l.ltag it.idx pid r
    let s := modHart (modHart s (2 * pid) (fun h => { h with flushAt := s.stamp })) (2 * pid + 1)
      (fun h => { h with flushAt := s.stamp })
    let kept (role : Nat) : Hart := { old role with wait := keptWait s l.ltag it.idx pid r.p role }
    let s := rereadRestored (rereadRestored s (2 * pid) (kept 0) r.a) (2 * pid + 1) (kept 1) r.e
    modItem (fireRecord s l.ctx va (reserveSize l)) l.ltag it.idx (fun x => { x with
      st := .resumed, pair := pid, boundAt := s.stamp, waits := [], phases := [], prios := [], harts := [] })

/-- ITEM_REBIND (R284). -/
def execItemRebind (t i : Nat) (s : State) : Out :=
  .next (match rebindChoice s with
    | some (l, it, pid) => if l.ltag = t ∧ it.idx = i then rebind s l it pid else s
    | none => s)

/-! ## Retirement (R33, R36, R346) -/

/-- The code of an item from its harts (R36, R345): the larger, with its CAUSE; of equal codes that of the hart that
ended first, the access hart's when both ended at once; 0 becomes 1 when the escape indicator is set.  So too of a cancelled
item whose harts both ended by themselves before the request was taken (log entry 71). -/
def itemCode (s : State) (it : Item) : Nat × Nat :=
  match it.icode with
  | some c => c
  | none =>
    let end_ (r : Nat) : Nat × Nat × Nat := ((getHart s (2 * it.pair + r)).bind (·.endCode)).getD (0, 0, 0)
    let a := end_ 0
    let e := end_ 1
    let c := if a.1 < e.1 ∨ (a.1 = e.1 ∧ e.2.2 < a.2.2) then e else a
    if c.1 = 0 ∧ it.escape = true then (1, 0) else (c.1, c.2.1)

/-- Whether an item can retire (R346): its harts ended or, when saved, its end is decided; every command it issued is
recorded, every access of its harts performed. -/
def retireDue (s : State) (t i : Nat) (it : Item) : Bool :=
  let quiet := !s.cmds.any (fun m => m.item == (t, i)) &&
    !s.reqs.any (fun r => r.uid == uidOf t i 0 || r.uid == uidOf t i 1)
  match it.st with
  | .running | .bound | .resumed =>
    !it.far && quiet && [0, 1].all (fun r => match getHart s (2 * it.pair + r) with
      | some h => h.issue == .ended
      | none => true)
      && (((getPair s it.pair).map (·.dq.isEmpty)).getD true)
  | .preempted => quiet && it.icode.isSome
  | .queued | .ready | .retired => false

/-- Writes the status entry of an item (R36); one that cannot be written is left out (log entry 11). -/
def writeStatus (s : State) (l : Launch) (i : Nat) (c : Nat × Nat) : State :=
  match ctxAccess s (ctxOf s l.ctx) (l.itemst + 4 * i) .write true with
  | .ok a => storeHome s none l.ctx a.key a.gen (c.1 + c.2 % 256 * 256) 4
  | .fault f => walkDone s l.ctx none f (l.itemst + 4 * i)
  | .violation => failContext s l.ctx

/-- The last item of a launch has retired: its allocations end (R189). -/
def retireLaunch (s : State) (t : Nat) : State :=
  match getLaunch s t with
  | some l =>
    if l.items.all (fun it => it.st == .retired) then
      modLaunch s t (fun l => { l with st := .retired, scr := [], dsr := [] })
    else s
  | none => s

/-- Retires an item: its code, its pair, its reservation; a die left without work takes its die-shared steps (R357). -/
def retireItem (s : State) (l : Launch) (it : Item) : State :=
  let c := itemCode s it
  let s := if it.st = .preempted then s else freePair s it.pair
  let s := modItem s l.ltag it.idx (fun x => { x with
    st := .retired, icode := some c, saveVa := none, preq := none, waits := [], phases := [], prios := [], harts := [] })
  applyDsr (retireLaunch s l.ltag)

/-- ITEM_RETIRE (R346). -/
def execItemRetire (t i : Nat) (s : State) : Out :=
  .next (match getLaunch s t with
    | some l =>
      (match getItem l i with
       | some it => if retireDue s t i it then retireItem s l it else s
       | none => s)
    | none => s)

/-- The code a peer's item retires with, where this package has not ended it: what its Referee core reports (log entry
12). -/
def farCode (s : State) (it : Item) : Nat × Nat :=
  match it.icode with
  | some c => c
  | none =>
    let v := Config.freeNat s.free 2
    let c := v % 256
    let code := if 8 ≤ c ∧ c < 0x80 then 2 else c
    (code, if code = 2 ∨ code = 6 then v / 256 % 256 else 0)

/-- An item of a peer package retires: its Referee core reports (log entry 12). -/
def farRetire (t i : Nat) (s : State) : State :=
  match getLaunch s t with
  | some l =>
    (match getItem l i with
     | some it =>
       if it.far && isBound it then
         applyDsr (retireLaunch (modItem s t i (fun x => { x with st := .retired, icode := some (farCode s it), preq := none })) t)
       else s
     | none => s)
  | none => s

/-! ## Completion words (R33-R35) -/

/-- The code of the completion word. -/
def launchCode (l : Launch) : Nat :=
  if l.code ≠ 0 then l.code
  else if l.items.any (fun it => (it.icode.getD (0, 0)).1 ≠ 0) then 1 else 0

/-- The completion word (R35). -/
def completionWord (l : Launch) : Nat :=
  let failed := (l.items.filter (fun it => (it.icode.getD (0, 0)).1 ≠ 0)).length
  launchCode l + failed % 2 ^ 24 * 256 + l.items.length % 2 ^ 31 * 2 ^ 32 + 2 ^ 63

/-- The report of a completion word that cannot be written (R34, R358). -/
def cwFail (s : State) (l : Launch) : State := sendEvent s 9 (some l.ctx) (natBytes (l.qidx % 2 ^ 32 + launchCode l * 2 ^ 32) 8)

/-- Forgets a launch whose completion is reported. -/
def dropLaunch (s : State) (t : Nat) : State := { s with launches := s.launches.filter (fun l => l.ltag != t) }

/-- The addresses that a launch's completion writes: its status entries, its completion word. -/
def completionVas (l : Launch) : List Nat :=
  (if l.itemst = 0 then [] else l.items.map (fun it => l.itemst + 4 * it.idx)) ++ [l.cword]

/-- The first of those pages that the host has to bring, and has not refused (R34, R198). -/
def completionPage (s : State) (l : Launch) : Option Nat :=
  (completionVas l).find? (fun va =>
    decide (ctxAccess s (ctxOf s l.ctx) va .write true = .fault causePAGEREQ) && !pageRefused s l.ctx va)

/-- Every status entry, once every instance has retired (R33, R36). -/
def writeStatuses (s : State) (l : Launch) : State :=
  if l.itemst = 0 then s else l.items.foldl (fun s it => writeStatus s l it.idx (it.icode.getD (0, 0))) s

/-- Reports a launch's completion: the status entries, then the completion word; or one CWFAIL event (R34, R35). -/
def completeLaunch (s : State) (l : Launch) : State :=
  match completionPage s l with
  | some va => askPage s l.ctx va
  | none =>
    let s' := (completionVas l).foldl (fun s va => if pageRefused s l.ctx va then forgetPage s l.ctx va else s) (writeStatuses s l)
    if l.cword % 8 ≠ 0 then dropLaunch (cwFail s' l) l.ltag
    else
      match ctxAccess s' (ctxOf s' l.ctx) l.cword .write true with
      | .ok a =>
        if checkSector s' a.key a.gen = .violation then dropLaunch (cwFail (failContext s' l.ctx) l) l.ltag
        else dropLaunch (storeHome s' none l.ctx a.key a.gen (completionWord l) 8) l.ltag
      | .violation => dropLaunch (cwFail (failContext s' l.ctx) l) l.ltag
      | .fault f => dropLaunch (cwFail (if f = causeTRANS then walkDone s' l.ctx none f l.cword else s') l) l.ltag

/-- Whether a launch's completion is due: retired, and no page response awaited for what it writes. -/
def completionDue (s : State) (l : Launch) : Bool :=
  let x := ctxOf s l.ctx
  l.st == .retired && l.items.all (fun it => it.st == .retired) &&
    !x.hubPages.any (fun e => !e.2 && x.pri.contains e.1 && (completionVas l).any (fun va => va / 4096 == e.1))

/-- LAUNCH_COMPLETION_WRITE (R35). -/
def execLaunchCompletionWrite (t : Nat) (s : State) : Out :=
  .next (match getLaunch s t with
    | some l => if completionDue s l then completeLaunch s l else s
    | none => s)

end Sys2Proof.Machine
end

