-- ==== Sys2Proof/Machine/Cpc.lean ====
section
/-! DEFINITION. The cluster power controllers at work (spec/15_attachment.md R372-R375; spec/01_machine.md R24): the
steps of an accepted command, its end, a wake and its ends. -/
namespace Sys2Proof.Machine
open Sys2Proof

/-- Items bound in a cluster. -/
def clusterItems (s : State) (clus : Nat) : List (Nat × Nat) :=
  (boundPairs s).filterMap (fun e => if e.1 / 64 = clus then e.2.item else none)

/-- Whether a halted item is bound in a cluster (R373). -/
def clusterHalted (s : State) (clus : Nat) : Bool :=
  (clusterItems s clus).any (fun x => (((getLaunch s x.1).bind (getItem · x.2)).map (·.halted)).getD false)

/-- The reference cycles a command takes with nothing to save (R373's table). -/
def cpcCycles (cmd : Nat) : Nat :=
  match cmd with
  | 1 => 200
  | 2 => 400
  | 3 => 10
  | 4 => 500
  | _ => 0

/-- The reference cycles of the steps of a wake after the rail: clock 50, retention 1,000, each where the state it begins
from requires it (R374). -/
def wakeCycles (st : Nat) : Nat :=
  match st with
  | 2 => 1000
  | 3 => 1050
  | 4 => 1050
  | _ => 0

/-- LAST of a wake (R374): the steps that ran; from RAILOFF with the time the rail took, at most 2,000. -/
def wakeLast (now : Nat) (x : Cpc) : Nat :=
  match x.wakeFrom with
  | some 4 => 1050 + min 2000 (cpcElapsed now x - 1050)
  | some n => wakeCycles n
  | none => 0

/-- A command that fails: STATE stays, ERR with a code; a wake asked for meanwhile follows (R373, R374). -/
def cpcFail (now ecode : Nat) (x : Cpc) : Cpc :=
  let x := { x with err := true, ecode := ecode, cmd := 0, running := false, last := cpcElapsed now x }
  match x.wakeFrom with
  | some _ => { x with wakeFrom := some x.st, began := now }
  | none => { x with busy := false }

/-- LAST of a command that ends well (R373, R398): the cycles of the table; of a QUIESCE that had something to wait for, with
the time that took. -/
def cpcLast (now : Nat) (x : Cpc) : Nat := if x.cmd = 1 ∧ x.loaded = true then cpcElapsed now x else cpcCycles x.cmd

/-- A command that ends well: STATE, LAST, BUSY and DONE in one step; a wake asked for meanwhile follows. -/
def cpcFinish (now : Nat) (x : Cpc) : Cpc :=
  let x := { x with st := x.cmd, cmd := 0, running := false, last := cpcLast now x }
  match x.wakeFrom with
  | some _ => { x with wakeFrom := some x.st, began := now }
  | none => { x with busy := false, done := true }

/-- Runs the first step of a command that was accepted and has not begun. -/
def cpcBegin (s : State) (clus cmd : Nat) (f : State → State) : State :=
  let x := cpcOf s clus
  if x.busy = true ∧ x.cmd = cmd ∧ x.running = false then
    f (modCpc s clus (fun x => { x with running := true }))
  else s

/-- Whether what QUIESCE waits for is over: every save, every copy engine's queue, every access of the cluster. -/
def quiesced (s : State) (clus : Nat) : Bool :=
  (clusterItems s clus).isEmpty && !s.cmds.any (fun m => m.tce / 4 == clus) && !s.reqs.any (fun r => r.hart / 128 == clus)

/-- CPC_QUIESCE (R373): refused with a halted item present; else every item bound there is asked to leave. -/
def execCpcQuiesce (clus : Nat) (s : State) : Out :=
  .next (cpcBegin s clus 1 (fun s =>
    if clusterHalted s clus then modCpc s clus (cpcFail s.hub.refNow 2)
    else
      let t := modCpc s clus (fun x => { x with loaded := !quiesced s clus })
      (clusterItems s clus).foldl (fun s x => requestPreempt s x.1 x.2) t))

/-- CYC of each core of a cluster moves into retention and holds its value (R24, R373). -/
def holdClocks (s : State) (clus : Nat) : State :=
  (List.range 8).foldl (fun s k =>
    let core := clus * 8 + k
    if SMap.get 0 s.cyc core % 2 = 1 then s
    else { s with cyc := SMap.set 0 s.cyc core (2 * cycOf s (core * 16) + 1) }) s

/-- The cores of a cluster run again: each CYC resumes from the value it holds (R24). -/
def resumeClocks (s : State) (clus : Nat) : State :=
  (List.range 8).foldl (fun s k =>
    let core := clus * 8 + k
    if SMap.get 0 s.cyc core % 2 = 0 then s
    else { s with cyc := SMap.set 0 s.cyc core (2 * (s.now - cycOf s (core * 16))) }) s

/-- What a range of local memory held is lost: free values, no poison (R373). -/
def loseRange (s : State) (key n : Nat) : State :=
  let inside := (s.mem.map (·.1)).filter (fun k => decide (key ≤ k) && decide (k < key + n))
  let s := inside.foldl (fun s k => writeByte s k (BitVec.ofNat 8 (Config.freeNat s.free (2 ^ 64 + k)))) s
  { s with poison := s.poison.filter (fun e => !(decide (key / 64 ≤ e.1) && decide (e.1 * 64 < key + n))) }

/-- RETAIN's effect (R373): CYC into retention; the TCMs are lost, and the scratchpad unless SCRRET is 1. -/
def retainCluster (s : State) (clus : Nat) : State :=
  let s := holdClocks s clus
  let s := (List.range 8).foldl (fun s k => loseRange s (tcmKey (clus * 128 + k * 16) 0) (2 ^ 19)) s
  if (cpcOf s clus).scrret then s else loseRange s (scrKey (clus * 128) 0) (2 ^ 22)

/-- CPC_RETAIN (R373): refused with SCRRET 0 while a launch holds a scratchpad allocation there. -/
def execCpcRetain (clus : Nat) (s : State) : Out :=
  .next (cpcBegin s clus 2 (fun s =>
    if (cpcOf s clus).scrret = false ∧ scrUsed s clus ≠ [] then modCpc s clus (cpcFail s.hub.refNow 3) else retainCluster s clus))

/-- CPC_CLKGATE (R373): the cluster clocks stop. -/
def execCpcClkgate (clus : Nat) (s : State) : Out := .next (cpcBegin s clus 3 (fun s => holdClocks s clus))

/-- CPC_RAILOFF (R373). -/
def execCpcRailoff (clus : Nat) (s : State) : Out := .next (cpcBegin s clus 4 (fun s => s))

/-- Whether the running command of a cluster can end: its cycles are over, and QUIESCE's saves (R373). -/
def cpcEnds (s : State) (clus : Nat) : Bool :=
  let x := cpcOf s clus
  x.busy && x.running && x.cmd != 0 && decide (cpcCycles x.cmd ≤ cpcElapsed s.hub.refNow x) && (x.cmd != 1 || quiesced s clus)

/-- CPC_COMMAND_DONE (R373). -/
def execCpcCommandDone (clus : Nat) (s : State) : Out :=
  .next (if cpcEnds s clus then modCpc s clus (cpcFinish s.hub.refNow) else s)

/-- Whether a wake can begin: accepted, with no command before it. -/
def wakeBegins (s : State) (clus : Nat) : Bool :=
  let x := cpcOf s clus
  match x.wakeFrom with
  | some n => decide (n < 5) && !x.running && x.cmd == 0
  | none => false

/-- CPC_WAKE (R374): the sequence begins from the state the cluster holds. -/
def execCpcWake (clus : Nat) (s : State) : Out :=
  .next (if wakeBegins s clus then modCpc s clus (fun x => { x with running := true }) else s)

/-- Whether a wake is running. -/
def waking (s : State) (clus : Nat) : Bool :=
  let x := cpcOf s clus
  x.running && x.cmd == 0 && x.wakeFrom.isSome

/-- Whether a running wake can end: every step it runs has taken its time (R374). -/
def wakeEnds (s : State) (clus : Nat) : Bool :=
  let x := cpcOf s clus
  waking s clus && decide (wakeCycles (x.wakeFrom.getD 0) ≤ cpcElapsed s.hub.refNow x)

/-- CPC_WAKE_DONE (R374 steps 4 and 5): CYC resumes, STATE is ON, DONE, with ECODE 4 where the scratchpad's check failed. -/
def execCpcWakeDone (clus : Nat) (s : State) : Out :=
  .next (if wakeEnds s clus then
      modCpc (resumeClocks s clus) clus (fun x =>
        { x with st := 0, busy := false, done := true, running := false, wakeFrom := none, lost := false
                 ecode := if x.lost then 4 else x.ecode, last := wakeLast s.hub.refNow x })
    else s)

/-- CPC_RAIL_TIMEOUT (R374 step 1): a rail that does not come up within 2,000 cycles ends a wake from RAILOFF, logged as
unit 15. -/
def execCpcRailTimeout (clus : Nat) (s : State) : Out :=
  .next (if waking s clus && (cpcOf s clus).wakeFrom == some 4 && !(cpcOf s clus).lost &&
        decide (2000 ≤ cpcElapsed s.hub.refNow (cpcOf s clus)) then
      detect (modCpc s clus (fun x => { x with
          err := true, ecode := 5, st := 4, busy := false, running := false, wakeFrom := none, last := 2000 }))
        { unit := 15, sev := freeBelow s 3300 4, inst := clus }
    else s)

end Sys2Proof.Machine
end

