-- ==== Sys2Proof/Machine/Links.lean ====
section
/-! DEFINITION. The links: how the packages of a group are joined and numbered (spec/15_attachment.md R353, R354), the
ring of the dies and its fixed routes (spec/01_machine.md R14), and which accesses cross a link. -/
namespace Sys2Proof.Machine
open Sys2Proof

/-! ## Oceno Link (R353): an end of a cable is 16 times a package and a port -/

/-- The end that a port is joined to by a cable among the first `n` packages, by their places. -/
def cableTo (n e : Nat) : Option Nat :=
  let f := Config.cable e
  if 1 < n ∧ e / 16 < n ∧ f / 16 < n ∧ f / 16 ≠ e / 16 ∧ Config.cable f = e then some f else none

/-- The packages reached over the ports of one, in ascending order of ports, after those found before. -/
def searchPorts (n pos : Nat) (found : List Nat) : List Nat :=
  (List.range 16).foldl (fun l p =>
    match cableTo n (16 * pos + p) with
    | some f => if l.contains (f / 16) then l else l ++ [f / 16]
    | none => l) found

/-- The search from the package found `i`-th on, `fuel` packages being left. -/
def searchFrom (n : Nat) : Nat → Nat → List Nat → List Nat
  | 0, _, l => l
  | fuel + 1, i, l =>
    match l[i]? with
    | some pos => searchFrom n fuel (i + 1) (searchPorts n pos l)
    | none => l

/-- The places of the packages of a group in the order of their numbers: breadth first from the bridging one (R353). -/
def numbering (n : Nat) : List Nat := searchFrom n n 0 [0]

/-- The cables of a group by package numbers, each from both its ends. -/
def groupCables (n : Nat) : List (Nat × Nat) :=
  let l := numbering n
  (l.mapIdx (fun a pos => (a, pos))).flatMap (fun x => (List.range 16).filterMap (fun p =>
    (cableTo n (16 * x.2 + p)).map (fun f => (16 * x.1 + p, 16 * l.idxOf (f / 16) + f % 16))))

/-- The packages that at most `n` cables lead to from some. -/
def ball (cs : List (Nat × Nat)) : Nat → List Nat → List Nat
  | 0, l => l
  | n + 1, l =>
    let next : List Nat := (cs.filter (fun c => l.contains (c.1 / 16))).map (fun c => c.2 / 16)
    ball cs n (l ++ next).eraseDups

/-- The number of cables on a shortest path between two packages. -/
def hops (cs : List (Nat × Nat)) (a b : Nat) : Option Nat := (List.range 32).find? (fun k => (ball cs k [a]).contains b)

/-- The cables without one. -/
def without (cs : List (Nat × Nat)) (x y : Nat) : List (Nat × Nat) := cs.filter (fun c => c != (x, y) && c != (y, x))

/-- The first port of the shortest paths to a package that traffic takes, and the package behind it (R353). -/
def firstHop (cs : List (Nat × Nat)) (a d n : Nat) : Option (Nat × Nat) :=
  ((List.range 16).filterMap (fun p => (cs.find? (fun c => c.1 == 16 * a + p)).map (fun c => (p, c.2 / 16)))).find?
    (fun e => hops cs e.2 d == some n)

/-- Whether traffic passes a link. -/
inductive Passage
  | never | may | always
  deriving DecidableEq, Repr

/-- Whether traffic from one package to another passes a cable: a shortest path, with the lowest first port; which of
several it takes after that port is not stated (R353; log entry 12). -/
def onRoute (cs : List (Nat × Nat)) (x y a d : Nat) : Passage :=
  match hops cs a d with
  | some (n + 1) =>
    (match firstHop cs a d n with
     | some (p, b) =>
       let via (u v : Nat) : Bool :=
         match hops cs b (u / 16), hops cs (v / 16) d with
         | some i, some j => i + 1 + j == n
         | _, _ => false
       if 16 * a + p = x ∨ 16 * a + p = y then .always
       else if !(via x y || via y x) then .never
       else if hops (without cs x y) b d = some n then .may
       else .always
     | none => .never)
  | _ => .never

/-! ## The ring of the dies (R14): places H, C0, C1, C2, C3; link k joins places k and k + 1 -/

/-- The place of a hart's die. -/
def ringPos (hart : Nat) : Nat := if kindOf hart = 2 then 0 else dieOf hart + 1

/-- The place of the die that is home to a location; the hub's for what lies beyond the package (R14, R191). -/
def homePos (key : Nat) : Nat :=
  if isHost key then 0
  else if isHbm key then (if keyPkg key = 0 then bitsOf key 38 37 + 1 else 0)
  else if spaceOf key = 9 then key % 2 ^ 60 / 256 / 8 % 4 + 1
  else if spaceOf key = 10 ∨ spaceOf key = 11 then 0
  else ringPos (key / 2 ^ 32 % 2 ^ 19)

/-- The links of the fixed route between two places: the shorter way round (R14). -/
def ringRoute (a b : Nat) : List Nat :=
  match (b + 5 - a) % 5 with
  | 1 => [a]
  | 2 => [a, (a + 1) % 5]
  | 3 => [(a + 4) % 5, (a + 3) % 5]
  | 4 => [(a + 4) % 5]
  | _ => []

/-- The links on which traffic between two places goes while some are down: the fixed route, else the other way round, and
none where that is down too (R337 takes a link down; where its traffic then goes is not stated: log entry 78). -/
def ringWay (down : List Nat) (a b : Nat) : List Nat :=
  let short := ringRoute a b
  let other := if a = b then [] else (List.range 5).filter (fun k => !short.contains k)
  if short.all (fun k => !down.contains k) then short else if other.all (fun k => !down.contains k) then other else []

/-- The links of a package's ring that are down. -/
def ringLost (s : State) (pkg : Nat) : List Nat := (s.hub.ringDown.filter (fun e => e.1 == pkg)).map (·.2)

/-! ## What crosses a link -/

/-- Whether an access in flight of a hart to a location crosses a link (R337): ports 0 to 15 of a package are its Oceno
ports, 16 to 20 the links of its ring.  Towards a package that is lost it does; over Oceno it is out or on its way back, so
where the two ways differ it is free (log entry 12).  `k` numbers the choice. -/
def crosses (s : State) (lost port pkg hart key k : Nat) : Bool :=
  let d := domOf key
  if port < 16 then
    if d = 0 ∨ d = 32 then false
    else if lost.testBit d then true
    else
      match s.hub.cables.find? (fun c => c.1 == 16 * pkg + port) with
      | some (x, y) =>
        (match onRoute s.hub.cables x y 0 d, onRoute s.hub.cables x y d 0 with
         | .always, .always => true
         | .never, .never => false
         | _, _ => freeBelow s (5000 + k) 2 == 1)
      | none => false
  else if pkg = 0 then (ringWay (ringLost s 0) (ringPos hart) (homePos key)).contains (port - 16)
  else d == pkg && (ringWay (ringLost s pkg) 0 (bitsOf key 38 37 + 1)).contains (port - 16)

end Sys2Proof.Machine
end

