-- ==== Sys2Proof/Machine/Hub.lean ====
section
/-! DEFINITION. The hub towards the host and the board (spec/15_attachment.md R353-R358, R368-R370, R376, R377;
spec/13_isolation.md R334, R336; spec/14_recovery.md R337, R342, R346): registers, mailbox commands, events, resets,
links, detected errors, snapshots. -/
namespace Sys2Proof.Machine
open Sys2Proof

/-! ## Registers of BAR0 (R355, R356) -/

/-- A write of 4 or 8 bytes into a doubleword at an offset. -/
def mergeWrite (old off size : Nat) (v : Dword) : Dword :=
  if size = 8 then v
  else if off % 8 = 0 then BitVec.ofNat 64 (old / 2 ^ 32 * 2 ^ 32 + v.toNat % 2 ^ 32)
  else BitVec.ofNat 64 (old % 2 ^ 32 + v.toNat % 2 ^ 32 * 2 ^ 32)

/-- A write of EVHEAD (R358): held events move into the room. -/
def evheadOp (v : Word) (s : State) : State := drainHeld 256 { s with hub := { s.hub with evhead := v } }

/-- Changes the mailbox. -/
def modMb (s : State) (f : Mailbox → Mailbox) : State := { s with hub := { s.hub with mb := f s.hub.mb } }

/-- A 1 written to MBDOOR.GO (R356): the command and its arguments are copied and BUSY is set, or DROP. -/
def submit (m : Mailbox) : Mailbox :=
  if m.busy then { m with drop := true }
  else { m with busy := true, stage := 0, cmdOp := m.op.toNat, cmdArg := m.arg.toList }

/-- A write of a register, its doubleword at `r`; what is not listed ignores it (R355); after a boot that failed only the
mailbox is served (R368). -/
def regWrite (r off size : Nat) (v : Dword) (s : State) : State :=
  let w (old : Nat) : Dword := mergeWrite old off size v
  let low : Bool := size == 8 || off % 8 == 0
  let u := s.hub
  if r = 0x10000 then modMb s (fun m => { m with op := (w m.op.toNat).setWidth 16 })
  else if r = 0x10008 then modMb s (fun m => { m with drop := m.drop && !(low && v.getLsbD 1) })
  else if r = 0x10010 then (if low && v.getLsbD 0 then modMb s submit else s)
  else if 0x10040 ≤ r ∧ r < 0x100A0 then
    modMb s (fun m =>
      let n := (r - 0x10040) / 8
      if hn : n < 12 then { m with arg := m.arg.set n (w m.arg[n].toNat) } else m)
  else if u.bootResult = 2 then s
  else if r = 0x10100 then { s with hub := { u with fwwinb := w u.fwwinb.toNat &&& ~~~0xFFF#64 } }
  else if r = 0x10108 then { s with hub := { u with fwwins := (w u.fwwins.toNat).setWidth 32 } }
  else if r = 0x10110 then { s with hub := { u with fwpasid := (w u.fwpasid.toNat).setWidth 21 } }
  else if r = 0x10118 then (if low then evheadOp ((w u.evhead.toNat).setWidth 32) s else s)
  else s

/-- MMIO_REGISTER_WRITE (R355): accesses of 4 or 8 aligned bytes are served, any other is ignored. -/
def execMmioRegisterWrite (off size : Nat) (v : Dword) (s : State) : Out :=
  .next (if (size = 4 ∨ size = 8) ∧ off % size = 0 then regWrite (off / 8 * 8) off size v s else s)

/-- EVHEAD_WRITE (R358, R368). -/
def execEvheadWrite (v : Word) (s : State) : Out := .next (if s.hub.bootResult = 2 then s else evheadOp v s)

/-! ## Mailbox commands (R356, R357) -/

/-- Argument n of the running command. -/
def mbArg (s : State) (n : Nat) : Nat := (s.hub.mb.cmdArg.getD n 0).toNat

/-- The context slot of ARG0. -/
def mbSlot (s : State) : Nat := bitsOf (mbArg s 0) 10 5

/-- The running command has ended with a result and what it returns. -/
def endCmd (code : Nat) (vals : List Dword) (s : State) : State :=
  modMb s (fun m => { m with stage := 2, rcode := code, rvals := vals })

/-- Whether a command runs and stands at a stage; firmware runs after a boot that succeeded (R368). -/
def cmdRuns (s : State) (op stage : Nat) : Bool :=
  s.hub.mb.busy && s.hub.mb.stage == stage && s.hub.mb.cmdOp == op && s.hub.bootResult == 1

/-- Runs a command with the number of the package it names: NOPKG where that is absent or unreachable. -/
def mbOn (op : Nat) (f : Nat → State → State) (s : State) : Out :=
  .next (if cmdRuns s op 0 then
      let pkg := mbArg s 0 % 32
      if s.hub.pkgs ≤ pkg ∨ s.hub.reach.testBit pkg = false then endCmd 6 [] s else f pkg s
    else s)

/-- Runs a command on this package; a peer's own hub does the command of another package (log entry 12). -/
def mbCmd (op : Nat) (f : State → State) (s : State) : Out :=
  mbOn op (fun pkg s => if pkg ≠ 0 then endCmd 0 [] s else f s) s

/-- A command that acts on an existing context: NOTFOUND where the slot holds none. -/
def mbCtx (op : Nat) (f : Nat → Ctx → State → State) (s : State) : Out :=
  mbCmd op (fun s =>
    match getCtx s (mbSlot s) with
    | none => endCmd 5 [] s
    | some x => f (mbSlot s) x s) s

/-- The context CTXNEW creates; its walks see no byte as it was before the zeros that M writes (R202, R206).  Its partition
is the one the host gives, a core that R342 took out of the others included (log entry 83). -/
def newCtx (s : State) : Ctx :=
  { pasid := bitsOf (mbArg s 0) 30 11
    pgroot := BitVec.ofNat 64 (mbArg s 1) &&& 0x000FFFFFFFFF0000#64
    gen := s.genSeq
    part := mbArg s 3 + mbArg s 4 * 2 ^ 64 + mbArg s 5 * 2 ^ 128 + mbArg s 6 * 2 ^ 192
    quota := bitsOf (mbArg s 7) 15 0
    bound := bitsOf (mbArg s 7) 24 16 + 1
    shw := (mbArg s 7).testBit 25
    tvec := BitVec.ofNat 64 (mbArg s 2) &&& ~~~3#64
    poolVa := mbArg s 8
    poolLen := mbArg s 9
    xlinv := [(0, 2 ^ 55 - 1, s.stamp + 1)] }

/-- What M does with a sector when it creates a context: nothing, gives it to the context, or sets it aside for shared
use; which memory it gives is not stated, and free (R206, R315; log entry 41). -/
def sectorGift (s : State) (sec : Nat) : Nat := freeBelow s (2 ^ 62 + sec) 3

/-- A sector written with zeros under a key (R206). -/
def zeroSector (gen : Nat) (s : State) (sec : Nat) : State :=
  let s := ((s.mem.map (·.1)).filter (fun k => k / 64 == sec)).foldl (fun s k => writeByte s k 0) s
  stampGen (setPois s (64 * sec) false) (64 * sec) gen

/-- The memory that M gives to a new context is first written with zeros under that context's key, what it sets aside for
shared use under the shared key (R206, R357). -/
def giveMemory (s : State) (gen : Nat) : State :=
  let secs := (s.mem.map (fun e => sectorOf e.1) ++ s.poison.map (·.1) ++ s.secGen.map (·.1)).eraseDups.filter
    (fun x => decide (64 * x < 2 ^ 52))
  secs.foldl (fun t x =>
    if sectorGift s x = 1 then zeroSector gen t x else if sectorGift s x = 2 then zeroSector s.hub.sharedGen t x else t) s

/-- CTXNEW (R357): SLOTBUSY, BADARG, or a context with a fresh key, its memory zeroed, and no semaphores; a PASID that
another context holds is taken too (log entry 50). -/
def execCtxnew (s : State) : Out :=
  mbCmd 1 (fun s =>
    let x := newCtx s
    if (getCtx s (mbSlot s)).isSome then endCmd 3 [] s
    else if 16384 < x.quota ∨ 256 < x.bound ∨ x.poolVa % 64 ≠ 0 then endCmd 2 [] s
    else endCmd 0 [] (giveMemory { s with ctxs := insertKey s.ctxs (mbSlot s) x, genSeq := s.genSeq + 1 } x.gen)) s

/-! ### Cancellation (R38, R251) -/

/-- Cancels the wait of a hart of an item that runs or is halted; a halted hart stays so (R38, R301). -/
def cancelHart (s : State) (id : Nat) : State :=
  withHart s id (fun s =>
    if s.h.issue = .waiting then cancelWaitOp s
    else if s.h.issue = .halted then
      let t := cancelWaitOp s
      if t.h.issue = .ready then { t with h := { t.h with issue := .halted } } else t
    else s)

/-- Cancels an item (R38, R290): its waits return CANCELLED, the pending arrivals of barrier waits are withdrawn wherever
it is (R301). -/
def cancelItem (t : Nat) (s : State) (it : Item) : State :=
  match it.st with
  | .running | .bound | .resumed =>
    if it.far then modItem s t it.idx (fun x => { x with cancel := true })
    else
      let s := cancelHart (cancelHart s (2 * it.pair)) (2 * it.pair + 1)
      requestPreempt (modItem (cancelCmds s t it.idx) t it.idx (fun x => { x with cancel := true, haltReq := false })) t it.idx
  | .preempted =>
    let s := it.waits.foldl (withdrawSaved (((getLaunch s t).map (·.ctx)).getD 64)) s
    endItem (cancelCmds s t it.idx) t it.idx 3 0
  | .queued | .ready | .retired => s

/-- Cancels a launch (R38): nothing of it ran, or its items are cut short. -/
def cancelLaunch (s : State) (l : Launch) : State :=
  match l.st with
  | .queued | .ready => modLaunch s l.ltag (notRun 2)
  | .running | .bound | .preempted | .resumed =>
    l.items.foldl (cancelItem l.ltag) (modLaunch s l.ltag (fun l => { l with code := 2 }))
  | .retired => s

/-- The launch of a context by its queue index, the latest one that has not retired. -/
def launchBy (s : State) (c q : Nat) : Option Launch :=
  (s.launches.filter (fun l => l.ctx == c && l.qidx == q && l.st != .retired)).getLast?

/-- A record read whose checks wait for a page is cancelled: its launch never runs (R38). -/
def cancelRecord (s : State) (c : Nat) : State :=
  match (ctxOf s c).record with
  | some (i, bs) =>
    let l := launchOf s.ltags c i bs
    takeRecord s c (notRun 2 { l with items := (List.range (instances l.levels)).map (fun i => { idx := i }) })
  | none => s

/-- CANCEL (R357): of a launch that has not retired, a record read whose checks wait for a page included. -/
def execCancel (s : State) : Out :=
  mbCtx 6 (fun c _ s =>
    if ((ctxOf s c).record.map (·.1)) = some (bitsOf (mbArg s 1) 31 0) then endCmd 0 [] (cancelRecord s c)
    else
      match launchBy s c (bitsOf (mbArg s 1) 31 0) with
      | some l => endCmd 0 [] (cancelLaunch s l)
      | none => endCmd 5 [] s) s

/-- CTXEND in its second stage: every launch has written its completion word; the key is erased, the slot freed, with the
lane counts of the context (R342). -/
def ctxendLast (s : State) : State :=
  let c := mbSlot s
  if s.launches.any (fun l => l.ctx == c) then s
  else endCmd 0 [] { s with ctxs := eraseKey s.ctxs c, hub := { s.hub with laneErr := s.hub.laneErr.filter (fun e => e.1 / 2 ^ 21 != c) } }

/-- CTXEND (R357): the queue stops, every launch is cancelled; the command ends in a later step. -/
def execCtxend (s : State) : Out :=
  if cmdRuns s 2 1 then .next (ctxendLast s)
  else
    mbCtx 2 (fun c _ s =>
      let s := cancelRecord (modCtx s c (fun x => { x with run := false })) c
      let s := (s.launches.filter (fun l => l.ctx == c)).foldl cancelLaunch s
      modMb s (fun m => { m with stage := 1 })) s

/-! ### Queues, windows, ceilings -/

/-- QSET (R357). -/
def execQset (s : State) : Out :=
  mbCtx 3 (fun c _ s =>
    let qlog := bitsOf (mbArg s 2) 4 0
    let start := BitVec.ofNat 32 (mbArg s 3)
    if mbArg s 1 % 256 ≠ 0 ∨ qlog = 0 ∨ 16 < qlog then endCmd 2 [] s
    else endCmd 0 [] (modCtx s c (fun x => { x with
      qbase := mbArg s 1, qlog := qlog, head := start, tail := start, run := true, err := false, ecode := 0 }))) s

/-- QSTOP (R357). -/
def execQstop (s : State) : Out := mbCtx 4 (fun c _ s => endCmd 0 [] (modCtx s c (fun x => { x with run := false }))) s

/-- Whether two windows of one cluster share a semaphore; one of COUNT 0 shares none. -/
def windowsMeet (a b : Nat) : Bool :=
  decide (0 < a / 512) && decide (0 < b / 512) && decide (a % 512 < b % 512 + b / 512) && decide (b % 512 < a % 512 + a / 512)

/-- SEMWIN (R313, R357); the window of a context in a peer package is recorded here beside that package's own (log entry
12). -/
def execSemwin (s : State) : Out :=
  mbOn 5 (fun pkg s =>
    let c := mbSlot s
    let a := mbArg s 1
    let clus := 32 * pkg + bitsOf a 1 0 * 8 + bitsOf a 4 2
    let w := semwinStored (bitsOf a 13 5 + bitsOf a 23 14 * 512)
    if (getCtx s c).isNone then endCmd (if pkg = 0 then 5 else 0) [] s
    else if 512 < bitsOf a 23 14 ∨ s.ctxs.any (fun e => e.1 != c && windowsMeet w (SMap.get 0 e.2.semwin clus)) = true
    then endCmd 2 [] s
    else endCmd 0 [] (semwinWriteOp c clus (bitsOf a 13 5 + bitsOf a 23 14 * 512) s)) s

/-- CEIL (R357). -/
def execCeil (s : State) : Out := mbCtx 0x0D (fun c _ s => endCmd 0 [] (mceilWriteOp c (BitVec.ofNat 64 (mbArg s 1)) s)) s

/-- QUOTA (R357): a lower value refuses new claims only. -/
def execQuota (s : State) : Out :=
  mbCtx 0x0E (fun c _ s =>
    let q := bitsOf (mbArg s 1) 15 0
    if 16384 < q then endCmd 2 [] s else endCmd 0 [] (modCtx s c (fun x => { x with quota := q }))) s

/-! ### Halt and resume (R334) -/

/-- The item that HALT or RESUME names. -/
def mbItem (s : State) (c : Nat) : Option (Launch × Item) :=
  (launchBy s c (bitsOf (mbArg s 1) 31 0)).bind (fun l => (getItem l (mbArg s 2)).map (fun it => (l, it)))

/-- Whether an item runs with a hart that has not ended. -/
def itemLive (s : State) (it : Item) : Bool :=
  isBound it && !it.far && [0, 1].any (fun r => match getHart s (2 * it.pair + r) with
    | some h => h.issue != .ended
    | none => false)

/-- Stops the harts of a drained item and writes its KIND 3 record; the pair stays bound. -/
def haltItem (s : State) (l : Launch) (it : Item) : State :=
  let s := writeSave s l.ltag it.idx it.pair 3
  let stop (h : Hart) : Hart := if h.issue = .ended then h else { h with issue := .halted }
  let s := modHart (modHart s (2 * it.pair) stop) (2 * it.pair + 1) stop
  modItem s l.ltag it.idx (fun x => { x with halted := true, haltReq := false })

/-- HALT in its second stage: once the pair is drained. -/
def haltLast (s : State) : State :=
  match mbItem s (mbSlot s) with
  | none => endCmd 5 [] s
  | some (l, it) =>
    if it.haltReq = false ∨ itemLive s it = false then endCmd 5 [] s
    else if pairDrained s it.pair (l.ltag, it.idx) then
      endCmd 0 [BitVec.ofNat 64 (it.saveVa.getD 0)] (haltItem s l it)
    else s

/-- Whether a cluster is ON with no command accepted (R375). -/
def clusterOn (s : State) (clus : Nat) : Bool := (cpcOf s clus).st == 0 && !(cpcOf s clus).busy

/-- HALT (R334, R375): the record's address is returned; SLOTBUSY from a
QUIESCE of the item's cluster, which may have saved it, until that is ON. -/
def execHalt (s : State) : Out :=
  if cmdRuns s 7 1 then .next (haltLast s)
  else
    mbCtx 7 (fun c _ s =>
      match mbItem s c with
      | none => endCmd 5 [] s
      | some (l, it) =>
        if it.st = .preempted ∧ it.icode.isNone = true ∧ clusterOn s (it.pair / 64) = false then endCmd 3 [] s
        else if itemLive s it = false ∨ it.cancel = true then endCmd 5 [] s
        else if clusterOn s (it.pair / 64) = false then endCmd 3 [] s
        else if it.halted then endCmd 0 [BitVec.ofNat 64 (it.saveVa.getD 0)] s
        else
          modMb (modItem s l.ltag it.idx (fun x => { x with haltReq := true })) (fun m => { m with stage := 1 })) s

/-- Restores a halted item from its record onto its pair (R332, R334): operands are read afresh; a record that fails
its checks ends the item. -/
def resumeItem (s : State) (l : Launch) (it : Item) : State :=
  let pid := it.pair
  let old (r : Nat) : Hart := (getHart s (2 * pid + r)).getD {}
  let base := entryPair l it.idx (pid % 8) (scrBaseOf l (pid / 64)) (l.dsr.headD 0)
  let s := modItem s l.ltag it.idx (fun x => { x with halted := false })
  let va := it.saveVa.getD 0
  match parseRecord s (ctxOf s l.ctx) va base (old 0) (old 1) with
  | .error bad =>
    recFailed s l.ctx va (reserveSize l) bad (fun s =>
      endPair { s with hub := { s.hub with restores := s.hub.restores ++ [va] } } pid 2 causeRESTORE)
  | .ok r =>
    let s := fireRecord s l.ctx va (reserveSize l)
    let put (role : Nat) (x : Hart × WaitPart) (s : State) : State :=
      let w := (old role).wait
      let s := if x.2.st = 1 then s else freeWait s l.ctx (dieFor (2 * pid)) w
      modHart s (2 * pid + role) (fun _ => resumeHart x.1 x.2 w s.now)
    let s := put 1 r.e (put 0 r.a (modPair s pid (fun _ => r.p)))
    withHart (withHart s (2 * pid) (rereadWait (old 0))) (2 * pid + 1) (rereadWait (old 1))

/-- RESUME (R334). -/
def execResume (s : State) : Out :=
  mbCtx 8 (fun c _ s =>
    match mbItem s c with
    | some (l, it) => if it.halted then endCmd 0 [] (resumeItem s l it) else endCmd 5 [] s
    | none => endCmd 5 [] s) s

/-! ### The other commands -/

/-- The report of R370 up to the signatures. -/
def reportHead (s : State) : List Byte :=
  natBytes 1 4 ++ natBytes 0x0480 4
    ++ (List.range 16).map (fun i => Config.identityByte 0 i 0)
    ++ (List.range 48).map (fun i => Config.identityByte 1 i 0)
    ++ natBytes s.hub.bootSvn 4 ++ natBytes s.hub.fused 4 ++ natBytes providesPins.toNat 8
    ++ (upFrom 1 5).flatMap (fun n => natBytes (mbArg s n) 8) ++ natBytes 0 8

/-- The report with both signatures (log entry 3). -/
def reportBytes (s : State) : List Byte :=
  let head := reportHead s
  let v := ofBytesLE head
  head ++ (List.range 384).map (fun i => Config.identityByte 2 i v)
    ++ (List.range 29792).map (fun i => Config.identityByte 3 i v)

/-- ATTEST (R370): WINDOW where an access falls outside the firmware window (R355). -/
def execAttest (s : State) : Out :=
  mbCmd 9 (fun s =>
    endCmd (if windowOk s (mbArg s 5) 30304 then 0 else 7) [] (windowWrite s (mbArg s 5) (reportBytes s))) s

/-- EVRING (R357, R358). -/
def execEvring (s : State) : Out :=
  mbCmd 0x0A (fun s =>
    let n := bitsOf (mbArg s 2) 4 0
    if mbArg s 1 % 512 ≠ 0 ∨ n < 4 ∨ 16 < n then endCmd 2 [] s
    else endCmd 0 [] (drainHeld 256 { s with hub := { s.hub with
      evBase := mbArg s 1, evLog := n, evOn := true, evhead := 0, evtail := 0 } })) s

/-- LINKRATE (R336, R357). -/
def execLinkrate (s : State) : Out :=
  mbCmd 0x0B (fun s =>
    let rate := bitsOf (mbArg s 1) 11 4
    if rate = 0 ∨ 224 < rate then endCmd 2 [] s
    else endCmd 0 [] { s with hub := { s.hub with linkRate := s.hub.linkRate.set (bitsOf (mbArg s 1) 3 0) rate } }) s

/-- PKGCFG (R27, R357). -/
def execPkgcfg (s : State) : Out :=
  mbCmd 0x0C (fun s =>
    let a := mbArg s 1
    if 8 < bitsOf a 11 8 ∨ bitsOf a 31 12 ≠ 0 then endCmd 2 [] s
    else endCmd 0 [] (applyDsr { s with hub := { s.hub with agestep := max 1 (a % 256), dsrWant := bitsOf a 11 8 } })) s

/-- SNAPREAD (R357, R377): the window's 256 KiB to the host, and the snapshot is released. -/
def execSnapread (s : State) : Out :=
  mbCmd 0x0F (fun s =>
    if s.hub.snapHeld = false then endCmd 5 [] s
    else
      let t := windowWrite s (mbArg s 1) ((List.range (2 ^ 18)).map (snapByte s.hub))
      if windowOk s (mbArg s 1) (2 ^ 18) then endCmd 0 [] (releaseSnap t) else endCmd 7 [] t) s

/-- MAILBOX_BADOP (R357, R368): an unlisted OP, or any after a boot that failed. -/
def execMailboxBadop (s : State) : Out :=
  let m := s.hub.mb
  .next (if m.busy = true ∧ m.stage = 0 ∧ (s.hub.bootResult = 2 ∨ (s.hub.bootResult = 1 ∧ (m.cmdOp = 0 ∨ 0x0F < m.cmdOp)))
    then endCmd 1 [] s else s)

/-- MAILBOX_COMPLETE (R356): MBRES and RESULT, then BUSY clears; a command with no result of its own leaves MBRES. -/
def execMailboxComplete (s : State) : Out :=
  .next (if s.hub.mb.busy = true ∧ s.hub.mb.stage = 2 then
      modMb s (fun m => { m with
        busy := false, stage := 0, result := m.rcode, rcode := 0, rvals := []
        res := Vector.ofFn (fun i => (m.rvals[i.val]?).getD (m.res[i])) })
    else s)

/-! ## Snapshots (R376, R377) -/

/-- SNAPTRG_N (R376): held low for 4 cycles; ignored while a snapshot is held, and after an event until it has been high
for 4 (log entry 40). -/
def execSnaptrgN (s : State) : Out :=
  let t := latchSnapshot s 2 none
  .next { t with hub := { t.hub with snapLow := true } }

/-- SNAPTRG_N has been high for 4 cycles (R376). -/
def snaptrgHigh (s : State) : State := { s with hub := { s.hub with snapLow := false } }

/-- SNAPCTL_REL (R377). -/
def execSnapctlRel (s : State) : Out := .next (releaseSnap s)

/-- SNAPOUT_N_PULSE_END (R376). -/
def execSnapoutNPulseEnd (s : State) : Out := .next { s with hub := { s.hub with snapOut := false } }

/-! ## Resets (R336, R353, R368) -/

/-- The fused counter (R368): what the fuses of the part hold, raised since. -/
def fusedNow (s : State) : Nat := max s.hub.fused (Config.bankSvn 2)

/-- Whether a firmware bank boots: both signatures verify and its version is at least the fused counter. -/
def bankBoots (s : State) (b : Nat) : Bool := Config.bankGood b && decide (fusedNow s ≤ Config.bankSvn b)

/-- A core of M when firmware starts on it: its code begins somewhere in its private firmware memory, which holds the
verified image (R368, R371); where is not stated (log entry 5). -/
def startedM (s : State) (id : Nat) : Hart :=
  { mHart id with
    issue := .ready, flushAt := s.stamp
    pc := BitVec.ofNat 64 ((2 ^ 15 - 1) * 2 ^ 40 + freeBelow s (3400 + dieOf id) (2 ^ 19) * 2) }

/-- The machine after package reset and boot (R368): bank A, else bank B; HBM, not what L2 holds clean copies of, and host
memory outlast it, keys are fresh, the numbering of the group stays (R353).  Firmware that booted may ask for the fused
counter to rise to its version, and for a power clamp below the fused 1,400 W (R336): whether it does is free (log entry
5). -/
def packageReset (s : State) : State :=
  let ok := bankBoots s 0 || bankBoots s 1
  let bank := if bankBoots s 0 || !ok then 0 else 1
  let svn := Config.bankSvn bank
  let stays (k : Nat) : Bool := isHbm k || isHost k
  let r := State.reset
  { r with
    h := if ok then startedM s hubId else r.h
    harts := r.harts.map (fun e => if ok then (e.1, startedM s e.1) else e)
    mem := s.mem.filter (fun e => stays e.1)
    poison := s.poison.filter (fun e => stays (64 * e.1) && !s.hub.shotCopies.contains e.1)
    secGen := s.secGen
    genSeq := s.genSeq + 2
    stamp := s.stamp, free := s.free, nextId := s.nextId, ltags := s.ltags, inputs := s.inputs
    hub := { r.hub with
      sharedGen := s.genSeq, fwGen := s.genSeq + 1, bootBank := bank
      fused := if ok ∧ freeBelow s 15 2 = 1 then max (fusedNow s) svn else fusedNow s
      clamp := if ok then min 1400 (Config.freeNat s.free 16) else 1400
      pkgs := s.hub.pkgs, reach := s.hub.reach, cables := s.hub.cables
      ringDown := s.hub.ringDown.filter (fun e => e.1 != 0)
      bootStage := if ok then 2 else 1, bootResult := if ok then 1 else 2
      bootSvn := if ok then svn else 0 } }

/-- PACKAGE_RESET (R368). -/
def execPackageReset (s : State) : Out := .next (packageReset s)

/-- GROUP_RESET (R353): the packages at the first 1 to 32 places, as far as cables join them, numbered afresh; every
package boots. -/
def execGroupReset (n : Nat) (s : State) : Out :=
  .next (if 1 ≤ n ∧ n ≤ 32 then
      let s := packageReset s
      if s.hub.bootResult = 1 then { s with hub := { s.hub with
        pkgs := (numbering n).length, reach := 2 ^ (numbering n).length - 1, cables := groupCables n, ringDown := [], bootStage := 3 } } else s
    else s)

/-- WATCHDOG_EXPIRY (R336): the hub core is reset, and the host is told. -/
def execWatchdogExpiry (s : State) : Out := .next (modHart (sendEvent s 4 none []) hubId (fun _ => startedM s hubId))

/-- THERMAL_TRIP (R336): the core clocks stop. -/
def execThermalTrip (s : State) : Out := .next { s with hub := { s.hub with tripped := true } }

/-! ## Links (R337, R354) -/

/-- Ends the item of a hart with MEDIA (R337). -/
def endMedia (s : State) (hart : Nat) : State :=
  if (((getPair s (pairOf hart)).bind (·.item))).isSome then endPair s (pairOf hart) 4 0 else s

/-- Whether a place lies in a package that is lost. -/
def inLost (lost key : Nat) : Bool := domOf key != 0 && lost.testBit (domOf key)

/-- The queue entries with an element in a lost package: their item ends MEDIA, and those elements are dropped. -/
def dropEntries (s : State) (lost : Nat) : State :=
  let hit (e : VEntry) : Bool := (entryPlan e).any (fun a => inLost lost a.key)
  let s := ((allPairs s).filter (fun e => e.2.dq.any hit)).foldl (fun s e => endMedia s (2 * e.1)) s
  let keep (l : List ElemAcc) : List ElemAcc := l.filter (fun a => !inLost lost a.key)
  let cut (p : Pair) : Pair := { p with dq := p.dq.map (fun e => { e with
    plan := keep e.plan, binds := e.binds.map (fun b => { b with plan := keep b.plan }) }) }
  { s with p := cut s.p, pairs := s.pairs.map (fun e => (e.1, cut e.2)) }

/-- The engine commands under way with a place in a lost package: their item ends MEDIA; they finish with FAULT at the
first such place (R346). -/
def dropCmds (s : State) (lost : Nat) : State :=
  let away (l : List (Nat × Nat)) : Bool := l.any (fun a => inLost lost a.1)
  let hit (m : Cmd) : Bool := ((m.prog.map (·.places)).getD []).any away
  let s := (s.cmds.filter hit).foldl (fun s m => endItem s m.item.1 m.item.2 4 0) s
  { s with cmds := s.cmds.map (fun m =>
      match m.prog with
      | some g =>
        if g.places.any away then
          { m with prog := some { g with places := g.places.takeWhile (fun l => !away l), fail := some (causeACCESS, 0) } }
        else m
      | none => m) }

/-- The items whose accesses in flight cross a link that failed end MEDIA (R337): those of requests and completions, and,
where they are in flight, which is free, of the entries at the heads of the queues and of the commands begun. -/
def endCrossing (s : State) (lost port pkg : Nat) : State :=
  let cross (hart key k : Nat) : Bool := crosses s lost port pkg hart key k
  let flying (k : Nat) : Bool := freeBelow s (2 ^ 66 + k) 2 == 1
  let reqs := s.reqs.filter (fun r => cross r.hart r.key r.id)
  let heads := (allPairs s).filter (fun e => match e.2.dq with
    | x :: _ => flying x.id && (entryPlan x).any (fun a => cross (2 * e.1) a.key x.id)
    | [] => false)
  let cmds := s.cmds.filter (fun m => flying m.id &&
    ((m.prog.map (·.places)).getD []).any (·.any (fun a => cross m.hart a.1 m.id)))
  let s := reqs.foldl (fun s r => match r.cmd with
    | some (t, i) => endItem s t i 4 0
    | none => endMedia s r.hart) s
  let s := heads.foldl (fun s e => endMedia s (2 * e.1)) s
  cmds.foldl (fun s m => endItem s m.item.1 m.item.2 4 0) s

/-- The cables that stay when the link at a port of a package fails. -/
def cablesLeft (s : State) (port pkg : Nat) : List (Nat × Nat) :=
  match s.hub.cables.find? (fun c => c.1 == 16 * pkg + port) with
  | some (x, y) => if port < 16 then without s.hub.cables x y else s.hub.cables
  | none => s.hub.cables

/-- The packages of the group that are still reached over some cables, as a bit set. -/
def reachLeft (s : State) (cs : List (Nat × Nat)) : Nat :=
  let l := ball cs 31 [0]
  (List.range 32).foldl (fun m k => if k = 0 ∨ (l.contains k = true ∧ s.hub.reach.testBit k = true) then m + 2 ^ k else m) 0

/-- Accesses in flight to packages that are lost are answered by no home, and what their Umpires hold of this package goes
with what it holds of theirs (R267, R354). -/
def losePackages (s : State) (lost : Nat) : State :=
  let away (r : Req) : Bool := r.dom != 0 && r.dom != 32 && lost.testBit r.dom
  let gone := s.reqs.filter away
  let s := { s with reqs := s.reqs.filter (fun r => !away r) }
  let s := gone.foldl (fun s r => if reqAnswers r then answer s r none else s) s
  let s := { s with rwaits := s.rwaits.filter (fun r => !lost.testBit (pkgOf (r.uid - 2 ^ 129))) }
  removeHolds s 4 (fun h =>
    (isPeer h.uid && lost.testBit (pkgOf (h.uid - 2 ^ 129))) ||
    (match h.obj with
     | .word k => isHbm k && lost.testBit (keyPkg k)
     | .sem k => lost.testBit (k / 2 ^ 14)
     | .queue _ _ => false))

/-- A link fails (R337, R354): it is down; packages that no path reaches become unreachable; the host is told of an Oceno
port of this package (R358). -/
def failLink (s : State) (port pkg : Nat) : State :=
  let cs := cablesLeft s port pkg
  let new := if port < 16 then reachLeft s cs else s.hub.reach
  let lost := s.hub.reach - (s.hub.reach &&& new)
  let s := endCrossing (dropCmds (dropEntries s lost) lost) lost port pkg
  let mine := decide (port < 16) && pkg == 0
  let s := { s with hub := { s.hub with
    linkUp := if mine then s.hub.linkUp.set port false else s.hub.linkUp, reach := new, cables := cs
    ringDown := if port < 16 ∨ s.hub.ringDown.contains (pkg, port - 16) then s.hub.ringDown else s.hub.ringDown ++ [(pkg, port - 16)] } }
  losePackages (if mine then sendEvent s 5 none (natBytes port 1) else s) lost

/-- LINK_FAILURE (R354): the link at an Oceno port (0 to 15), or a link of the ring (16 to 20), of a package. -/
def execLinkFailure (port pkg : Nat) (s : State) : Out :=
  .next (if 21 ≤ port ∨ 32 ≤ pkg then s
    else detect (failLink s port pkg) { unit := 13, sev := 2, inst := port })

/-! ## Detected errors (R337, R342, R350) -/

/-- A lost element of a pair's lane SRAM: kp is set; in which register is not stated, its value is free; under REPMASK no
data bit changes (R350). -/
def loseLane (s : State) (rep : Bool) (p : Pair) (i : Nat) : Pair :=
  let r := freeBelow s 3200 32
  let q := if rep then p else putCodes p (tagOf p.tags r) r [(i, freeBelow s 3201 (2 ^ tagWidth (tagOf p.tags r)))]
  if i < vlmaxOf p then markKp q [i] else p

/-- A lost accumulator word, by its index over the rows of the pair. -/
def loseWord (p : Pair) (w : Nat) : Pair :=
  let n := w / lanesOf p
  let row := p.acc.getD n {}
  { p with acc := p.acc.set n { row with pois := setBit row.pois (w % lanesOf p) true } }

/-- Marks the entry at the head of a pair's queue: its check fails at a place. -/
def markHead (p : Pair) (n : Nat) (k : VoteKind) : Pair :=
  match p.dq with
  | e :: l => { p with dq := { e with votes := e.votes ++ [{ elem := n, kind := k }] } :: l }
  | [] => p

/-- The items a lost entry of the Umpire ends (R337): that of the hart, or the saved item whose number is given. -/
def endUmpire (s : State) (addr hart : Nat) : State :=
  match (getLaunch s (addr / 2 ^ 40)).bind (getItem · (addr % 2 ^ 40)) with
  | some it => if it.st = .preempted then endItem s (addr / 2 ^ 40) (addr % 2 ^ 40) 4 0 else endMedia s hart
  | none => endMedia s hart

/-- The outcome of an uncorrected error of a unit (R337); `rep` marks a report under REPMASK (R350). -/
def uncorrected (s : State) (unit inst addr hart : Nat) (rep : Bool) : State :=
  let pid := pairOf hart
  let p := (getPair s pid).getD {}
  match unit with
  | 0 | 1 | 2 | 3 | 4 =>
    let s := setPois s addr true
    if unit = 3 then modCpc s (addr / 2 ^ 32 % 2 ^ 19 / 128) (scratchLost s.hub.refNow) else s
  | 5 => modPair s pid (fun _ => loseLane s rep p addr)
  | 6 => modPair s pid (markHead · addr (if rep then .report else .differ))
  | 7 => modPair s pid (loseWord · addr)
  | 8 => modPair s pid (markHead · addr .report)
  | 9 => modPair s pid (loseWord · addr)
  | 10 => endMedia s hart
  | 12 => setErr s addr
  | 13 => if inst < 21 then failLink s inst 0 else s
  | 14 => endUmpire s addr hart
  | _ => s

/-- A corrected error of unit 6: two of the three results agree, on the right value, or, where a fault repeats in one
lane, on a wrong one (R340, R342); which is free. -/
def corrected (s : State) (unit addr hart : Nat) (rep : Bool) : State :=
  if unit = 6 ∧ rep = false ∧ freeBelow s 3006 2 = 1 then modPair s (pairOf hart) (markHead · addr .wrong) else s

/-- ADDR of a record (R348): of unit 6 by the place of the element; 0 where the field holds nothing. -/
def recordAddr (s : State) (unit addr hart : Nat) : Nat :=
  if unit = 6 then laneAddr ((getPair s (pairOf hart)).getD {}) (partOf hart) addr
  else if unit = 10 ∨ unit = 11 ∨ 13 ≤ unit then 0
  else addr

/-- SEV of an event (R348): a poisoned value, an item ended; of the hub and the M cores it is not stated. -/
def severity (s : State) (unit : Nat) (unc : Bool) : Nat :=
  if !unc then 0
  else if unit = 10 ∨ unit = 13 ∨ unit = 14 then 2
  else if unit = 15 then freeBelow s 3300 4
  else 1

/-- The counts of lanes that unit 6 records name (R342): at 16, the core leaves every partition and its items are
pre-empted. -/
def countLanes (s : State) (addr hart : Nat) : State :=
  let core := coreOf hart % 256
  let c := ((getPair s (pairOf hart)).map (·.ctx)).getD 64
  let bump (s : State) (lane : Nat) : State :=
    let key := ((c * 256 + core) * 32 + bitsOf addr 52 48) * 256 + lane
    let n := SMap.get 0 s.hub.laneErr key + 1
    let s := { s with hub := { s.hub with laneErr := SMap.set 0 s.hub.laneErr key n } }
    if n = 16 then
      let s := { s with ctxs := s.ctxs.map (fun e => (e.1, { e.2 with part := setBit e.2.part core false })) }
      (boundPairs s).foldl (fun s e =>
        match e.2.item with
        | some (t, i) => if e.1 / 8 = core then requestPreempt s t i else s
        | none => s) s
    else s
  bump (bump s (bitsOf addr 39 32)) (bitsOf addr 47 40)

/-- The report of a core of M that failed (R324, R346, R358): the items bound on a Referee core's die end. -/
def reportStop (s : State) (id : Nat) : State :=
  let h := (getHart s id).getD {}
  let s := sendEvent s 3 none (natBytes (kindOf id + dieOf id * 4) 8 ++ natBytes h.tpc.toNat 8 ++ natBytes h.tcause.toNat 8)
  if kindOf id = 1 then
    (boundPairs s).foldl (fun s e => if e.1 / 512 = dieOf id then endPair s e.1 2 causeDOUBLE else s) s
  else s

/-- The places at which the instruction at the head of a pair's queue is checked: the elements of a checked one for unit 6,
the columns of the tile for unit 8, the words of the row it folds into for unit 9 (R55). -/
def headPlaces (s : State) (unit hart : Nat) : List Nat :=
  match (getPair s (pairOf hart)).map (fun p => (p, p.dq)) with
  | some (p, e :: _) =>
    if e.role ≠ roleOf hart then []
    else if unit = 6 then (if e.checked then votePlaces p e else [])
    else
      (match e.instr with
       | .mmrow d _ _ _ | .mmrows d _ _ _ _ =>
         (List.range p.tile.nt).map (fun n => if unit = 9 then d.toNat * lanesOf p + n else n)
       | _ => [])
  | _ => []

/-- Whether an error of a unit can be met now, of units 6 and 8 at a place that the instruction at the head of the queue
checks. -/
def unitMeets (s : State) (unit addr hart : Nat) : Bool :=
  if unit = 6 ∨ unit = 8 then (headPlaces s unit hart).contains addr else decide (unit < 16)

/-- Whether the Umpire holds an entry of a hart: of its wait, or of a hold. -/
def inUmpire (s : State) (hart : Nat) : Bool :=
  match getHart s hart with
  | some h => h.wait.isSome || s.holds.any (fun x => x.uid == h.uid && x.recorded)
  | none => false

/-- Whether a unit may make a check now for a hart (R337): units 6, 8 and 9 at an instruction, unit 7 with rows to check;
scratchpads, TCM, lanes and the registers of unit 10 belong to user cores (R15), unit 15 is the cores of M; unit 14 checks an
entry of the Umpire. -/
def unitChecks (s : State) (unit hart : Nat) : Bool :=
  let user := kindOf hart == 0
  match unit with
  | 6 | 8 | 9 => !(headPlaces s unit hart).isEmpty
  | 7 => decide (0 < ((getPair s (pairOf hart)).getD {}).accrows)
  | 3 | 4 | 5 | 10 => user
  | 14 => inUmpire s hart
  | 15 => !user
  | n => decide (n < 16)

/-- The engine command that met an event of a memory (units 0 to 4): an input names it by its number above 2^20, where
the numbers of harts end (R349; log entry 88). -/
def errCmd (s : State) (unit who : Nat) : Option Cmd :=
  if 2 ^ 20 ≤ who ∧ unit ≤ 4 then s.cmds.find? (fun m => m.id == who - 2 ^ 20) else none

/-- The context and the hart an event is attributed to (R349): of an engine command the access hart of its item, if that is
bound. -/
def errOwner (s : State) (unit who : Nat) : Option Nat × Option Nat :=
  match errCmd s unit who with
  | some m => (liveCtx s m.ctx, cmdHart s m)
  | none => if (getHart s who).isSome then (ctxOfHart s who, some who) else (none, none)

/-- The notice to the access hart of a saved item whose engine command met an event (R349). -/
def noteCmd (s : State) (unit sev who : Nat) : State :=
  match errCmd s unit who with
  | some m => if cmdBound s m then s else noteSaved s m unit sev false
  | none => s

/-- HW_ERROR_DETECTED (R337, R348-R350): a detector of a unit reports; under REPMASK the report has REPSEV's severity
and REP.  Unit 11 is never uncorrected. -/
def execHwErrorDetected (unit inst addr : Nat) (unc : Bool) (hart : Nat) (s : State) : Out :=
  .next (if unitMeets s unit addr hart then
      let rep := s.hub.repmask.getLsbD unit
      let unc := (if rep then s.hub.repsev else unc) && unit != 11
      let s := { s with hub := { s.hub with repmask := s.hub.repmask &&& ~~~(1#16 <<< unit) } }
      let shown := recordAddr s unit addr hart
      let sev := severity s unit unc
      let s := noteCmd (detect s
        { unit := unit, sev := sev, rep := rep, ctx := (errOwner s unit hart).1, hart := (errOwner s unit hart).2
          inst := inst, addr := shown }) unit sev hart
      let s := if unit = 6 then countLanes s shown hart else s
      if unc then uncorrected s unit inst addr hart rep else corrected s unit addr hart rep
    else s)

/-- A free place of a unit, where its next check may be (R337, R350). -/
def repPlace (s : State) (unit hart : Nat) : Nat :=
  let p := (getPair s (pairOf hart)).getD {}
  let below (n : Nat) : Nat := freeBelow s 13 n
  match unit with
  | 0 | 2 => below (2 ^ 39)
  | 1 => if dsrSize s = 0 ∨ freeBelow s 17 2 = 0 then below (2 ^ 39) else dsrKey hart (freeBelow s 18 4) (below (dsrSize s))
  | 3 => scrKey hart (below (2 ^ 22))
  | 4 => tcmKey hart (below (2 ^ 19))
  | 5 => below (vlmaxOf p)
  | 6 | 8 | 9 => (headPlaces s unit hart).getD (below (headPlaces s unit hart).length) 0
  | 7 => below (p.accrows * lanesOf p)
  | 12 => below (32 * 512)
  | 14 => (p.item.map (fun x => x.1 * 2 ^ 40 + x.2)).getD 0
  | _ => 0

/-- A report under REPMASK that a unit's next check makes by itself (R350): where it checks, and for unit 13 on which
link, is free. -/
def repReport (unit hart : Nat) (s : State) : Out :=
  execHwErrorDetected unit (freeBelow s 14 (if unit = 13 then 21 else 4096)) (repPlace s unit hart) false hart s

end Sys2Proof.Machine
end

