-- ==== Sys2Proof/Machine/Scalar.lean ====
section
/-! DEFINITION. The scalar instructions (spec/05_results_scalar.md R122-R131) and their compact forms (R139). -/
namespace Sys2Proof.Machine
open Sys2Proof

/-! ## Values (R122-R124) -/

/-- A shift amount b[5:0] (R122). -/
def shAmt (b : Dword) : Nat := b.toNat % 64
/-- ROT: a rotation left by n (R122). -/
def rotl (a b : Dword) : Dword := (a <<< shAmt b) ||| (a >>> (64 - shAmt b))
/-- The lesser signed value. -/
def minS (a b : Dword) : Dword := if a.slt b then a else b
/-- The greater signed value. -/
def maxS (a b : Dword) : Dword := if b.slt a then a else b
/-- The lesser unsigned value. -/
def minU (a b : Dword) : Dword := if a.ult b then a else b
/-- The greater unsigned value. -/
def maxU (a b : Dword) : Dword := if b.ult a then a else b
/-- div_trunc of R123: the quotient rounded toward zero. -/
def divTrunc (n d : Int) : Int :=
  let q : Int := ((n.natAbs / d.natAbs : Nat) : Int)
  if decide (n < 0) != decide (d < 0) then -q else q
/-- DIV (R123). -/
def divS (a b : Dword) : Dword := if b = 0 then -1 else low64 (divTrunc (sx a) (sx b))
/-- REM (R123). -/
def remS (a b : Dword) : Dword := if b = 0 then a else low64 (sx a - sx b * divTrunc (sx a) (sx b))
/-- DIVU (R123). -/
def divU (a b : Dword) : Dword := if b = 0 then -1 else BitVec.ofNat 64 (a.toNat / b.toNat)
/-- REMU (R123). -/
def remU (a b : Dword) : Dword :=
  if b = 0 then a else BitVec.ofNat 64 (a.toNat - b.toNat * (a.toNat / b.toNat))
/-- CLZ (R124). -/
def clz64 (a : Dword) : Dword := if a = 0 then 64 else BitVec.ofNat 64 (63 - a.toNat.log2)
/-- CTZ (R124). -/
def ctz64 (a : Dword) : Dword := BitVec.ofNat 64 ((firstBit a.toNat 64).getD 64)
/-- POPC (R124). -/
def popc64 (a : Dword) : Dword := BitVec.ofNat 64 (popcount a.toNat 64)
/-- BREV (R124): bit i of the result is bit 63 − i of the source. -/
def brev64 (a : Dword) : Dword :=
  BitVec.ofNat 64 ((List.range 64).foldl (fun v i => if a.getLsbD (63 - i) then v + 2 ^ i else v) 0)
/-- The width SIZE names (R63, R124). -/
def sizeBits (z : BitVec 2) : Nat := 8 * 2 ^ z.toNat
/-- SEXT (R124). -/
def sextV (z : BitVec 2) (a : Dword) : Dword := low64 (signExtend a.toNat (sizeBits z))
/-- ZEXT (R124). -/
def zextV (z : BitVec 2) (a : Dword) : Dword := BitVec.ofNat 64 (zeroExtend a.toNat (sizeBits z))

/-! ## Register ALU (R122, R123) -/

/-- ADD (R122). -/
def execAdd (d a b : BitVec 5) (s : State) : Out := regOp (· + ·) d a b s
/-- SUB (R122). -/
def execSub (d a b : BitVec 5) (s : State) : Out := regOp (· - ·) d a b s
/-- AND (R122). -/
def execAnd (d a b : BitVec 5) (s : State) : Out := regOp (· &&& ·) d a b s
/-- OR (R122). -/
def execOr (d a b : BitVec 5) (s : State) : Out := regOp (· ||| ·) d a b s
/-- XOR (R122). -/
def execXor (d a b : BitVec 5) (s : State) : Out := regOp (· ^^^ ·) d a b s
/-- ANDN (R122). -/
def execAndn (d a b : BitVec 5) (s : State) : Out := regOp (fun x y => x &&& ~~~y) d a b s
/-- SLL (R122). -/
def execSll (d a b : BitVec 5) (s : State) : Out := regOp (fun x y => x <<< shAmt y) d a b s
/-- SRL (R122). -/
def execSrl (d a b : BitVec 5) (s : State) : Out := regOp (fun x y => x >>> shAmt y) d a b s
/-- SRA (R122). -/
def execSra (d a b : BitVec 5) (s : State) : Out := regOp (fun x y => x.sshiftRight (shAmt y)) d a b s
/-- ROT (R122). -/
def execRot (d a b : BitVec 5) (s : State) : Out := regOp rotl d a b s
/-- SLT (R122). -/
def execSlt (d a b : BitVec 5) (s : State) : Out := regOp (fun x y => ofBool (x.slt y)) d a b s
/-- SLTU (R122). -/
def execSltu (d a b : BitVec 5) (s : State) : Out := regOp (fun x y => ofBool (x.ult y)) d a b s
/-- MIN (R122). -/
def execMin (d a b : BitVec 5) (s : State) : Out := regOp minS d a b s
/-- MAX (R122). -/
def execMax (d a b : BitVec 5) (s : State) : Out := regOp maxS d a b s
/-- MINU (R122). -/
def execMinu (d a b : BitVec 5) (s : State) : Out := regOp minU d a b s
/-- MAXU (R122). -/
def execMaxu (d a b : BitVec 5) (s : State) : Out := regOp maxU d a b s
/-- MUL (R122). -/
def execMul (d a b : BitVec 5) (s : State) : Out := regOp (· * ·) d a b s
/-- MULH (R122). -/
def execMulh (d a b : BitVec 5) (s : State) : Out := regOp (fun x y => low64 (sx x * sx y / 2 ^ 64)) d a b s
/-- MULHU (R122). -/
def execMulhu (d a b : BitVec 5) (s : State) : Out :=
  regOp (fun x y => BitVec.ofNat 64 (x.toNat * y.toNat / 2 ^ 64)) d a b s
/-- A division (R121, R123): the partition's divider serves one at a time, its result available 36 cycles after issue
(R56). -/
def divOp (f : Dword → Dword → Dword) (d a b : BitVec 5) (s : State) : Out :=
  if s.now < s.p.divUntil then .next (stall .divider s)
  else regOp f d a b { s with p := { s.p with divUntil := s.now + 36 } }

/-- DIV (R123). -/
def execDiv (d a b : BitVec 5) (s : State) : Out := divOp divS d a b s
/-- DIVU (R123). -/
def execDivu (d a b : BitVec 5) (s : State) : Out := divOp divU d a b s
/-- REM (R123). -/
def execRem (d a b : BitVec 5) (s : State) : Out := divOp remS d a b s
/-- REMU (R123). -/
def execRemu (d a b : BitVec 5) (s : State) : Out := divOp remU d a b s

/-! ## Unary (R124) -/

/-- CLZ (R124). -/
def execClz (d a : BitVec 5) (s : State) : Out := unaryOp clz64 d a s
/-- CTZ (R124). -/
def execCtz (d a : BitVec 5) (s : State) : Out := unaryOp ctz64 d a s
/-- POPC (R124). -/
def execPopc (d a : BitVec 5) (s : State) : Out := unaryOp popc64 d a s
/-- BREV (R124). -/
def execBrev (d a : BitVec 5) (s : State) : Out := unaryOp brev64 d a s
/-- SEXT (R124); SIZE 3 raises ILL (R63). -/
def execSext (d a : BitVec 5) (z : BitVec 2) (s : State) : Out :=
  legalOr (.sext d a z) s (unaryOp (sextV z) d a s)
/-- ZEXT (R124); SIZE 3 raises ILL (R63). -/
def execZext (d a : BitVec 5) (z : BitVec 2) (s : State) : Out :=
  legalOr (.zext d a z) s (unaryOp (zextV z) d a s)

/-! ## Immediates (R125-R127) -/

/-- ADDI (R125). -/
def execAddi (d a : BitVec 5) (i : BitVec 15) (s : State) : Out := immOp (· + ·) d a i s
/-- ANDI (R125). -/
def execAndi (d a : BitVec 5) (i : BitVec 15) (s : State) : Out := immOp (· &&& ·) d a i s
/-- ORI (R125). -/
def execOri (d a : BitVec 5) (i : BitVec 15) (s : State) : Out := immOp (· ||| ·) d a i s
/-- XORI (R125). -/
def execXori (d a : BitVec 5) (i : BitVec 15) (s : State) : Out := immOp (· ^^^ ·) d a i s
/-- SLTI (R125). -/
def execSlti (d a : BitVec 5) (i : BitVec 15) (s : State) : Out := immOp (fun x y => ofBool (x.slt y)) d a i s
/-- SLTIU (R125). -/
def execSltiu (d a : BitVec 5) (i : BitVec 15) (s : State) : Out := immOp (fun x y => ofBool (x.ult y)) d a i s
/-- SLLI (R126). -/
def execSlli (d a : BitVec 5) (n : BitVec 6) (s : State) : Out := shiftOp (fun x n => x <<< n) d a n s
/-- SRLI (R126). -/
def execSrli (d a : BitVec 5) (n : BitVec 6) (s : State) : Out := shiftOp (fun x n => x >>> n) d a n s
/-- SRAI (R126). -/
def execSrai (d a : BitVec 5) (n : BitVec 6) (s : State) : Out := shiftOp (fun x n => x.sshiftRight n) d a n s
/-- LIH (R127). -/
def execLih (d : BitVec 5) (i : BitVec 20) (s : State) : Out := .next (resultX 4 d (immHi i) s)
/-- ADDPC (R127). -/
def execAddpc (d : BitVec 5) (i : BitVec 20) (s : State) : Out := .next (resultX 4 d (s.h.pc + immHi i) s)

/-! ## Branches and jumps (R128-R131) -/

/-- BEQ (R128). -/
def execBeq (a b : BitVec 5) (o : BitVec 12) (s : State) : Out := branchOp (· == ·) a b o s
/-- BNE (R128). -/
def execBne (a b : BitVec 5) (o : BitVec 12) (s : State) : Out := branchOp (· != ·) a b o s
/-- BLT (R128). -/
def execBlt (a b : BitVec 5) (o : BitVec 12) (s : State) : Out := branchOp (fun x y => x.slt y) a b o s
/-- BGE (R128). -/
def execBge (a b : BitVec 5) (o : BitVec 12) (s : State) : Out := branchOp (fun x y => !x.slt y) a b o s
/-- BLTU (R128). -/
def execBltu (a b : BitVec 5) (o : BitVec 12) (s : State) : Out := branchOp (fun x y => x.ult y) a b o s
/-- BGEU (R128). -/
def execBgeu (a b : BitVec 5) (o : BitVec 12) (s : State) : Out := branchOp (fun x y => !x.ult y) a b o s

/-- BSE (R131): after the hart's earlier vector-class instructions, branches on the end flag of its stream. -/
def execBse (g : BitVec 3) (o : BitVec 12) (s : State) : Out :=
  .next (if vecPending s then stall .vecDrain s
    else if streamEnd (s.h.g.toList.getD g.toNat {}) then jumpTo (s.h.pc + disp o) s else advance 4 s)

/-- JAL (R129). -/
def execJal (d : BitVec 5) (i : BitVec 20) (s : State) : Out :=
  .next (jumpTo (s.h.pc + disp i) (putX d (s.h.pc + 4) s))

/-- JALR (R129): the target comes from x[rs1] before rd is written (R60). -/
def execJalr (d a : BitVec 5) (i : BitVec 15) (s : State) : Out :=
  .next (jumpTo ((xr s a + disp i) &&& ~~~1#64) (putX d (s.h.pc + 4) s))

/-! ## Compact forms (R88, R139) -/

/-- c.add (R88); the halfword 0x0000 is no instruction (R58). -/
def execCAdd (a b : BitVec 5) (s : State) : Out :=
  legalOr (.cAdd a b) s (compactOp (· + ·) a b s)
/-- c.sub (R88). -/
def execCSub (a b : BitVec 5) (s : State) : Out := compactOp (· - ·) a b s
/-- c.and (R88). -/
def execCAnd (a b : BitVec 5) (s : State) : Out := compactOp (· &&& ·) a b s
/-- c.or (R88). -/
def execCOr (a b : BitVec 5) (s : State) : Out := compactOp (· ||| ·) a b s
/-- c.xor (R88). -/
def execCXor (a b : BitVec 5) (s : State) : Out := compactOp (· ^^^ ·) a b s
/-- c.mul (R88). -/
def execCMul (a b : BitVec 5) (s : State) : Out := compactOp (· * ·) a b s
/-- c.addi (R88, R139). -/
def execCAddi (a i : BitVec 5) (s : State) : Out := compactUnary (· + immX i) a s
/-- c.andi (R88, R139). -/
def execCAndi (a i : BitVec 5) (s : State) : Out := compactUnary (· &&& immX i) a s
/-- c.slli (R88, R139). -/
def execCSlli (a i : BitVec 5) (s : State) : Out := compactUnary (· <<< i.toNat) a s
/-- c.srli (R88, R139). -/
def execCSrli (a i : BitVec 5) (s : State) : Out := compactUnary (· >>> i.toNat) a s
/-- c.srai (R88, R139). -/
def execCSrai (a i : BitVec 5) (s : State) : Out := compactUnary (fun x => x.sshiftRight i.toNat) a s
/-- c.mvl (R88). -/
def execCMvl (a : BitVec 5) (s : State) : Out := compactUnary (fun x => x) a s
/-- c.sextw (R88): SEXT.w xA, xL. -/
def execCSextw (a : BitVec 5) (s : State) : Out := compactUnary (sextV 2) a s
/-- c.slt (R88). -/
def execCSlt (a b : BitVec 5) (s : State) : Out := compactOp (fun x y => ofBool (x.slt y)) a b s
/-- c.sltu (R88). -/
def execCSltu (a b : BitVec 5) (s : State) : Out := compactOp (fun x y => ofBool (x.ult y)) a b s
/-- c.min (R88). -/
def execCMin (a b : BitVec 5) (s : State) : Out := compactOp minS a b s
/-- c.max (R88). -/
def execCMax (a b : BitVec 5) (s : State) : Out := compactOp maxS a b s
/-- c.beqz (R139). -/
def execCBeqz (o : BitVec 10) (s : State) : Out := compactBranch (· == 0) o s
/-- c.bnez (R139). -/
def execCBnez (o : BitVec 10) (s : State) : Out := compactBranch (· != 0) o s
/-- c.jr (R139): no link, LDST unchanged. -/
def execCJr (i : BitVec 10) (s : State) : Out := .next (jumpTo ((xl s + disp i) &&& ~~~1#64) s)

end Sys2Proof.Machine
end

