-- ==== Sys2Proof/Machine/ScalarFp.lean ====
section
/-! DEFINITION. Scalar FP32 (spec/05_results_scalar.md R132-R138). -/
namespace Sys2Proof.Machine
open Sys2Proof

/-- An f32 operand: the low word of a register (R132). -/
def f32Of (s : State) (a : BitVec 5) : FVal := decodeF .f32 (xr s a).toNat

/-- The rounding mode of an RM field of two bits (R64). -/
def rm2 (m : BitVec 2) : Rm := rmOfCode m.toNat

/-- An exact f32 result rounded once under RM, written with its flags (R132, R133, R138). -/
def fpResult (d : BitVec 5) (m : BitVec 2) (x : Exact) (s : State) : Out :=
  .next (resultF d (finish .f32 (rm2 m) 0 x) s)

/-- FADD (R133). -/
def execFadd (d a b : BitVec 5) (m : BitVec 2) (s : State) : Out :=
  fpResult d m (addExact (rm2 m) (f32Of s a) (f32Of s b)) s

/-- FSUB (R133). -/
def execFsub (d a b : BitVec 5) (m : BitVec 2) (s : State) : Out :=
  fpResult d m (addExact (rm2 m) (f32Of s a) (negVal (f32Of s b))) s

/-- FMUL (R133). -/
def execFmul (d a b : BitVec 5) (m : BitVec 2) (s : State) : Out :=
  fpResult d m (mulExact (f32Of s a) (f32Of s b)) s

/-- FMA (R133): one rounding; the third source is the register ARG names. -/
def execFma (d a b : BitVec 5) (m : BitVec 2) (c : BitVec 5) (s : State) : Out :=
  fpResult d m (fmaExact (rm2 m) (f32Of s a) (f32Of s b) (f32Of s c)) s

/-- FMIN (R134); RM is ignored. -/
def execFmin (d a b : BitVec 5) (_x : BitVec 2) (s : State) : Out :=
  .next (resultF d (minMaxF .f32 false (field (xr s a) 31 0) (field (xr s b) 31 0)) s)

/-- FMAX (R134); RM is ignored. -/
def execFmax (d a b : BitVec 5) (_x : BitVec 2) (s : State) : Out :=
  .next (resultF d (minMaxF .f32 true (field (xr s a) 31 0) (field (xr s b) 31 0)) s)

/-- The predicate of FCMP: eq, lt, le, un (R64, R135). -/
def fcmpCond (k : BitVec 2) : Cmp :=
  if k = 0 then .eq else if k = 1 then .lt else if k = 2 then .le else .un

/-- FCMP (R135); RM is ignored. -/
def execFcmp (d a b : BitVec 5) (_x k : BitVec 2) (s : State) : Out :=
  let (t, fl) := cmpF (fcmpCond k) (f32Of s a) (f32Of s b)
  .next (resultX 4 d (ofBool t) (orFpst fl s))

/-- The result of FCVT under KIND (R136), as 64 bits, with its flags. -/
def fcvtValue (k : BitVec 3) (mode : Rm) (a : Dword) : Nat × Flags :=
  let x := decodeF .f32 a.toNat
  match k.toNat with
  | 0 => intToFloat .f32 false mode 0 (sx a)
  | 1 => intToFloat .f32 false mode 0 (a.toNat : Int)
  | 2 => toIntCode true 64 mode 0 x
  | 3 => toIntCode false 64 mode 0 x
  | 4 => toFloatCode .f32 false mode 0 (decodeF .f16 a.toNat)
  | _ => toFloatCode .f16 false mode 0 x

/-- FCVT (R136); KIND 6 and 7 raise ILL (R64). -/
def execFcvt (d a : BitVec 5) (m : BitVec 2) (k : BitVec 3) (s : State) : Out :=
  legalOr (.fcvt d a m k) s (.next (resultF d (fcvtValue k (rm2 m) (xr s a)) s))

end Sys2Proof.Machine
end

