-- ==== Sys2Proof/Machine/ScalarMem.lean ====
section
/-! DEFINITION. Scalar loads, stores and atomics (spec/10_order_instructions.md R231-R235) and the compact memory
forms (R88, R139). -/
namespace Sys2Proof.Machine
open Sys2Proof

/-- A load of R231: the address, the request, the stall until its data returns. -/
def loadForm (size : Nat) (signed : Bool) (d a : BitVec 5) (g : BitVec 3) (p : BitVec 2) (o : BitVec 7)
    (s : State) : Out :=
  .next (loadOp 4 size signed d (memAddr (xr s a) o size) g.toNat p.toNat s)

/-- A store of R231. -/
def storeForm (size : Nat) (a b : BitVec 5) (g : BitVec 3) (p : BitVec 2) (o : BitVec 7) (s : State) : Out :=
  .next (storeOp 4 size (xr s b) (memAddr (xr s a) o size) g.toNat p.toNat s)

/-- An atomic of R233 and R234; SCOPE 7 with AQ or RL raises ILL (R68). -/
def atomicForm (i : Instr) (op : MemOp) (size : Nat) (d a b : BitVec 5) (g c : BitVec 3) (r : BitVec 1)
    (s : State) : Out :=
  legalOr i s (.next (atomicOp op size d (xr s a) (xr s b) (xr s d) g.toNat (r == 1) c.toNat s))

/-- LDB (R231). -/
def execLdb (d a : BitVec 5) (g : BitVec 3) (p : BitVec 2) (o : BitVec 7) (s : State) : Out :=
  loadForm 1 true d a g p o s
/-- LDBU (R231). -/
def execLdbu (d a : BitVec 5) (g : BitVec 3) (p : BitVec 2) (o : BitVec 7) (s : State) : Out :=
  loadForm 1 false d a g p o s
/-- LDH (R231). -/
def execLdh (d a : BitVec 5) (g : BitVec 3) (p : BitVec 2) (o : BitVec 7) (s : State) : Out :=
  loadForm 2 true d a g p o s
/-- LDHU (R231). -/
def execLdhu (d a : BitVec 5) (g : BitVec 3) (p : BitVec 2) (o : BitVec 7) (s : State) : Out :=
  loadForm 2 false d a g p o s
/-- LDW (R231). -/
def execLdw (d a : BitVec 5) (g : BitVec 3) (p : BitVec 2) (o : BitVec 7) (s : State) : Out :=
  loadForm 4 true d a g p o s
/-- LDWU (R231). -/
def execLdwu (d a : BitVec 5) (g : BitVec 3) (p : BitVec 2) (o : BitVec 7) (s : State) : Out :=
  loadForm 4 false d a g p o s
/-- LDD (R231). -/
def execLdd (d a : BitVec 5) (g : BitVec 3) (p : BitVec 2) (o : BitVec 7) (s : State) : Out :=
  loadForm 8 true d a g p o s
/-- STB (R231). -/
def execStb (a b : BitVec 5) (g : BitVec 3) (p : BitVec 2) (o : BitVec 7) (s : State) : Out :=
  storeForm 1 a b g p o s
/-- STH (R231). -/
def execSth (a b : BitVec 5) (g : BitVec 3) (p : BitVec 2) (o : BitVec 7) (s : State) : Out :=
  storeForm 2 a b g p o s
/-- STW (R231). -/
def execStw (a b : BitVec 5) (g : BitVec 3) (p : BitVec 2) (o : BitVec 7) (s : State) : Out :=
  storeForm 4 a b g p o s
/-- STD (R231). -/
def execStd (a b : BitVec 5) (g : BitVec 3) (p : BitVec 2) (o : BitVec 7) (s : State) : Out :=
  storeForm 8 a b g p o s
/-- AMO_ADD_W (R233). -/
def execAmoAddW (d a b : BitVec 5) (g c : BitVec 3) (q r : BitVec 1) (s : State) : Out :=
  atomicForm (.amoAddW d a b g c q r) (.amo .add) 4 d a b g c r s
/-- AMO_AND_W (R233). -/
def execAmoAndW (d a b : BitVec 5) (g c : BitVec 3) (q r : BitVec 1) (s : State) : Out :=
  atomicForm (.amoAndW d a b g c q r) (.amo .and) 4 d a b g c r s
/-- AMO_OR_W (R233). -/
def execAmoOrW (d a b : BitVec 5) (g c : BitVec 3) (q r : BitVec 1) (s : State) : Out :=
  atomicForm (.amoOrW d a b g c q r) (.amo .or) 4 d a b g c r s
/-- AMO_XOR_W (R233). -/
def execAmoXorW (d a b : BitVec 5) (g c : BitVec 3) (q r : BitVec 1) (s : State) : Out :=
  atomicForm (.amoXorW d a b g c q r) (.amo .xor) 4 d a b g c r s
/-- AMO_MIN_W (R233). -/
def execAmoMinW (d a b : BitVec 5) (g c : BitVec 3) (q r : BitVec 1) (s : State) : Out :=
  atomicForm (.amoMinW d a b g c q r) (.amo .min) 4 d a b g c r s
/-- AMO_MAX_W (R233). -/
def execAmoMaxW (d a b : BitVec 5) (g c : BitVec 3) (q r : BitVec 1) (s : State) : Out :=
  atomicForm (.amoMaxW d a b g c q r) (.amo .max) 4 d a b g c r s
/-- AMO_MINU_W (R233). -/
def execAmoMinuW (d a b : BitVec 5) (g c : BitVec 3) (q r : BitVec 1) (s : State) : Out :=
  atomicForm (.amoMinuW d a b g c q r) (.amo .minu) 4 d a b g c r s
/-- AMO_MAXU_W (R233). -/
def execAmoMaxuW (d a b : BitVec 5) (g c : BitVec 3) (q r : BitVec 1) (s : State) : Out :=
  atomicForm (.amoMaxuW d a b g c q r) (.amo .maxu) 4 d a b g c r s
/-- AMO_SWAP_W (R233). -/
def execAmoSwapW (d a b : BitVec 5) (g c : BitVec 3) (q r : BitVec 1) (s : State) : Out :=
  atomicForm (.amoSwapW d a b g c q r) (.amo .swap) 4 d a b g c r s
/-- AMO_ADD_D (R233). -/
def execAmoAddD (d a b : BitVec 5) (g c : BitVec 3) (q r : BitVec 1) (s : State) : Out :=
  atomicForm (.amoAddD d a b g c q r) (.amo .add) 8 d a b g c r s
/-- AMO_AND_D (R233). -/
def execAmoAndD (d a b : BitVec 5) (g c : BitVec 3) (q r : BitVec 1) (s : State) : Out :=
  atomicForm (.amoAndD d a b g c q r) (.amo .and) 8 d a b g c r s
/-- AMO_OR_D (R233). -/
def execAmoOrD (d a b : BitVec 5) (g c : BitVec 3) (q r : BitVec 1) (s : State) : Out :=
  atomicForm (.amoOrD d a b g c q r) (.amo .or) 8 d a b g c r s
/-- AMO_XOR_D (R233). -/
def execAmoXorD (d a b : BitVec 5) (g c : BitVec 3) (q r : BitVec 1) (s : State) : Out :=
  atomicForm (.amoXorD d a b g c q r) (.amo .xor) 8 d a b g c r s
/-- AMO_MIN_D (R233). -/
def execAmoMinD (d a b : BitVec 5) (g c : BitVec 3) (q r : BitVec 1) (s : State) : Out :=
  atomicForm (.amoMinD d a b g c q r) (.amo .min) 8 d a b g c r s
/-- AMO_MAX_D (R233). -/
def execAmoMaxD (d a b : BitVec 5) (g c : BitVec 3) (q r : BitVec 1) (s : State) : Out :=
  atomicForm (.amoMaxD d a b g c q r) (.amo .max) 8 d a b g c r s
/-- AMO_MINU_D (R233). -/
def execAmoMinuD (d a b : BitVec 5) (g c : BitVec 3) (q r : BitVec 1) (s : State) : Out :=
  atomicForm (.amoMinuD d a b g c q r) (.amo .minu) 8 d a b g c r s
/-- AMO_MAXU_D (R233). -/
def execAmoMaxuD (d a b : BitVec 5) (g c : BitVec 3) (q r : BitVec 1) (s : State) : Out :=
  atomicForm (.amoMaxuD d a b g c q r) (.amo .maxu) 8 d a b g c r s
/-- AMO_SWAP_D (R233). -/
def execAmoSwapD (d a b : BitVec 5) (g c : BitVec 3) (q r : BitVec 1) (s : State) : Out :=
  atomicForm (.amoSwapD d a b g c q r) (.amo .swap) 8 d a b g c r s
/-- CAS_W (R234): the expected value is x[rd]. -/
def execCasW (d a b : BitVec 5) (g c : BitVec 3) (q r : BitVec 1) (s : State) : Out :=
  atomicForm (.casW d a b g c q r) .cas 4 d a b g c r s
/-- CAS_D (R234): the expected value is x[rd]. -/
def execCasD (d a b : BitVec 5) (g c : BitVec 3) (q r : BitVec 1) (s : State) : Out :=
  atomicForm (.casD d a b g c q r) .cas 8 d a b g c r s

/-- The address of a compact memory form: xL + s × B (R139). -/
def compactAddr (s : State) (i : BitVec 5) (size : Nat) : Dword := xl s + BitVec.ofNat 64 (size * i.toNat)

/-- c.ldw (R88). -/
def execCLdw (a i : BitVec 5) (s : State) : Out := .next (loadOp 2 4 true a (compactAddr s i 4) 0 0 s)
/-- c.ldd (R88). -/
def execCLdd (a i : BitVec 5) (s : State) : Out := .next (loadOp 2 8 true a (compactAddr s i 8) 0 0 s)
/-- c.stw (R88). -/
def execCStw (a i : BitVec 5) (s : State) : Out := .next (storeOp 2 4 (xr s a) (compactAddr s i 4) 0 0 s)
/-- c.std (R88). -/
def execCStd (a i : BitVec 5) (s : State) : Out := .next (storeOp 2 8 (xr s a) (compactAddr s i 8) 0 0 s)

end Sys2Proof.Machine
end

