-- ==== Sys2Proof/Machine/Dispatch.lean ====
section
/-! DEFINITION. One arm for each instruction and step: the direct call of its meaning. -/
namespace Sys2Proof.Machine
open Sys2Proof

/-- The meaning of an instruction or step in a state. -/
def exec (i : Instr) (s : State) : Host.Outcome State Fault Refusal :=
  match i with
  | .add d a b => Sys2Proof.Machine.execAdd d a b s
  | .sub d a b => Sys2Proof.Machine.execSub d a b s
  | .and d a b => Sys2Proof.Machine.execAnd d a b s
  | .or d a b => Sys2Proof.Machine.execOr d a b s
  | .xor d a b => Sys2Proof.Machine.execXor d a b s
  | .andn d a b => Sys2Proof.Machine.execAndn d a b s
  | .sll d a b => Sys2Proof.Machine.execSll d a b s
  | .srl d a b => Sys2Proof.Machine.execSrl d a b s
  | .sra d a b => Sys2Proof.Machine.execSra d a b s
  | .rot d a b => Sys2Proof.Machine.execRot d a b s
  | .slt d a b => Sys2Proof.Machine.execSlt d a b s
  | .sltu d a b => Sys2Proof.Machine.execSltu d a b s
  | .min d a b => Sys2Proof.Machine.execMin d a b s
  | .max d a b => Sys2Proof.Machine.execMax d a b s
  | .minu d a b => Sys2Proof.Machine.execMinu d a b s
  | .maxu d a b => Sys2Proof.Machine.execMaxu d a b s
  | .mul d a b => Sys2Proof.Machine.execMul d a b s
  | .mulh d a b => Sys2Proof.Machine.execMulh d a b s
  | .mulhu d a b => Sys2Proof.Machine.execMulhu d a b s
  | .div d a b => Sys2Proof.Machine.execDiv d a b s
  | .divu d a b => Sys2Proof.Machine.execDivu d a b s
  | .rem d a b => Sys2Proof.Machine.execRem d a b s
  | .remu d a b => Sys2Proof.Machine.execRemu d a b s
  | .clz d a => Sys2Proof.Machine.execClz d a s
  | .ctz d a => Sys2Proof.Machine.execCtz d a s
  | .popc d a => Sys2Proof.Machine.execPopc d a s
  | .brev d a => Sys2Proof.Machine.execBrev d a s
  | .sext d a f => Sys2Proof.Machine.execSext d a f s
  | .zext d a f => Sys2Proof.Machine.execZext d a f s
  | .fadd d a b m => Sys2Proof.Machine.execFadd d a b m s
  | .fsub d a b m => Sys2Proof.Machine.execFsub d a b m s
  | .fmul d a b m => Sys2Proof.Machine.execFmul d a b m s
  | .fma d a b m c => Sys2Proof.Machine.execFma d a b m c s
  | .fmin d a b x => Sys2Proof.Machine.execFmin d a b x s
  | .fmax d a b x => Sys2Proof.Machine.execFmax d a b x s
  | .fcmp d a b x k => Sys2Proof.Machine.execFcmp d a b x k s
  | .fcvt d a m k => Sys2Proof.Machine.execFcvt d a m k s
  | .addi d a imm => Sys2Proof.Machine.execAddi d a imm s
  | .andi d a imm => Sys2Proof.Machine.execAndi d a imm s
  | .ori d a imm => Sys2Proof.Machine.execOri d a imm s
  | .xori d a imm => Sys2Proof.Machine.execXori d a imm s
  | .slti d a imm => Sys2Proof.Machine.execSlti d a imm s
  | .sltiu d a imm => Sys2Proof.Machine.execSltiu d a imm s
  | .slli d a f => Sys2Proof.Machine.execSlli d a f s
  | .srli d a f => Sys2Proof.Machine.execSrli d a f s
  | .srai d a f => Sys2Proof.Machine.execSrai d a f s
  | .lih d imm => Sys2Proof.Machine.execLih d imm s
  | .addpc d imm => Sys2Proof.Machine.execAddpc d imm s
  | .beq a b o => Sys2Proof.Machine.execBeq a b o s
  | .bne a b o => Sys2Proof.Machine.execBne a b o s
  | .blt a b o => Sys2Proof.Machine.execBlt a b o s
  | .bge a b o => Sys2Proof.Machine.execBge a b o s
  | .bltu a b o => Sys2Proof.Machine.execBltu a b o s
  | .bgeu a b o => Sys2Proof.Machine.execBgeu a b o s
  | .bse g o => Sys2Proof.Machine.execBse g o s
  | .jal d imm => Sys2Proof.Machine.execJal d imm s
  | .jalr d a imm => Sys2Proof.Machine.execJalr d a imm s
  | .ldb d a f p o => Sys2Proof.Machine.execLdb d a f p o s
  | .ldbu d a f p o => Sys2Proof.Machine.execLdbu d a f p o s
  | .ldh d a f p o => Sys2Proof.Machine.execLdh d a f p o s
  | .ldhu d a f p o => Sys2Proof.Machine.execLdhu d a f p o s
  | .ldw d a f p o => Sys2Proof.Machine.execLdw d a f p o s
  | .ldwu d a f p o => Sys2Proof.Machine.execLdwu d a f p o s
  | .ldd d a f p o => Sys2Proof.Machine.execLdd d a f p o s
  | .stb a b f p o => Sys2Proof.Machine.execStb a b f p o s
  | .sth a b f p o => Sys2Proof.Machine.execSth a b f p o s
  | .stw a b f p o => Sys2Proof.Machine.execStw a b f p o s
  | .std a b f p o => Sys2Proof.Machine.execStd a b f p o s
  | .amoAddW d a b f c q r => Sys2Proof.Machine.execAmoAddW d a b f c q r s
  | .amoAndW d a b f c q r => Sys2Proof.Machine.execAmoAndW d a b f c q r s
  | .amoOrW d a b f c q r => Sys2Proof.Machine.execAmoOrW d a b f c q r s
  | .amoXorW d a b f c q r => Sys2Proof.Machine.execAmoXorW d a b f c q r s
  | .amoMinW d a b f c q r => Sys2Proof.Machine.execAmoMinW d a b f c q r s
  | .amoMaxW d a b f c q r => Sys2Proof.Machine.execAmoMaxW d a b f c q r s
  | .amoMinuW d a b f c q r => Sys2Proof.Machine.execAmoMinuW d a b f c q r s
  | .amoMaxuW d a b f c q r => Sys2Proof.Machine.execAmoMaxuW d a b f c q r s
  | .amoSwapW d a b f c q r => Sys2Proof.Machine.execAmoSwapW d a b f c q r s
  | .amoAddD d a b f c q r => Sys2Proof.Machine.execAmoAddD d a b f c q r s
  | .amoAndD d a b f c q r => Sys2Proof.Machine.execAmoAndD d a b f c q r s
  | .amoOrD d a b f c q r => Sys2Proof.Machine.execAmoOrD d a b f c q r s
  | .amoXorD d a b f c q r => Sys2Proof.Machine.execAmoXorD d a b f c q r s
  | .amoMinD d a b f c q r => Sys2Proof.Machine.execAmoMinD d a b f c q r s
  | .amoMaxD d a b f c q r => Sys2Proof.Machine.execAmoMaxD d a b f c q r s
  | .amoMinuD d a b f c q r => Sys2Proof.Machine.execAmoMinuD d a b f c q r s
  | .amoMaxuD d a b f c q r => Sys2Proof.Machine.execAmoMaxuD d a b f c q r s
  | .amoSwapD d a b f c q r => Sys2Proof.Machine.execAmoSwapD d a b f c q r s
  | .casW d a b f c q r => Sys2Proof.Machine.execCasW d a b f c q r s
  | .casD d a b f c q r => Sys2Proof.Machine.execCasD d a b f c q r s
  | .qsend d a b e q => Sys2Proof.Machine.execQsend d a b e q s
  | .qrecv d a b e q => Sys2Proof.Machine.execQrecv d a b e q s
  | .qtest d q => Sys2Proof.Machine.execQtest d q s
  | .getc d c => Sys2Proof.Machine.execGetc d c s
  | .setc d a c => Sys2Proof.Machine.execSetc d a c s
  | .setcb d a c => Sys2Proof.Machine.execSetcb d a c s
  | .clrcb d a c => Sys2Proof.Machine.execClrcb d a c s
  | .trap c => Sys2Proof.Machine.execTrap c s
  | .rett => Sys2Proof.Machine.execRett s
  | .brk => Sys2Proof.Machine.execBrk s
  | .flushi => Sys2Proof.Machine.execFlushi s
  | .snap => Sys2Proof.Machine.execSnap s
  | .setvl d a => Sys2Proof.Machine.execSetvl d a s
  | .setvt d a m => Sys2Proof.Machine.execSetvt d a m s
  | .settl d a => Sys2Proof.Machine.execSettl d a s
  | .waits d a b e f => Sys2Proof.Machine.execWaits d a b e f s
  | .semadd d a r q c f => Sys2Proof.Machine.execSemadd d a r q c f s
  | .semset d a r q c f => Sys2Proof.Machine.execSemset d a r q c f s
  | .barjoin a => Sys2Proof.Machine.execBarjoin a s
  | .bararv a c => Sys2Proof.Machine.execBararv a c s
  | .barwt d a b e c => Sys2Proof.Machine.execBarwt d a b e c s
  | .baraw d a b e c => Sys2Proof.Machine.execBaraw d a b e c s
  | .lock d a b e c => Sys2Proof.Machine.execLock d a b e c s
  | .unlock a c => Sys2Proof.Machine.execUnlock a c s
  | .ldwait d a b e c k => Sys2Proof.Machine.execLdwait d a b e c k s
  | .waitv d a b e n m => Sys2Proof.Machine.execWaitv d a b e n m s
  | .sleep d b e => Sys2Proof.Machine.execSleep d b e s
  | .yield x => Sys2Proof.Machine.execYield x s
  | .wohold d a => Sys2Proof.Machine.execWohold d a s
  | .wodrop a => Sys2Proof.Machine.execWodrop a s
  | .fensv x => Sys2Proof.Machine.execFensv x s
  | .fenvs x => Sys2Proof.Machine.execFenvs x s
  | .fenvv x => Sys2Proof.Machine.execFenvv x s
  | .fence d b e c q r => Sys2Proof.Machine.execFence d b e c q r s
  | .sbar d b e f => Sys2Proof.Machine.execSbar d b e f s
  | .vadd d a b k f => Sys2Proof.Machine.execVadd d a b k f s
  | .vsub d a b k f => Sys2Proof.Machine.execVsub d a b k f s
  | .vrsub d a b k f => Sys2Proof.Machine.execVrsub d a b k f s
  | .vmul d a b k f => Sys2Proof.Machine.execVmul d a b k f s
  | .vmulh d a b k f => Sys2Proof.Machine.execVmulh d a b k f s
  | .vma d a b k f => Sys2Proof.Machine.execVma d a b k f s
  | .vms d a b k f => Sys2Proof.Machine.execVms d a b k f s
  | .vmin d a b k f => Sys2Proof.Machine.execVmin d a b k f s
  | .vmax d a b k f => Sys2Proof.Machine.execVmax d a b k f s
  | .vabs d a k => Sys2Proof.Machine.execVabs d a k s
  | .vneg d a k => Sys2Proof.Machine.execVneg d a k s
  | .vand d a b k f => Sys2Proof.Machine.execVand d a b k f s
  | .vor d a b k f => Sys2Proof.Machine.execVor d a b k f s
  | .vxor d a b k f => Sys2Proof.Machine.execVxor d a b k f s
  | .vnot d a k => Sys2Proof.Machine.execVnot d a k s
  | .vsll d a b k f => Sys2Proof.Machine.execVsll d a b k f s
  | .vsrl d a b k f => Sys2Proof.Machine.execVsrl d a b k f s
  | .vsra d a b k f => Sys2Proof.Machine.execVsra d a b k f s
  | .vclip d a b k f => Sys2Proof.Machine.execVclip d a b k f s
  | .vsel d a b k f => Sys2Proof.Machine.execVsel d a b k f s
  | .vcvt d a k => Sys2Proof.Machine.execVcvt d a k s
  | .vcvtSat d a k => Sys2Proof.Machine.execVcvtSat d a k s
  | .vrcp d a k => Sys2Proof.Machine.execVrcp d a k s
  | .vrsq d a k => Sys2Proof.Machine.execVrsq d a k s
  | .vsqrt d a k => Sys2Proof.Machine.execVsqrt d a k s
  | .vdiv d a b k f => Sys2Proof.Machine.execVdiv d a b k f s
  | .vexp2 d a k => Sys2Proof.Machine.execVexp2 d a k s
  | .vlog2 d a k => Sys2Proof.Machine.execVlog2 d a k s
  | .vsin d a k => Sys2Proof.Machine.execVsin d a k s
  | .vcos d a k => Sys2Proof.Machine.execVcos d a k s
  | .vcmpEq d a b k f => Sys2Proof.Machine.execVcmpEq d a b k f s
  | .vcmpNe d a b k f => Sys2Proof.Machine.execVcmpNe d a b k f s
  | .vcmpLt d a b k f => Sys2Proof.Machine.execVcmpLt d a b k f s
  | .vcmpLe d a b k f => Sys2Proof.Machine.execVcmpLe d a b k f s
  | .vcmpGt d a b k f => Sys2Proof.Machine.execVcmpGt d a b k f s
  | .vcmpGe d a b k f => Sys2Proof.Machine.execVcmpGe d a b k f s
  | .vaddSat d a b k f => Sys2Proof.Machine.execVaddSat d a b k f s
  | .vsubSat d a b k f => Sys2Proof.Machine.execVsubSat d a b k f s
  | .vrsubSat d a b k f => Sys2Proof.Machine.execVrsubSat d a b k f s
  | .kand d a b => Sys2Proof.Machine.execKand d a b s
  | .kor d a b => Sys2Proof.Machine.execKor d a b s
  | .kxor d a b => Sys2Proof.Machine.execKxor d a b s
  | .kandn d a b => Sys2Proof.Machine.execKandn d a b s
  | .knot d a => Sys2Proof.Machine.execKnot d a s
  | .kpopc d a => Sys2Proof.Machine.execKpopc d a s
  | .kfirst d a => Sys2Proof.Machine.execKfirst d a s
  | .kmov d a => Sys2Proof.Machine.execKmov d a s
  | .vmov d a k => Sys2Proof.Machine.execVmov d a k s
  | .vbcast d b k => Sys2Proof.Machine.execVbcast d b k s
  | .vext d a b => Sys2Proof.Machine.execVext d a b s
  | .vins d a b => Sys2Proof.Machine.execVins d a b s
  | .vslup d a b k => Sys2Proof.Machine.execVslup d a b k s
  | .vsldn d a b k => Sys2Proof.Machine.execVsldn d a b k s
  | .vperm d a b k => Sys2Proof.Machine.execVperm d a b k s
  | .vpair d a k => Sys2Proof.Machine.execVpair d a k s
  | .vcmprs d a k => Sys2Proof.Machine.execVcmprs d a k s
  | .vexpnd d a k => Sys2Proof.Machine.execVexpnd d a k s
  | .viota d k => Sys2Proof.Machine.execViota d k s
  | .vtag d t => Sys2Proof.Machine.execVtag d t s
  | .vred d a k o => Sys2Proof.Machine.execVred d a k o s
  | .vredSeg d a b k o => Sys2Proof.Machine.execVredSeg d a b k o s
  | .vscan d a k o => Sys2Proof.Machine.execVscan d a k o s
  | .vscanSeg d a b k o => Sys2Proof.Machine.execVscanSeg d a b k o s
  | .vsetvf d a b k => Sys2Proof.Machine.execVsetvf d a b k s
  | .visect d a b k => Sys2Proof.Machine.execVisect d a b k s
  | .vsplit d a b k => Sys2Proof.Machine.execVsplit d a b k s
  | .vld d a f p k => Sys2Proof.Machine.execVld d a f p k s
  | .vlds d a b f p k => Sys2Proof.Machine.execVlds d a b f p k s
  | .vldx d a b f p k => Sys2Proof.Machine.execVldx d a b f p k s
  | .vldw d a b f p k => Sys2Proof.Machine.execVldw d a b f p k s
  | .vst d a f p k => Sys2Proof.Machine.execVst d a f p k s
  | .vsts d a b f p k => Sys2Proof.Machine.execVsts d a b f p k s
  | .vstx d a b f p k => Sys2Proof.Machine.execVstx d a b f p k s
  | .vscat d a b f k o => Sys2Proof.Machine.execVscat d a b f k o s
  | .accwin d a => Sys2Proof.Machine.execAccwin d a s
  | .vacc d a o => Sys2Proof.Machine.execVacc d a o s
  | .wmerge a f p o => Sys2Proof.Machine.execWmerge a f p o s
  | .vbind d f => Sys2Proof.Machine.execVbind d f s
  | .vunbind d => Sys2Proof.Machine.execVunbind d s
  | .xcopy d a c q r => Sys2Proof.Machine.execXcopy d a c q r s
  | .dcopy d a c q r => Sys2Proof.Machine.execDcopy d a c q r s
  | .dfill d a c q r => Sys2Proof.Machine.execDfill d a c q r s
  | .tload a b => Sys2Proof.Machine.execTload a b s
  | .mmrow d a t k => Sys2Proof.Machine.execMmrow d a t k s
  | .mmrows d a m t k => Sys2Proof.Machine.execMmrows d a m t k s
  | .accz d k => Sys2Proof.Machine.execAccz d k s
  | .accrd d a b k => Sys2Proof.Machine.execAccrd d a b k s
  | .accwr d a k => Sys2Proof.Machine.execAccwr d a k s
  | .mxq d a => Sys2Proof.Machine.execMxq d a s
  | .mxs a => Sys2Proof.Machine.execMxs a s
  | .mxd d a => Sys2Proof.Machine.execMxd d a s
  | .cAdd a b => Sys2Proof.Machine.execCAdd a b s
  | .cSub a b => Sys2Proof.Machine.execCSub a b s
  | .cAnd a b => Sys2Proof.Machine.execCAnd a b s
  | .cOr a b => Sys2Proof.Machine.execCOr a b s
  | .cXor a b => Sys2Proof.Machine.execCXor a b s
  | .cMul a b => Sys2Proof.Machine.execCMul a b s
  | .cAddi a imm => Sys2Proof.Machine.execCAddi a imm s
  | .cAndi a imm => Sys2Proof.Machine.execCAndi a imm s
  | .cSlli a imm => Sys2Proof.Machine.execCSlli a imm s
  | .cSrli a imm => Sys2Proof.Machine.execCSrli a imm s
  | .cSrai a imm => Sys2Proof.Machine.execCSrai a imm s
  | .cMvl a => Sys2Proof.Machine.execCMvl a s
  | .cLdw a imm => Sys2Proof.Machine.execCLdw a imm s
  | .cLdd a imm => Sys2Proof.Machine.execCLdd a imm s
  | .cStw a imm => Sys2Proof.Machine.execCStw a imm s
  | .cStd a imm => Sys2Proof.Machine.execCStd a imm s
  | .cBeqz o => Sys2Proof.Machine.execCBeqz o s
  | .cBnez o => Sys2Proof.Machine.execCBnez o s
  | .cSlt a b => Sys2Proof.Machine.execCSlt a b s
  | .cSltu a b => Sys2Proof.Machine.execCSltu a b s
  | .cMin a b => Sys2Proof.Machine.execCMin a b s
  | .cMax a b => Sys2Proof.Machine.execCMax a b s
  | .cJr imm => Sys2Proof.Machine.execCJr imm s
  | .cSextw a => Sys2Proof.Machine.execCSextw a s
  | .stallRelease hart => Sys2Proof.Machine.execStallRelease hart s
  | .loadDataReturn req => Sys2Proof.Machine.execLoadDataReturn req s
  | .storePerformed req => Sys2Proof.Machine.execStorePerformed req s
  | .peerCompletion req => Sys2Proof.Machine.execPeerCompletion req s
  | .vectorComplete pair => Sys2Proof.Machine.execVectorComplete pair s
  | .vtypeChangePoint pair => Sys2Proof.Machine.execVtypeChangePoint pair s
  | .flushiInvalidate hart => Sys2Proof.Machine.execFlushiInvalidate hart s
  | .xlinvWrite hart v => Sys2Proof.Machine.execXlinvWrite hart v s
  | .xlinvComplete hart => Sys2Proof.Machine.execXlinvComplete hart s
  | .srseedWrite hart v => Sys2Proof.Machine.execSrseedWrite hart v s
  | .iendWrite hart v => Sys2Proof.Machine.execIendWrite hart v s
  | .hartEnd hart => Sys2Proof.Machine.execHartEnd hart s
  | .prioWrite hart v => Sys2Proof.Machine.execPrioWrite hart v s
  | .wceilWrite hart v => Sys2Proof.Machine.execWceilWrite hart v s
  | .mceilWrite hart v => Sys2Proof.Machine.execMceilWrite hart v s
  | .semwinWrite hart v => Sys2Proof.Machine.execSemwinWrite hart v s
  | .keyGenerate ctx => Sys2Proof.Machine.execKeyGenerate ctx s
  | .keyErase ctx => Sys2Proof.Machine.execKeyErase ctx s
  | .sharedKeyGenerate => Sys2Proof.Machine.execSharedKeyGenerate s
  | .einjArm => Sys2Proof.Machine.execEinjArm s
  | .cregWrite hart creg v => Sys2Proof.Machine.execCregWrite hart creg v s
  | .mmioRegisterWrite off size v => Sys2Proof.Machine.execMmioRegisterWrite off size v s
  | .asyncTrapTake hart => Sys2Proof.Machine.execAsyncTrapTake hart s
  | .umpireAnswer hart => Sys2Proof.Machine.execUmpireAnswer hart s
  | .umpireRemoteMessage hart key insert => Sys2Proof.Machine.execUmpireRemoteMessage hart key insert s
  | .umpireShareRefill die => Sys2Proof.Machine.execUmpireShareRefill die s
  | .waitSatisfied hart => Sys2Proof.Machine.execWaitSatisfied hart s
  | .waitTimeout hart => Sys2Proof.Machine.execWaitTimeout hart s
  | .withdrawalAnswer hart => Sys2Proof.Machine.execWithdrawalAnswer hart s
  | .pageResponse pasid page perm ok => Sys2Proof.Machine.execPageResponse pasid page perm ok s
  | .atsInvalidate pasid page n => Sys2Proof.Machine.execAtsInvalidate pasid page n s
  | .tceCommandStart cmd => Sys2Proof.Machine.execTceCommandStart cmd s
  | .tceCommandFinish cmd => Sys2Proof.Machine.execTceCommandFinish cmd s
  | .kickTailWrite ctx v => Sys2Proof.Machine.execKickTailWrite ctx v s
  | .launchRecordRead ctx => Sys2Proof.Machine.execLaunchRecordRead ctx s
  | .launchReady ltag => Sys2Proof.Machine.execLaunchReady ltag s
  | .launchDeperr ltag => Sys2Proof.Machine.execLaunchDeperr ltag s
  | .launchPacket ltag => Sys2Proof.Machine.execLaunchPacket ltag s
  | .preemptRequest ltag idx => Sys2Proof.Machine.execPreemptRequest ltag idx s
  | .cooperativeSave ltag idx => Sys2Proof.Machine.execCooperativeSave ltag idx s
  | .forcedSave ltag idx => Sys2Proof.Machine.execForcedSave ltag idx s
  | .itemRebind ltag idx => Sys2Proof.Machine.execItemRebind ltag idx s
  | .itemRetire ltag idx => Sys2Proof.Machine.execItemRetire ltag idx s
  | .launchCompletionWrite ltag => Sys2Proof.Machine.execLaunchCompletionWrite ltag s
  | .ctxnew => Sys2Proof.Machine.execCtxnew s
  | .ctxend => Sys2Proof.Machine.execCtxend s
  | .qset => Sys2Proof.Machine.execQset s
  | .qstop => Sys2Proof.Machine.execQstop s
  | .semwin => Sys2Proof.Machine.execSemwin s
  | .cancel => Sys2Proof.Machine.execCancel s
  | .halt => Sys2Proof.Machine.execHalt s
  | .resume => Sys2Proof.Machine.execResume s
  | .attest => Sys2Proof.Machine.execAttest s
  | .evring => Sys2Proof.Machine.execEvring s
  | .linkrate => Sys2Proof.Machine.execLinkrate s
  | .pkgcfg => Sys2Proof.Machine.execPkgcfg s
  | .ceil => Sys2Proof.Machine.execCeil s
  | .quota => Sys2Proof.Machine.execQuota s
  | .snapread => Sys2Proof.Machine.execSnapread s
  | .mailboxBadop => Sys2Proof.Machine.execMailboxBadop s
  | .mailboxComplete => Sys2Proof.Machine.execMailboxComplete s
  | .evheadWrite v => Sys2Proof.Machine.execEvheadWrite v s
  | .cpcQuiesce clus => Sys2Proof.Machine.execCpcQuiesce clus s
  | .cpcRetain clus => Sys2Proof.Machine.execCpcRetain clus s
  | .cpcClkgate clus => Sys2Proof.Machine.execCpcClkgate clus s
  | .cpcRailoff clus => Sys2Proof.Machine.execCpcRailoff clus s
  | .cpcCommandDone clus => Sys2Proof.Machine.execCpcCommandDone clus s
  | .cpcWake clus => Sys2Proof.Machine.execCpcWake clus s
  | .cpcWakeDone clus => Sys2Proof.Machine.execCpcWakeDone clus s
  | .cpcRailTimeout clus => Sys2Proof.Machine.execCpcRailTimeout clus s
  | .snaptrgN => Sys2Proof.Machine.execSnaptrgN s
  | .snapctlRel => Sys2Proof.Machine.execSnapctlRel s
  | .packageReset => Sys2Proof.Machine.execPackageReset s
  | .groupReset n => Sys2Proof.Machine.execGroupReset n s
  | .watchdogExpiry => Sys2Proof.Machine.execWatchdogExpiry s
  | .thermalTrip => Sys2Proof.Machine.execThermalTrip s
  | .linkFailure port reach => Sys2Proof.Machine.execLinkFailure port reach s
  | .hwErrorDetected unit inst addr unc hart => Sys2Proof.Machine.execHwErrorDetected unit inst addr unc hart s
  | .snapoutNPulseEnd => Sys2Proof.Machine.execSnapoutNPulseEnd s

end Sys2Proof.Machine
end

