-- ==== Sys2Proof/Machine/Fetch.lean ====
section
/-! DEFINITION. What a step is made of: fetching (spec/03_encoding.md R57, R58; spec/13_isolation.md R326, R327),
which hart of a partition issues (spec/02_execution.md R41), which steps of the part's units are due, what passes
with time (spec/11_progress_rules.md R257, R258, R287), and a word put where the next step fetches it. -/
namespace Sys2Proof.Machine
open Sys2Proof

/-! ## Fetch -/

/-- The address from which the halfword at an offset from the PC is fetched: in an out-of-line run, from TXOL (R326). -/
def fetchAddr (h : Hart) (off : Dword) : Dword :=
  match h.xol with
  | some (a, b) => b + (h.pc + off - a)
  | none => h.pc + off

/-- What a fetch yields: the bytes, or the state after its trap. -/
inductive Fetch
  | bytes (l : List Byte)
  | trapped (s : State)

/-- The instruction fetch fault (R58, R130). -/
def fetchFault (a : Dword) (s : State) : State := trapHere causeFETCH a s

/-- What a halfword may be fetched as (R327): its bytes now, or those before any change that no FLUSHI has followed. -/
def halfChoices (s : State) (key : Nat) : List (List Byte) :=
  let since := (s.wlog.filter (fun e => decide (s.h.flushAt ≤ e.1) && (e.2.1 == key || e.2.1 == key + 1))).map (·.1)
  readBytes s key 2 :: since.eraseDups.map (fun t => [byteSince s t key, byteSince s t (key + 1)])

/-- The two bytes of a halfword as fetched; `k` numbers the free choice. -/
def halfBytes (s : State) (key k : Nat) : List Byte :=
  let l := halfChoices s key
  l.getD (freeBelow s k l.length) (readBytes s key 2)

/-- Fetches the halfword at an offset from the PC of the hart in focus. -/
def fetchHalf (s : State) (off : Dword) (k : Nat) : Fetch :=
  let a := fetchAddr s.h off
  match resolve s s.p s.cur (ctxOf s s.p.ctx) (s.h.level == 0 && s.h.xol.isNone) a.toNat 2 .fetch with
  | .fault c => .trapped (fetchFault a (walkDone s s.p.ctx (some s.cur) c a.toNat))
  | .violation => .trapped (violateHere s)
  | .ok x =>
    match checkSector s x.key x.gen with
    | .violation => .trapped (violateHere s)
    | .media => .trapped (fetchFault a (fireShot s (some s.cur) x.key (allocates s s.p.ctx a.toNat none)))
    | .good =>
      .bytes (if spaceOf x.key = 8 then natBytes (ofBytesLE (halfBytes s x.key k) ^^^ imageNat s x.key 2) 2
        else halfBytes s x.key k)

/-- Fetches an instruction: one halfword, or two when bit 0 of the first is set (R57). -/
def fetchCur (s : State) : Fetch :=
  match fetchHalf s 0 30 with
  | .trapped s' => .trapped s'
  | .bytes b =>
    if (b.headD 0).toNat % 2 = 0 then .bytes b
    else
      match fetchHalf s 2 31 with
      | .trapped s' => .trapped s'
      | .bytes b' => .bytes (b ++ b')

/-- The bits of what was fetched, for TVAL (R321). -/
def rawBits (bs : List Byte) : Nat := ofBytesLE bs

/-- What comes before the fetch: on a core of M an integrity violation that a write met (R323); a pending STEP, then an
execute breakpoint (R322). -/
def beforeIssue (s : State) : Option State :=
  if s.h.integrity then
    some (takeTrap causeINTEGRITY 0 false (integrityTval s) s.h.pc { s with h := { s.h with integrity := false } })
  else if s.h.stepDue then some (takeTrap causeSTEP 0 false 0 s.h.pc { s with h := { s.h with stepDue := false } })
  else
    match bpExec s.h s.h.pc.toNat with
    | some n => some (takeTrap causeHWBP n false s.h.pc s.h.pc s)
    | none => none

/-! ## Who issues (R41, R307) -/

/-- Whether the core of a hart is clocked. -/
def hartClocked (s : State) (id : Nat) : Bool :=
  if kindOf id = 0 then clocked s (clusOf id) else !s.hub.tripped

/-- Whether a hart can issue. -/
def canIssue (s : State) (id : Nat) (h : Hart) : Bool :=
  h.issue == .ready && hartClocked s id && (kindOf id != 0 || !hartFrozen s id)

/-- The other hart of the partition. -/
def partner (id : Nat) : Nat := if id % 2 = 0 then id + 1 else id - 1

/-- Whether the first of two ready harts of a partition issues. -/
def issuesFirst (s : State) (id : Nat) (a b : Hart) : Bool :=
  let ba := isBoosted s a.uid
  let bb := isBoosted s b.uid
  if ba != bb then ba
  else if ba && ep s a.uid != ep s b.uid then decide (ep s b.uid < ep s a.uid)
  else if s.yielded = some id then true
  else if s.yielded = some (partner id) then false
  else
    match a.issuedAt, b.issuedAt with
    | none, none => id % 2 == 0
    | none, some _ => true
    | some _, none => false
    | some x, some y => if x = y then id % 2 == 0 else decide (x < y)

/-- Whether a hart is the one its partition issues next. -/
def issues (s : State) (id : Nat) (h : Hart) : Bool :=
  canIssue s id h &&
    (kindOf id != 0 ||
      (match getHart s (partner id) with
       | some g => !canIssue s (partner id) g || issuesFirst s id h g
       | none => true))

/-- The preference of YIELD lasts for one cycle of its partition (R307). -/
def endYield (s : State) : State :=
  { s with yielded := match s.yielded with
      | some id => if pairOf id = pairOf s.cur then none else some id
      | none => none }

/-- Notes that the hart in focus issues; the first instruction of its item makes it RUNNING (R37, R41). -/
def noteIssue (s : State) : State := markRunning { s with h := { s.h with issuedAt := some s.stamp } }

/-- Whether a stall keeps an instruction from issuing; the others hold a hart whose instruction has issued (R41). -/
def stallsIssue : Stall → Bool
  | .queueFull | .vecDrain | .probe _ _ | .divider | .interlock _ | .otherChange | .strm _ | .chunk _ | .reqLimit | .tceFull
  | .release _ | .send => true
  | .reply _ | .vecResult _ | .change | .flushi | .xlinv _ _ | .iend _ _ _ | .stopped => false

/-- After an attempt of the hart in focus: one that only stalled at issue is no issue (R41). -/
def keepIssue (before after : State) : State :=
  match after.h.issue with
  | .stalled w =>
    if stallsIssue w && after.cur == before.cur then { after with h := { after.h with issuedAt := before.h.issuedAt } } else after
  | _ => after

/-! ## Latencies (R42, R56, R121) -/

/-- The x registers that an instruction reads: those of its fields, and xL in a compact form (R60, R88, R120). -/
def sourcesOf (ldst : BitVec 5) (i : Instr) : List (BitVec 5) :=
  match i with
  | .add _ a b | .sub _ a b | .and _ a b | .or _ a b | .xor _ a b | .andn _ a b | .sll _ a b | .srl _ a b | .sra _ a b
  | .rot _ a b | .slt _ a b | .sltu _ a b | .min _ a b | .max _ a b | .minu _ a b | .maxu _ a b | .mul _ a b | .mulh _ a b
  | .mulhu _ a b | .div _ a b | .divu _ a b | .rem _ a b | .remu _ a b | .fadd _ a b _ | .fsub _ a b _ | .fmul _ a b _
  | .fmin _ a b _ | .fmax _ a b _ | .fcmp _ a b _ _ | .beq a b _ | .bne a b _ | .blt a b _ | .bge a b _ | .bltu a b _
  | .bgeu a b _ | .stb a b _ _ _ | .sth a b _ _ _ | .stw a b _ _ _ | .std a b _ _ _ | .qsend _ a b _ _ | .waits _ a b _ _
  | .barwt _ a b _ _ | .baraw _ a b _ _ | .lock _ a b _ _ | .waitv _ a b _ _ _ | .vins _ a b | .vlds _ a b _ _ _
  | .vsts _ a b _ _ _ => [a, b]
  | .amoAddW _ a b _ _ _ _ | .amoAndW _ a b _ _ _ _ | .amoOrW _ a b _ _ _ _ | .amoXorW _ a b _ _ _ _
  | .amoMinW _ a b _ _ _ _ | .amoMaxW _ a b _ _ _ _ | .amoMinuW _ a b _ _ _ _ | .amoMaxuW _ a b _ _ _ _
  | .amoSwapW _ a b _ _ _ _ | .amoAddD _ a b _ _ _ _ | .amoAndD _ a b _ _ _ _ | .amoOrD _ a b _ _ _ _
  | .amoXorD _ a b _ _ _ _ | .amoMinD _ a b _ _ _ _ | .amoMaxD _ a b _ _ _ _ | .amoMinuD _ a b _ _ _ _
  | .amoMaxuD _ a b _ _ _ _ | .amoSwapD _ a b _ _ _ _ => [a, b]
  | .fma _ a b _ c => [a, b, c]
  | .casW d a b _ _ _ _ | .casD d a b _ _ _ _ | .ldwait d a b _ _ _ => [d, a, b]
  | .settl _ a => [a, a + 1, a + 2]
  | .clz _ a | .ctz _ a | .popc _ a | .brev _ a | .sext _ a _ | .zext _ a _ | .fcvt _ a _ _ | .addi _ a _ | .andi _ a _
  | .ori _ a _ | .xori _ a _ | .slti _ a _ | .sltiu _ a _ | .slli _ a _ | .srli _ a _ | .srai _ a _ | .jalr _ a _
  | .ldb _ a _ _ _ | .ldbu _ a _ _ _ | .ldh _ a _ _ _ | .ldhu _ a _ _ _ | .ldw _ a _ _ _ | .ldwu _ a _ _ _ | .ldd _ a _ _ _
  | .setc _ a _ | .setcb _ a _ | .clrcb _ a _ | .setvl _ a | .setvt _ a _ | .semadd _ a _ _ _ _ | .semset _ a _ _ _ _
  | .barjoin a | .bararv a _ | .unlock a _ | .wohold _ a | .wodrop a | .vld _ a _ _ _ | .vldx _ a _ _ _ _ | .vldw _ a _ _ _ _
  | .vst _ a _ _ _ | .vstx _ a _ _ _ _ | .vscat _ a _ _ _ _ | .accwin _ a | .wmerge a _ _ _ | .xcopy _ a _ _ _
  | .dcopy _ a _ _ _ | .dfill _ a _ _ _ => [a]
  | .qrecv _ _ b _ _ | .sleep _ b _ | .fence _ b _ _ _ _ | .sbar _ b _ _ | .vbcast _ b _ | .vext _ _ b | .vslup _ _ b _
  | .vsldn _ _ b _ | .vsplit _ _ b _ | .tload _ b | .accrd _ _ b _ => [b]
  | .vadd _ _ b _ x | .vsub _ _ b _ x | .vrsub _ _ b _ x | .vmul _ _ b _ x | .vmulh _ _ b _ x | .vma _ _ b _ x
  | .vms _ _ b _ x | .vmin _ _ b _ x | .vmax _ _ b _ x | .vand _ _ b _ x | .vor _ _ b _ x | .vxor _ _ b _ x
  | .vsll _ _ b _ x | .vsrl _ _ b _ x | .vsra _ _ b _ x | .vclip _ _ b _ x | .vsel _ _ b _ x | .vdiv _ _ b _ x
  | .vcmpEq _ _ b _ x | .vcmpNe _ _ b _ x | .vcmpLt _ _ b _ x | .vcmpLe _ _ b _ x | .vcmpGt _ _ b _ x | .vcmpGe _ _ b _ x
  | .vaddSat _ _ b _ x | .vsubSat _ _ b _ x | .vrsubSat _ _ b _ x => if x = 1 then [b] else []
  | .cAdd _ b | .cSub _ b | .cAnd _ b | .cOr _ b | .cXor _ b | .cMul _ b | .cSlt _ b | .cSltu _ b | .cMin _ b | .cMax _ b
  | .cStw b _ | .cStd b _ => [ldst, b]
  | .cAddi _ _ | .cAndi _ _ | .cSlli _ _ | .cSrli _ _ | .cSrai _ _ | .cMvl _ | .cSextw _ | .cLdw _ _ | .cLdd _ _ | .cBeqz _
  | .cBnez _ | .cJr _ => [ldst]
  | _ => []

/-- Whether an instruction is scalar FP32 (R132): it writes its flags with its result (R138). -/
def isScalarFp (i : Instr) : Bool :=
  match i with
  | .fadd _ _ _ _ | .fsub _ _ _ _ | .fmul _ _ _ _ | .fma _ _ _ _ _ | .fmin _ _ _ _ | .fmax _ _ _ _ | .fcmp _ _ _ _ _
  | .fcvt _ _ _ _ => true
  | _ => false

/-- Whether an instruction reads or writes FPST as a control register (R138). -/
def namesFpst (i : Instr) : Bool :=
  match i with
  | .getc _ c | .setc _ _ c | .setcb _ _ c | .clrcb _ _ c => c == 0x004
  | _ => false

/-- The register whose result comes more than a cycle after issue, and how many cycles (R56). -/
def latencyOf (i : Instr) : Option (BitVec 5 × Nat) :=
  match i with
  | .mul d _ _ | .mulh d _ _ | .mulhu d _ _ | .cMul d _ => some (d, 3)
  | .div d _ _ | .divu d _ _ | .rem d _ _ | .remu d _ _ => some (d, 36)
  | .fadd d _ _ _ | .fsub d _ _ _ | .fmul d _ _ _ | .fma d _ _ _ _ | .fmin d _ _ _ | .fmax d _ _ _ | .fcmp d _ _ _ _
  | .fcvt d _ _ _ => some (d, 4)
  | _ => none

/-- Whether an instruction changes the flow (R56): a jump, a taken branch. -/
def changesFlow (s : State) (i : Instr) : Bool :=
  match i with
  | .jal _ _ | .jalr _ _ _ | .cJr _ => true
  | .beq a b _ => xr s a == xr s b
  | .bne a b _ => xr s a != xr s b
  | .blt a b _ => (xr s a).slt (xr s b)
  | .bge a b _ => !(xr s a).slt (xr s b)
  | .bltu a b _ => (xr s a).ult (xr s b)
  | .bgeu a b _ => !(xr s a).ult (xr s b)
  | .bse g _ => streamEnd (s.h.g.toList.getD g.toNat {})
  | .cBeqz _ => xl s == 0
  | .cBnez _ => xl s != 0
  | _ => false

/-- The cycle in which every register that an instruction of the hart in focus reads is written, if that is still to
come (R42); for one that names FPST, the flags of earlier scalar FP32 instructions too (R138). -/
def operandWait (s : State) (i : Instr) : Option Nat :=
  let f := if namesFpst i then SMap.get 0 s.h.avail 32 else 0
  let t := ((sourcesOf s.h.ldst i).map (fun r => if r = 0 then 0 else SMap.get 0 s.h.avail r.toNat)).foldl max f
  if s.now < t then some t else none

/-- The cycles from the issue of a scalar load to its data (R56): of a TCM 3, of a scratchpad 4; of other stores the spec
gives none (log entry 15). -/
def loadLatency (r : Req) : Nat :=
  match r.op with
  | .load _ => if spaceOf r.key = 1 then 3 else if spaceOf r.key = 2 then 4 else 0
  | .store | .amo _ | .cas | .arrive | .unlock | .ack _ => 0

/-- Notes in `avail`, as that of a register 33, the first cycle in which the data of the load that the hart in focus waits
for can be there. -/
def noteLoad (before after : State) : State :=
  match after.h.issue with
  | .stalled (.reply id) =>
    let n := ((after.reqs.find? (fun r => r.id == id)).map loadLatency).getD 0
    { after with h := { after.h with avail := SMap.set 0 after.h.avail 33 (before.now + n) } }
  | _ => after

/-- What the latencies leave after an instruction has issued: when its result and its flags are there, or the data of its load
can be, and the further cycle of a change of flow (R56).  The value of one that completes at issue is in the register at once;
the stall of its readers is what shows the latency (R121; log entry 15). -/
def noteLatency (i : Instr) (before after : State) : State :=
  if after.h.issue == .ready && i.wf then
    let h := after.h
    let l := match latencyOf i with
      | some (d, n) =>
        let l := SMap.set 0 (h.avail.filter (fun e => decide (before.now < e.2))) d.toNat (before.now + n)
        if isScalarFp i then SMap.set 0 l 32 (before.now + n) else l
      | none => h.avail
    let s := { after with h := { h with avail := l } }
    if changesFlow before i then stall (.interlock (before.now + 2)) s else s
  else noteLoad before after

/-- An instruction of the hart in focus at issue: it stalls while a register that it reads is not written (R42); else its
meaning runs. -/
def issueInstr (run : State → Host.Outcome State Fault Refusal) (i : Instr) (s : State) :
    Host.Outcome State Fault Refusal :=
  match operandWait s i with
  | some t => .next (stall (.interlock t) s)
  | none =>
    match run (noteIssue s) with
    | .next t => .next (noteLatency i s (keepIssue s t))
    | r => r

/-! ## What is due -/

/-- The steps that the part's own units take by themselves, with the number of the hart, request, pair, command, launch
(and item), die, context or cluster each is about. -/
inductive Due
  | flushiInvalidate (hart : Nat)
  | xlinvComplete (hart : Nat)
  | hartEnd (hart : Nat)
  | stallRelease (hart : Nat)
  | withdrawalAnswer (hart : Nat)
  | umpireInsert (hart : Nat)
  | umpireInsertSaved (uid : Nat)
  | umpireAnswer (hart : Nat)
  | waitTimeout (hart : Nat)
  | waitSatisfied (hart : Nat)
  | asyncTrapTake (hart : Nat)
  | peerCompletion (req : Nat)
  | loadDataReturn (req : Nat)
  | storePerformed (req : Nat)
  | vectorComplete (pair : Nat)
  | vtypeChangePoint (pair : Nat)
  | tceCommandStart (cmd : Nat)
  | tceCommandPart (cmd : Nat)
  | tceCommandFinish (cmd : Nat)
  | launchDeperr (ltag : Nat)
  | launchReady (ltag : Nat)
  | launchCompletionWrite (ltag : Nat)
  | itemRetire (ltag idx : Nat)
  | farRetire (ltag idx : Nat)
  | cooperativeSave (ltag idx : Nat)
  | forcedSave (ltag idx : Nat)
  | launchPacket (ltag : Nat)
  | preemptRequest (ltag idx : Nat)
  | itemRebind (ltag idx : Nat)
  | mailboxComplete
  | mailboxBadop
  | ctxnew
  | ctxend
  | qset
  | qstop
  | semwin
  | cancel
  | halt
  | resume
  | attest
  | evring
  | linkrate
  | pkgcfg
  | ceil
  | quota
  | snapread
  | cpcQuiesce (clus : Nat)
  | cpcRetain (clus : Nat)
  | cpcClkgate (clus : Nat)
  | cpcRailoff (clus : Nat)
  | cpcCommandDone (clus : Nat)
  | cpcWake (clus : Nat)
  | cpcWakeDone (clus : Nat)
  | umpireShareRefill (die : Nat)
  | atsComplete
  | repReport (unit hart : Nat)
  | launchRecordRead (ctx : Nat)
  | snapoutNPulseEnd
  | snaptrgNHigh
  deriving DecidableEq, Repr

/-- What a due step does: the meaning of the row of the opcode table that it is; the Umpire's insertion of edges, which
UMPIRE_ANSWER reports, is a step of its own, and so is a part of an engine command (R148, R266, R271; log entry 6). -/
def runDue (d : Due) (s : State) : Host.Outcome State Fault Refusal :=
  match d with
  | .flushiInvalidate hart => execFlushiInvalidate hart s
  | .xlinvComplete hart => execXlinvComplete hart s
  | .hartEnd hart => execHartEnd hart s
  | .stallRelease hart => execStallRelease hart s
  | .withdrawalAnswer hart => execWithdrawalAnswer hart s
  | .umpireInsert hart => onWaiting hart insertCur s
  | .umpireInsertSaved uid => .next (insertSaved s uid)
  | .umpireAnswer hart => execUmpireAnswer hart s
  | .waitTimeout hart => execWaitTimeout hart s
  | .waitSatisfied hart => execWaitSatisfied hart s
  | .asyncTrapTake hart => execAsyncTrapTake hart s
  | .peerCompletion req => execPeerCompletion req s
  | .loadDataReturn req => execLoadDataReturn req s
  | .storePerformed req => execStorePerformed req s
  | .vectorComplete pair => execVectorComplete pair s
  | .vtypeChangePoint pair => execVtypeChangePoint pair s
  | .tceCommandStart cmd => execTceCommandStart cmd s
  | .tceCommandPart cmd => .next (commandPart cmd s)
  | .tceCommandFinish cmd => execTceCommandFinish cmd s
  | .launchDeperr ltag => execLaunchDeperr ltag s
  | .launchReady ltag => execLaunchReady ltag s
  | .launchCompletionWrite ltag => execLaunchCompletionWrite ltag s
  | .itemRetire ltag idx => execItemRetire ltag idx s
  | .farRetire ltag idx => .next (farRetire ltag idx s)
  | .cooperativeSave ltag idx => execCooperativeSave ltag idx s
  | .forcedSave ltag idx => execForcedSave ltag idx s
  | .launchPacket ltag => execLaunchPacket ltag s
  | .preemptRequest ltag idx => execPreemptRequest ltag idx s
  | .itemRebind ltag idx => execItemRebind ltag idx s
  | .mailboxComplete => execMailboxComplete s
  | .mailboxBadop => execMailboxBadop s
  | .ctxnew => execCtxnew s
  | .ctxend => execCtxend s
  | .qset => execQset s
  | .qstop => execQstop s
  | .semwin => execSemwin s
  | .cancel => execCancel s
  | .halt => execHalt s
  | .resume => execResume s
  | .attest => execAttest s
  | .evring => execEvring s
  | .linkrate => execLinkrate s
  | .pkgcfg => execPkgcfg s
  | .ceil => execCeil s
  | .quota => execQuota s
  | .snapread => execSnapread s
  | .cpcQuiesce clus => execCpcQuiesce clus s
  | .cpcRetain clus => execCpcRetain clus s
  | .cpcClkgate clus => execCpcClkgate clus s
  | .cpcRailoff clus => execCpcRailoff clus s
  | .cpcCommandDone clus => execCpcCommandDone clus s
  | .cpcWake clus => execCpcWake clus s
  | .cpcWakeDone clus => execCpcWakeDone clus s
  | .atsComplete => .next (atsComplete s)
  | .repReport unit hart => repReport unit hart s
  | .umpireShareRefill die => execUmpireShareRefill die s
  | .launchRecordRead ctx => execLaunchRecordRead ctx s
  | .snapoutNPulseEnd => execSnapoutNPulseEnd s
  | .snaptrgNHigh => .next (snaptrgHigh s)

/-- The steps due on a hart. -/
def hartEvents (s : State) (id : Nat) (h : Hart) : List Due :=
  (match h.issue with
   | .stalled .flushi => if flushDue (focus s id) then [.flushiInvalidate id] else []
   | .stalled (.xlinv _ _) => if (xlinvDue (focus s id)).isSome then [.xlinvComplete id] else []
   | .stalled (.iend _ _ _) => if (endDue (focus s id)).isSome then [.hartEnd id] else []
   | .stalled w => if stallOver (focus s id) w then [.stallRelease id] else []
   | .waiting =>
     (match h.wait with
      | some w =>
        if w.withdrawing.isSome then [.withdrawalAnswer id]
        else if !w.answered then
          (if unregistered w then [.umpireInsert id] else []) ++
            (if hartFrozen s id && w.decided.isNone then [] else [.umpireAnswer id])
        else
          (match w.decided with
           | some 1 => [.waitTimeout id]
           | some _ => [.waitSatisfied id]
           | none => [])
      | none => [])
   | .ready => if (h.note || h.errNote.isSome) && asyncDue (focus s id) then [.asyncTrapTake id] else []
   | .halted | .ended | .unbound => [])

/-- The steps due on the clocked harts. -/
def hartsDue (s : State) : List Due :=
  (allHarts s).flatMap (fun e => if hartClocked s e.1 then hartEvents s e.1 e.2 else [])

/-- Whether the cycles of a load have passed, so that its data may return (R56). -/
def replyDue (s : State) (r : Req) : Bool :=
  decide (SMap.get 0 (((getHart s r.hart).map (·.avail)).getD []) 33 ≤ s.now)

/-- The steps due on requests (R56, R212, R232). -/
def reqsDue (s : State) : List Due :=
  s.reqs.flatMap (fun r =>
    if r.done then [.peerCompletion r.id]
    else if mayPerform s r && reqAnswers r then (if replyDue s r then [.loadDataReturn r.id] else [])
    else if mayPerform s r then [.storePerformed r.id]
    else [])

/-- The steps due in the lane arrays (R53, R107). -/
def pairsDue (s : State) : List Due :=
  (allPairs s).flatMap (fun e =>
    if kindOf (2 * e.1) = 0 && !clocked s (clusOf (2 * e.1)) then []
    else
      (match headHart s e.1 with
       | some (id, x) => if entryReady (focus s id) x then [.vectorComplete e.1] else []
       | none => []) ++
      (if e.2.chg.isSome && e.2.dq.isEmpty then [.vtypeChangePoint e.1] else []))

/-- The steps due on the copy engines (R250). -/
def cmdsDue (s : State) : List Due :=
  s.cmds.flatMap (fun m =>
    if cmdStarts s m || cmdGoes s m then [.tceCommandStart m.id, .tceCommandPart m.id]
    else if cmdEnds s m then [.tceCommandFinish m.id] else [])

/-- The steps due on launches and items. -/
def launchesDue (s : State) : List Due :=
  s.launches.flatMap (fun l =>
    (if l.st = .queued then
        (if depsErr s l then [.launchDeperr l.ltag] else if depsMet s l then [.launchReady l.ltag] else [])
      else if completionDue s l then [.launchCompletionWrite l.ltag] else []) ++
    l.items.flatMap (fun it =>
      (if it.far && isBound it then [.farRetire l.ltag it.idx]
       else if retireDue s l.ltag it.idx it then [.itemRetire l.ltag it.idx] else []) ++
      (if it.preq.isSome then
        (match saveOf s l.ltag it.idx with
         | some (l, it, a, e) =>
           if pairDrained s it.pair (l.ltag, it.idx) then
             (if hasTaken a && hasTaken e then [.cooperativeSave l.ltag it.idx]
              else if graceOver s l it then [.forcedSave l.ltag it.idx] else [])
           else []
         | none => [])
       else [])))

/-- The registrations of saved items that the Umpire has still to make (R288). -/
def savedWaitsDue (s : State) : List Due :=
  s.launches.flatMap (fun l => l.items.flatMap (fun it =>
    (it.waits.filter (fun e => unregistered e.2)).map (fun e => .umpireInsertSaved e.1)))

/-- What the hub and the Referee cores do next about binding. -/
def bindingDue (s : State) : List Due :=
  if s.launches.any (fun l => l.st == .ready || l.items.any (fun it => it.st == .preempted)) then
    (match bindChoice s with
     | some (l, _) => [.launchPacket l.ltag]
     | none => []) ++
    (match victim s with
     | some (t, i) => [.preemptRequest t i]
     | none => []) ++
    (match rebindChoice s with
     | some (l, it, _) => [.itemRebind l.ltag it.idx]
     | none => [])
  else []

/-- The step of the mailbox that is due (R356, R357). -/
def mailboxDue (s : State) : List Due :=
  let m := s.hub.mb
  if !m.busy then []
  else if m.stage = 2 then [.mailboxComplete]
  else if s.hub.bootResult = 2 then [.mailboxBadop]
  else if s.hub.bootResult = 0 then []
  else
    match m.cmdOp with
    | 1 => [.ctxnew] | 2 => [.ctxend] | 3 => [.qset] | 4 => [.qstop] | 5 => [.semwin] | 6 => [.cancel]
    | 7 => [.halt] | 8 => [.resume] | 9 => [.attest] | 10 => [.evring] | 11 => [.linkrate] | 12 => [.pkgcfg]
    | 13 => [.ceil] | 14 => [.quota] | 15 => [.snapread]
    | _ => [.mailboxBadop]

/-- The steps due on the power controllers (R373, R374). -/
def powerDue (s : State) : List Due :=
  s.cpcs.flatMap (fun e =>
    let x := e.2
    if x.busy && !x.running && x.cmd == 1 then [.cpcQuiesce e.1]
    else if x.busy && !x.running && x.cmd == 2 then [.cpcRetain e.1]
    else if x.busy && !x.running && x.cmd == 3 then [.cpcClkgate e.1]
    else if x.busy && !x.running && x.cmd == 4 then [.cpcRailoff e.1]
    else if cpcEnds s e.1 then [.cpcCommandDone e.1]
    else if wakeBegins s e.1 then [.cpcWake e.1]
    else if wakeEnds s e.1 then [.cpcWakeDone e.1]
    else [])

/-- The checks that may report under REPMASK (R350): of units 6 and 8 at an instruction, of the others anywhere. -/
def repDue (s : State) : List Due :=
  if s.hub.repmask = 0 then []
  else
    ((List.range 16).filter (s.hub.repmask.getLsbD ·)).flatMap (fun u =>
      ((allHarts s).filter (fun e => unitChecks s u e.1)).map (fun e => .repReport u e.1))

/-- Every step of the part's own units that is due. -/
def eventsDue (s : State) : List Due :=
  hartsDue s ++ reqsDue s ++ pairsDue s ++ cmdsDue s ++ launchesDue s ++ savedWaitsDue s ++ bindingDue s ++ mailboxDue s ++ powerDue s
    ++ ((List.range 4).filter (fun d => decide (s.shares.getD d 256 < 128) && s.pool != 0)).map .umpireShareRefill
    ++ (s.ctxs.filter (fun e => recordDue s e.1)).map (fun e => .launchRecordRead e.1)
    ++ repDue s
    ++ (if atsDue s then [.atsComplete] else [])
    ++ (if s.hub.snapOut then [.snapoutNPulseEnd] else [])
    ++ (if s.hub.snapLow then [.snaptrgNHigh] else [])

/-! ## One act -/

/-- What a step may do: an instruction of a hart, a step of a unit, an input of the outside world, or nothing. -/
inductive Act
  | issue (hart : Nat)
  | event (d : Due)
  | input (i : Instr) (rest : List Instr)
  | pass
  deriving DecidableEq, Repr

/-- The harts that issue next, one of each partition. -/
def issuers (s : State) : List Act :=
  ((allHarts s).filter (fun e => issues s e.1 e.2)).map (fun e => .issue e.1)

/-- Everything that may come next. -/
def enabled (s : State) : List Act :=
  issuers s ++ (eventsDue s).map .event ++
    (match s.inputs with
     | i :: rest => [.input i rest]
     | [] => [])

/-- The act of a step: a free choice among what is enabled (log entry 6). -/
def chooseAct (s : State) : Act :=
  match enabled s with
  | [] => .pass
  | a :: l => (a :: l).getD (freeBelow s 0 (l.length + 1)) .pass

/-! ## Time -/

/-- Whether the cycles of a hart count for its wait (R257, R258): bound, clocked, waiting, undecided, not stopped in its
wait. -/
def counting (s : State) (id : Nat) (h : Hart) (w : Wait) : Bool :=
  h.issue == .waiting && hartClocked s id && undecided w && !hartFrozen s id

/-- Whether the grace of an item's request counts: its core is clocked, and it has not run out (R287). -/
def graceLeft (s : State) (l : Launch) (it : Item) : Option Nat :=
  match it.preq with
  | some g =>
    let all := (ctxOf s l.ctx).pgrace.toNat
    if clocked s (it.pair / 64 % 32) && decide (g < all) then some (all - g) else none
  | none => none

/-- Whether the grace of the request for a hart's item ends in the last of `n` cycles: a forced save may take the hart in
that cycle, which is not counted (R258). -/
def graceEnds (s : State) (n id : Nat) : Bool :=
  match (getPair s (pairOf id)).bind (·.item) with
  | some (t, i) =>
    (match getLaunch s t with
     | some l => (((getItem l i).bind (graceLeft s l)).map (fun k => decide (k ≤ n))).getD false
     | none => false)
  | none => false

/-- The wait of a hart after `n` cycles: counted, or timed out after its last counted one (R257); without the cycle in
which its item's grace has run out (R258). -/
def countWait (s : State) (n id : Nat) (h : Hart) : Hart :=
  match h.wait with
  | none => h
  | some w =>
    let m := if graceEnds s n id then n - 1 else n
    if m ≠ 0 ∧ counting s id h w = true then
      { h with wait := some (if w.counted < w.budget then { w with counted := w.counted + m } else expire s w) }
    else h

/-- A hart that a step stops in its wait, by a save that takes it at once or a halt, does not count that cycle (R258). -/
def uncountHart (before s : State) (id : Nat) (h : Hart) : Hart :=
  match h.wait with
  | some w =>
    if undecided w && hartFrozen s id && !hartFrozen before id then { h with wait := some { w with counted := w.counted - 1 } }
    else h
  | none => h

/-- Every hart that a step has stopped in its wait. -/
def uncountAll (before s : State) : State :=
  { s with h := uncountHart before s s.cur s.h, harts := s.harts.map (fun e => (e.1, uncountHart before s e.1 e.2)) }

/-- Counts cycles of the grace of a request (R287). -/
def countGrace (s : State) (n : Nat) (l : Launch) (it : Item) : Item :=
  match graceLeft s l it with
  | some _ => { it with preq := it.preq.map (· + n) }
  | none => it

/-- The cycles that may pass up to the last counted one of a wait, one after it (R257), or up to the last of a grace. -/
def timeLimits (s : State) : List Nat :=
  (allHarts s).filterMap (fun e => e.2.wait.bind (fun w =>
      if counting s e.1 e.2 w then some (max 1 (w.budget - w.counted)) else none))
    ++ s.launches.flatMap (fun l => l.items.filterMap (graceLeft s l))

/-- A free number of cycles passes, none of them over the end of a budget or a grace; none of the core clocks while the
thermal trip holds them (R336; log entry 6), and of the reference clock all the same (R372). -/
def passTime (s : State) : State :=
  let m := (timeLimits s).foldl min (Config.freeNat s.free 1)
  let n := if s.hub.tripped then 0 else m
  { s with
    now := s.now + n
    hub := { s.hub with refNow := s.hub.refNow + m }
    h := countWait s n s.cur s.h
    harts := s.harts.map (fun e => (e.1, countWait s n e.1 e.2))
    launches := s.launches.map (fun l => { l with items := l.items.map (countGrace s n l) })
    stamp := s.stamp + 1
    free := s.free + 1 }

/-- Whether a core of M has just stopped (R324). -/
def justStopped (before : State) (id : Nat) (h : Hart) : Bool :=
  kindOf id != 0 && h.issue == .stalled .stopped &&
    (match getHart before id with
     | some g => g.issue != .stalled .stopped
     | none => false)

/-- Reports every core of M that has just stopped. -/
def reportStops (before s : State) : State :=
  ((allHarts s).filter (fun e => justStopped before e.1 e.2)).foldl (fun s e => reportStop s e.1) s

/-- What follows an act: the reports of stopped cores, the harts stopped in their waits, every other waiting hart's look
at its condition, time. -/
def settleStep (before s : State) : State := passTime (observeAll (uncountAll before (reportStops before s)))

/-! ## A word where the next step fetches it (log entry 7) -/

/-- The role that may issue an instruction (R43). -/
def execRole : Instr → Nat
  | .tload _ _ | .mmrow _ _ _ _ | .mmrows _ _ _ _ _ | .accz _ _ | .accrd _ _ _ _ | .accwr _ _ _ | .mxq _ _ | .mxs _
  | .mxd _ _ => 1
  | _ => 0

/-- The address of the word. -/
def wordVa : Nat := 0x20000
/-- The address of the page table: one leaf that maps addresses below 4 TiB onto themselves, R, W and X. -/
def tableVa : Nat := 0x10000

/-- The launch of the one item: eight registers of 16 bits in each group, 32 accumulator rows, no allocations. -/
def wordLaunch (tag : Nat) : Launch :=
  { ltag := tag, ctx := 0, qidx := 0, prio0 := 0, pairs := 1, accrows := 32, kimage := 0, entry := wordVa, arglen := 0,
    args := 0, cword := 0x30000, itemst := 0, vgroups := 0x8F8F8F8F, tcmb := 0, scrb := 0, dsrb := 0, deps := [],
    levels := [(5, 2, 1)], pins := 0, st := .running, items := [{ idx := 0, st := .running, saveVa := some 0x40000 }] }

/-- Puts bytes at the PC of a hart that is alone ready: its context, page table, launch, pair and harts; the other
hart of the pair has stopped. -/
def placeWord (s : State) (bs : List Byte) (role : Nat) : State :=
  let l := wordLaunch s.ltags
  let c : Ctx := { pgroot := BitVec.ofNat 64 tableVa, gen := s.genSeq, quota := 16384, part := 1,
                   xlinv := [(0, 2 ^ 55 - 1, s.stamp + 1)] }
  let s := { s with
    ctxs := insertKey s.ctxs 0 c
    launches := s.launches ++ [l]
    ltags := s.ltags + 1
    genSeq := s.genSeq + 1
    hub := { s.hub with bootStage := 3, bootResult := 1 } }
  let s := writeBytes (writeNat s (hbmKey 0 tableVa) 0x1F 8) (hbmKey 0 wordVa) bs
  let hart (r : Nat) : Hart :=
    { entryHart l 0 0 r (s.stamp + 1) with issue := if r = role then .ready else .halted }
  let s := focus (startPair s 0 (entryPair l 0 0 0 0) (hart 0) (hart 1)) role
  { s with stamp := s.stamp + 1 }

end Sys2Proof.Machine
end

