-- ==== Sys2Proof/Machine/Step.lean ====
section
/-! DEFINITION. One step of the machine: an input of the outside world, a step of a unit, or an instruction of a hart;
what may come next is a free choice among what is enabled (log entry 6). -/
namespace Sys2Proof.Machine
open Sys2Proof

/-- The instruction of the hart in focus: a pending STEP, an execute breakpoint, the fetch, the decoding, each with its
trap before the next (R58, R322, R333); then its meaning. -/
def issueCur (s : State) : Host.Outcome State Fault Refusal :=
  match beforeIssue s with
  | some s' => .next s'
  | none =>
    match fetchCur s with
    | .trapped s' => .next s'
    | .bytes bs =>
      match decodeBytes bs with
      | .instr i _ =>
        issueInstr (exec i) i s
      | .reject _ => .next (trapHere causeILL (BitVec.ofNat 64 (rawBits bs)) (noteIssue s))

/-- One act of the machine, before time goes on. -/
def runAct (a : Act) (s : State) : Host.Outcome State Fault Refusal :=
  match a with
  | .issue id => issueCur (endYield (focus s id))
  | .event d => runDue d s
  | .input i rest => exec i { s with inputs := rest }
  | .pass => .next s

/-- One step: an act, then what follows it. -/
def step (s : State) : Host.Outcome State Fault Refusal :=
  match runAct (chooseAct s) s with
  | .next s' => .next (settleStep s s')
  | .fault r => .fault r
  | .refused r => .refused r

/-- The state with an instruction of the opcode table where the next step fetches (log entry 7): a context whose
pages are mapped onto HBM, one item bound, its hart ready at the instruction. -/
def State.withFetchWord (s : State) (nbits w : Nat) : State :=
  placeWord s (natBytes (w % 2 ^ nbits) 4) (match decodeTableWord nbits w with
    | some i => execRole i
    | none => 0)

end Sys2Proof.Machine
end

