-- ==== Sys2Proof/Machine/Bar.lean ====
section
/-! DEFINITION. What the host reads and writes through the PCIe function (spec/15_attachment.md R355, R360, R363;
spec/00_scope.md R9, R10): the capability region and registers of BAR0, the kick pages of BAR2. -/
namespace Sys2Proof.Machine
open Sys2Proof

/-! ## The capability list (R363) -/

/-- An entry of the list: its ID, VERSION, body words. -/
structure CapEntry where
  id : Nat
  version : Nat
  words : List Nat
  deriving DecidableEq, Repr

/-- The VERSION of an entry and the stepping, which the spec does not state (log entry 3). -/
def capVersion (id : Nat) : Nat := (Config.identityByte 5 id 0).toNat

/-- The entries, in the order of their IDs; MEMORY reports the least of the dies' die-shared steps (R25; log entry 61). -/
def capEntries (s : State) : List CapEntry :=
  let u := s.hub
  let e (id : Nat) (words : List Nat) : CapEntry := { id := id, version := capVersion id, words := words }
  [ e 1 [0x0480, 3, (Config.identityByte 4 0 0).toNat, u.bootSvn, 0],
    e 2 [4, 8, 8, 4096, 8192, 4096, 32, 32, 512, 4096, 1400],
    e 3 [8, 64, 96, u.dsrSteps.foldl min 8, 55, 52, 128, 64],
    e 4 [u.pkgs, 0, u.reach, 16, 8, 224],
    e 5 [1, 64, 4096, 256, 16, 16384],
    e 6 [providesPins.toNat % 2 ^ 32, providesPins.toNat / 2 ^ 32] ]

/-- LENGTH of an entry: header and body, a multiple of 8. -/
def capLength (e : CapEntry) : Nat := 8 + (e.words.length + 1) / 2 * 8

/-- An entry's bytes, NEXT given. -/
def capBytes (e : CapEntry) (next : Nat) : List Byte :=
  padTo (capLength e)
    (natBytes (e.id + e.version * 2 ^ 16 + capLength e * 2 ^ 32 + next * 2 ^ 48) 8 ++ e.words.flatMap (natBytes · 4))

/-- The list from an offset: each entry's NEXT is where the following one begins, and 0 at the end. -/
def capChain : Nat → List CapEntry → List Byte
  | _, [] => []
  | o, e :: l => capBytes e (if l.isEmpty then 0 else o + capLength e) ++ capChain (o + capLength e) l

/-- The capability region: zeros beyond the list. -/
def capRegion (s : State) : List Byte := capChain 0 (capEntries s)

/-! ## BAR0 (R355) -/

/-- The register at a doubleword offset as it reads: WO fields and what is not listed read 0; after a boot that failed the
window and event registers are not served (R368). -/
def regRead (s : State) (r : Nat) : Nat :=
  let u := s.hub
  let m := u.mb
  if r = 0x10000 then m.op.toNat
  else if r = 0x10008 then (if m.busy then 1 else 0) + (if m.drop then 2 else 0) + m.result % 256 * 256
  else if 0x10040 ≤ r ∧ r < 0x100A0 then (m.arg.toList.getD ((r - 0x10040) / 8) 0).toNat
  else if 0x100C0 ≤ r ∧ r < 0x100E0 then (m.res.toList.getD ((r - 0x100C0) / 8) 0).toNat
  else if r = 0x10130 then u.bootStage % 16 + u.bootResult % 16 * 16 + u.bootBank % 2 * 256 + u.bootSvn % 2 ^ 32 * 2 ^ 32
  else if u.bootResult = 2 then 0
  else if r = 0x10100 then u.fwwinb.toNat
  else if r = 0x10108 then u.fwwins.toNat
  else if r = 0x10110 then u.fwpasid.toNat
  else if r = 0x10118 then u.evhead.toNat
  else if r = 0x10120 then u.evtail.toNat
  else if r = 0x10128 then u.evlost.toNat
  else 0

/-- Whether an access of a BAR is served: 4 or 8 aligned bytes. -/
def barServes (off size : Nat) : Bool := (size == 4 || size == 8) && off % size == 0

/-- The part of a doubleword that an access reads. -/
def partOfWord (v off size : Nat) : Nat := v / 2 ^ (8 * (off % 8)) % 2 ^ (8 * size)

/-- A host read of BAR0: the capability region, then the registers; any other offset or size reads 0. -/
def bar0Read (s : State) (off size : Nat) : Nat :=
  if !barServes off size then 0
  else if off < 0x10000 then fieldOf (capRegion s) off size
  else partOfWord (regRead s (off / 8 * 8)) off size

/-! ## BAR2 (R355, R360) -/

/-- A doubleword of the kick page of a slot as it reads: TAIL, HEAD, and RUN, ERR and ECODE; all else reserved. -/
def kickRead (s : State) (slot r : Nat) : Nat :=
  let x := ctxOf s slot
  if r = 0 then x.tail.toNat
  else if r = 8 then x.head.toNat
  else if r = 0x10 then (if x.run then 1 else 0) + (if x.err then 2 else 0) + x.ecode % 16 * 16
  else 0

/-- The package and the context slot whose kick page an offset of BAR2 lies in. -/
def kickPage (off : Nat) : Nat × Nat := (off / 4096 / 64, off / 4096 % 64)

/-- A host read of BAR2; the pages of other packages are their hubs' (log entry 12). -/
def bar2Read (s : State) (off size : Nat) : Nat :=
  if barServes off size && (kickPage off).1 == 0 then
    partOfWord (kickRead s (kickPage off).2 (off % 4096 / 8 * 8)) off size
  else 0

/-- A host write of BAR2: of a kick page only TAIL is written, and starts what R361 says. -/
def bar2Write (s : State) (off size : Nat) (v : Dword) : State :=
  if barServes off size && (kickPage off).1 == 0 && off % 4096 == 0 then kickTail s (kickPage off).2 (v.setWidth 32) else s

end Sys2Proof.Machine
end

