-- ==== Sys2Proof/Safety.lean ====
section
/-! DEFINITION. What counts as a safe run: it never stops, and memory stays in its one canonical form. -/
namespace Sys2Proof.Machine
open Sys2Proof

/-- Memory in its canonical form: addresses strictly rising, no byte listed that equals what an unlisted one reads. -/
def Memory.wf (m : List Host.Cell) : Bool := SMap.wf 0 m

/-- An outcome that is a next state. -/
def goesOn (o : Host.Outcome State Fault Refusal) : Bool :=
  match o with
  | .next _ => true
  | .fault _ | .refused _ => false

/-- A state from which `n` steps go on. -/
def safeFor : Nat → State → Prop
  | 0, _ => True
  | n + 1, s => ∃ t, step s = .next t ∧ safeFor n t

end Sys2Proof.Machine
end

