-- ==== Sys2Proof/Certificates/Slice0/Obligations.lean ====
section
/-! DEFINITION. The statements for the provers.  The helpers before them say, in the spec's terms, what an
instruction leaves and what it leaves alone; each obligation names the rules it formalises. -/
namespace Sys2Proof.Spec
open Sys2Proof Sys2Proof.Machine

/-! ## How outcomes are described -/

/-- The outcome is a next state, and this holds of it. -/
def Goes (o : Out) (P : State → Prop) : Prop := ∃ t, o = .next t ∧ P t

/-- Only the hart in focus may have changed: every other hart and pair, every request, hold and unit, and every byte
of memory are as before. -/
def OnlyHart (s t : State) : Prop := t = { s with h := t.h } ∧ ∀ a, readByte t a = readByte s a

/-- Only the hart in focus and its pair may have changed. -/
def OnlyPair (s t : State) : Prop := t = { s with h := t.h, p := t.p } ∧ ∀ a, readByte t a = readByte s a

/-- Of the hart, only where it goes on changed: the PC, an out-of-line run, the STEP that follows it. -/
def OnlyFlow (h h' : Hart) : Prop :=
  h' = { h with pc := h'.pc, xol := h'.xol, stepArmed := h'.stepArmed, stepDue := h'.stepDue }

/-- Of the hart, x[d] takes a value (x0 discards), LDST becomes d, and it goes on elsewhere; no other register, flag
or control register of it changed. -/
def OnlyX (h h' : Hart) (d : BitVec 5) (v : Dword) : Prop :=
  (∀ r, readX h' r = if r = d ∧ r ≠ 0 then v else readX h r) ∧ h'.ldst = d ∧
    OnlyFlow { h with x := h'.x, ldst := h'.ldst } h'

/-- A scalar instruction of `len` bytes is done: its result is written and the next instruction follows. -/
def ScalarDone (len : Nat) (d : BitVec 5) (v : Dword) (s t : State) : Prop :=
  OnlyHart s t ∧ OnlyX s.h t.h d v ∧ t.h.pc = s.h.pc + BitVec.ofNat 64 len

/-- x[r] as an unsigned number. -/
def ux (s : State) (r : BitVec 5) : Nat := (xr s r).toNat
/-- x[r] as a signed number. -/
def sgx (s : State) (r : BitVec 5) : Int := (xr s r).toInt
/-- The low 64 bits of an exact integer. -/
def wrap (v : Int) : Dword := BitVec.ofInt 64 v
/-- 1 or 0. -/
def truth (p : Prop) [Decidable p] : Dword := if p then 1 else 0

/-! ## Scalar values (spec/05_results_scalar.md R122-R127, R139) -/

/-- DIV of R123 on signed numbers. -/
def divValue (n d : Int) : Int := if d = 0 then -1 else n.tdiv d
/-- REM of R123 on signed numbers. -/
def remValue (n d : Int) : Int := if d = 0 then n else n - d * n.tdiv d
/-- DIVU of R123. -/
def divuValue (n d : Nat) : Nat := if d = 0 then 2 ^ 64 - 1 else n / d
/-- REMU of R123. -/
def remuValue (n d : Nat) : Nat := if d = 0 then n else n % d

/-- The instructions of R122, R123, R125, R126, R127 and the compact register and immediate forms of R139: length,
destination, and the value written, as exact arithmetic on what the sources hold. -/
def aluValue (s : State) : Instr → Option (Nat × BitVec 5 × Dword)
  | .add d a b => some (4, d, wrap (ux s a + ux s b))
  | .sub d a b => some (4, d, wrap (ux s a - ux s b))
  | .and d a b => some (4, d, xr s a &&& xr s b)
  | .or d a b => some (4, d, xr s a ||| xr s b)
  | .xor d a b => some (4, d, xr s a ^^^ xr s b)
  | .andn d a b => some (4, d, xr s a &&& ~~~xr s b)
  | .sll d a b => some (4, d, wrap (ux s a * 2 ^ (ux s b % 64)))
  | .srl d a b => some (4, d, wrap (ux s a / 2 ^ (ux s b % 64)))
  | .sra d a b => some (4, d, wrap (sgx s a / 2 ^ (ux s b % 64)))
  | .rot d a b => some (4, d, (xr s a).rotateLeft (ux s b % 64))
  | .slt d a b => some (4, d, truth (sgx s a < sgx s b))
  | .sltu d a b => some (4, d, truth (ux s a < ux s b))
  | .min d a b => some (4, d, wrap (min (sgx s a) (sgx s b)))
  | .max d a b => some (4, d, wrap (max (sgx s a) (sgx s b)))
  | .minu d a b => some (4, d, wrap (min (ux s a) (ux s b)))
  | .maxu d a b => some (4, d, wrap (max (ux s a) (ux s b)))
  | .mul d a b => some (4, d, wrap (ux s a * ux s b))
  | .mulh d a b => some (4, d, wrap (sgx s a * sgx s b / 2 ^ 64))
  | .mulhu d a b => some (4, d, wrap (ux s a * ux s b / 2 ^ 64))
  | .div d a b => some (4, d, wrap (divValue (sgx s a) (sgx s b)))
  | .rem d a b => some (4, d, wrap (remValue (sgx s a) (sgx s b)))
  | .divu d a b => some (4, d, wrap (divuValue (ux s a) (ux s b)))
  | .remu d a b => some (4, d, wrap (remuValue (ux s a) (ux s b)))
  | .addi d a i => some (4, d, wrap (ux s a + i.toInt))
  | .andi d a i => some (4, d, xr s a &&& wrap i.toInt)
  | .ori d a i => some (4, d, xr s a ||| wrap i.toInt)
  | .xori d a i => some (4, d, xr s a ^^^ wrap i.toInt)
  | .slti d a i => some (4, d, truth (sgx s a < i.toInt))
  | .sltiu d a i => some (4, d, truth (ux s a < (wrap i.toInt).toNat))
  | .slli d a n => some (4, d, wrap (ux s a * 2 ^ n.toNat))
  | .srli d a n => some (4, d, wrap (ux s a / 2 ^ n.toNat))
  | .srai d a n => some (4, d, wrap (sgx s a / 2 ^ n.toNat))
  | .lih d i => some (4, d, wrap (i.toInt * 2 ^ 15))
  | .addpc d i => some (4, d, wrap (s.h.pc.toNat + i.toInt * 2 ^ 15))
  | .cSub a b => some (2, a, wrap (ux s s.h.ldst - ux s b))
  | .cAnd a b => some (2, a, xr s s.h.ldst &&& xr s b)
  | .cOr a b => some (2, a, xr s s.h.ldst ||| xr s b)
  | .cXor a b => some (2, a, xr s s.h.ldst ^^^ xr s b)
  | .cMul a b => some (2, a, wrap (ux s s.h.ldst * ux s b))
  | .cSlt a b => some (2, a, truth (sgx s s.h.ldst < sgx s b))
  | .cSltu a b => some (2, a, truth (ux s s.h.ldst < ux s b))
  | .cMin a b => some (2, a, wrap (min (sgx s s.h.ldst) (sgx s b)))
  | .cMax a b => some (2, a, wrap (max (sgx s s.h.ldst) (sgx s b)))
  | .cAddi a i => some (2, a, wrap (ux s s.h.ldst + i.toInt))
  | .cAndi a i => some (2, a, xr s s.h.ldst &&& wrap i.toInt)
  | .cSlli a i => some (2, a, wrap (ux s s.h.ldst * 2 ^ i.toNat))
  | .cSrli a i => some (2, a, wrap (ux s s.h.ldst / 2 ^ i.toNat))
  | .cSrai a i => some (2, a, wrap (sgx s s.h.ldst / 2 ^ i.toNat))
  | .cMvl a => some (2, a, xr s s.h.ldst)
  | .cAdd a b => if a = 0 ∧ b = 0 then none else some (2, a, wrap (ux s s.h.ldst + ux s b))
  | _ => none

/-- The instructions that use the partition's divider (R121). -/
def divides : Instr → Prop
  | .div _ _ _ | .divu _ _ _ | .rem _ _ _ | .remu _ _ _ => True
  | _ => False

/-- Whether an instruction takes its branch, its length and its target (R128, R131, R139). -/
def branchOf (s : State) : Instr → Option (Prop × Nat × Dword)
  | .beq a b o => some (ux s a = ux s b, 4, wrap (s.h.pc.toNat + o.toInt * 2))
  | .bne a b o => some (ux s a ≠ ux s b, 4, wrap (s.h.pc.toNat + o.toInt * 2))
  | .blt a b o => some (sgx s a < sgx s b, 4, wrap (s.h.pc.toNat + o.toInt * 2))
  | .bge a b o => some (sgx s b ≤ sgx s a, 4, wrap (s.h.pc.toNat + o.toInt * 2))
  | .bltu a b o => some (ux s a < ux s b, 4, wrap (s.h.pc.toNat + o.toInt * 2))
  | .bgeu a b o => some (ux s b ≤ ux s a, 4, wrap (s.h.pc.toNat + o.toInt * 2))
  | .cBeqz o => some (ux s s.h.ldst = 0, 2, wrap (s.h.pc.toNat + o.toInt * 2))
  | .cBnez o => some (ux s s.h.ldst ≠ 0, 2, wrap (s.h.pc.toNat + o.toInt * 2))
  | .cJr i => some (True, 2, wrap (ux s s.h.ldst + i.toInt * 2) &&& ~~~1#64)
  | _ => none

/-- The end flag of stream `g` of a hart (R131, R243): its generator is active and its position has reached the
length. -/
def endFlag (h : Hart) (g : BitVec 3) : Prop := h.g[g.toNat].act = true ∧ h.g[g.toNat].len ≤ h.g[g.toNat].pos

/-- The float instructions of R133, R134 and R136 with what they give: destination, value of 32 or 64 bits, flags. -/
def fpValue (s : State) : Instr → Option (BitVec 5 × Nat × Flags)
  | .fadd d a b m => some (d, finish .f32 (rm2 m) 0 (addExact (rm2 m) (f32Of s a) (f32Of s b)))
  | .fsub d a b m => some (d, finish .f32 (rm2 m) 0 (addExact (rm2 m) (f32Of s a) (negVal (f32Of s b))))
  | .fmul d a b m => some (d, finish .f32 (rm2 m) 0 (mulExact (f32Of s a) (f32Of s b)))
  | .fma d a b m c => some (d, finish .f32 (rm2 m) 0 (fmaExact (rm2 m) (f32Of s a) (f32Of s b) (f32Of s c)))
  | .fmin d a b _ => some (d, minMaxF .f32 false (ux s a % 2 ^ 32) (ux s b % 2 ^ 32))
  | .fmax d a b _ => some (d, minMaxF .f32 true (ux s a % 2 ^ 32) (ux s b % 2 ^ 32))
  | .fcmp d a b _ k =>
    let r := cmpF (if k = 0 then .eq else if k = 1 then .lt else if k = 2 then .le else .un) (f32Of s a) (f32Of s b)
    some (d, if r.1 then 1 else 0, r.2)
  | .fcvt d a m k => if k.toNat ≤ 5 then some (d, fcvtValue k (rm2 m) (xr s a)) else none
  | _ => none

end Sys2Proof.Spec

open Sys2Proof Sys2Proof.Machine Sys2Proof.Spec

/-- R121, R122, R123, R125, R126, R127, R139: every scalar integer instruction with two sources or an immediate, and
LIH, ADDPC and the compact register and immediate forms, writes the low 64 bits of its exact result to its destination,
sets LDST, goes on after itself and changes nothing else; a division takes the partition's divider for 36 cycles (R56),
and while the divider serves another it stalls at issue (R121). -/
def Obligations.ScalarAluWritesExactResult : Prop :=
  ∀ (s : State) (i : Instr) (len : Nat) (d : BitVec 5) (v : Dword), aluValue s i = some (len, d, v) →
    (¬ divides i → Goes (exec i s) (ScalarDone len d v s)) ∧
    (divides i → s.p.divUntil ≤ s.now →
      Goes (exec i s) (ScalarDone len d v { s with p := { s.p with divUntil := s.now + 36 } })) ∧
    (divides i → s.now < s.p.divUntil → exec i s = .next { s with h := { s.h with issue := .stalled .divider } })

/-- R124: CLZ, CTZ, POPC, BREV, SEXT and ZEXT (and c.sextw) write what the table says, bit by bit. -/
def Obligations.ScalarUnaryWritesBits : Prop :=
  ∀ (s : State) (d a : BitVec 5) (z : BitVec 2),
    (∃ n : Nat, n ≤ 64 ∧ (∀ k, 64 - n ≤ k → (xr s a).getLsbD k = false) ∧
      (n < 64 → (xr s a).getLsbD (63 - n) = true) ∧
      Goes (exec (.clz d a) s) (ScalarDone 4 d (BitVec.ofNat 64 n) s)) ∧
    (∃ n : Nat, n ≤ 64 ∧ (∀ k, k < n → (xr s a).getLsbD k = false) ∧
      (n < 64 → (xr s a).getLsbD n = true) ∧
      Goes (exec (.ctz d a) s) (ScalarDone 4 d (BitVec.ofNat 64 n) s)) ∧
    Goes (exec (.popc d a) s)
      (ScalarDone 4 d (BitVec.ofNat 64 ((List.range 64).filter (xr s a).getLsbD).length) s) ∧
    (∃ v : Dword, (∀ i < 64, v.getLsbD i = (xr s a).getLsbD (63 - i)) ∧
      Goes (exec (.brev d a) s) (ScalarDone 4 d v s)) ∧
    (z ≠ 3 →
      Goes (exec (.sext d a z) s)
        (ScalarDone 4 d (((xr s a).setWidth (8 * 2 ^ z.toNat)).signExtend 64) s) ∧
      Goes (exec (.zext d a z) s)
        (ScalarDone 4 d (((xr s a).setWidth (8 * 2 ^ z.toNat)).setWidth 64) s)) ∧
    Goes (exec (.cSextw d) s)
      (ScalarDone 2 d (((xr s s.h.ldst).setWidth 32).signExtend 64) s)

/-- R128, R139: a conditional branch, c.beqz, c.bnez and c.jr go to their target when the condition holds, else to the
next instruction; no register changes, LDST included. -/
def Sys2Proof.Spec.BranchesGoToTarget : Prop :=
  ∀ (s : State) (i : Instr) (take : Prop) (len : Nat) (target : Dword),
    branchOf s i = some (take, len, target) →
      Goes (exec i s) (fun t => OnlyHart s t ∧ OnlyFlow s.h t.h ∧
        (take → t.h.pc = target) ∧ (¬take → t.h.pc = s.h.pc + BitVec.ofNat 64 len))

/-- R129: JAL and JALR write the link pc + 4 and go to their target; JALR's target comes from x[rs1] as it was. -/
def Sys2Proof.Spec.JumpsLinkAndGo : Prop :=
  ∀ (s : State) (d a : BitVec 5) (i : BitVec 20) (j : BitVec 15),
    Goes (exec (.jal d i) s) (fun t => OnlyHart s t ∧ OnlyX s.h t.h d (s.h.pc + 4) ∧
      t.h.pc = wrap (s.h.pc.toNat + i.toInt * 2)) ∧
    Goes (exec (.jalr d a j) s) (fun t => OnlyHart s t ∧ OnlyX s.h t.h d (s.h.pc + 4) ∧
      t.h.pc = wrap (ux s a + j.toInt * 2) &&& ~~~1#64)

/-- R131: BSE branches on the end flag of its hart's stream, which it does not change, once no earlier vector-class
instruction of the hart is outstanding; before that it stalls at its own address. -/
def Sys2Proof.Spec.BseBranchesOnEndFlag : Prop :=
  ∀ (s : State) (g : BitVec 3) (o : BitVec 12),
    ((∀ e ∈ s.p.dq, e.role ≠ roleOf s.cur) →
      Goes (exec (.bse g o) s) (fun t => OnlyHart s t ∧ OnlyFlow s.h t.h ∧
        (endFlag s.h g → t.h.pc = wrap (s.h.pc.toNat + o.toInt * 2)) ∧
        (¬endFlag s.h g → t.h.pc = s.h.pc + 4))) ∧
    ((∃ e ∈ s.p.dq, e.role = roleOf s.cur) →
      Goes (exec (.bse g o) s) (fun t => t = { s with h := { s.h with issue := .stalled .vecDrain } }))

/-- R132 to R136, R138: a scalar float instruction writes its rounded result (R132 puts an f32 in the low word and
clears the high one), ORs its flags into FPST and changes nothing else.  The values are those of the shared
operations of Float.lean. -/
def Obligations.ScalarFloatWritesResultAndFlags : Prop :=
  ∀ (s : State) (i : Instr) (d : BitVec 5) (v : Nat) (fl : Flags),
    fpValue s i = some (d, v, fl) →
      Goes (exec i s) (fun t => OnlyHart s t ∧ t.h.fpst = s.h.fpst ||| fl ∧
        OnlyX { s.h with fpst := t.h.fpst } t.h d (BitVec.ofNat 64 v) ∧ t.h.pc = s.h.pc + 4)

namespace Sys2Proof.Spec

/-! ## Scalar memory (spec/10_order_instructions.md R231-R235, R139) -/

/-- The next instruction, `len` bytes on, in a state whose every other effect is `e`. -/
def NextAfter (len : Nat) (e t : State) : Prop :=
  OnlyHart e t ∧ OnlyFlow e.h t.h ∧ t.h.pc = e.h.pc + BitVec.ofNat 64 len

/-- The `n` bytes from a key hold the low bytes of `v`, little-endian; every other byte is as before. -/
def BytesWritten (key n v : Nat) (s t : State) : Prop :=
  ∀ a, readByte t a = if key ≤ a ∧ a < key + n then BitVec.ofNat 8 (v / 256 ^ (a - key)) else readByte s a

/-- The little-endian number in the `n` bytes from a key (R6). -/
def bytesValue (s : State) (key : Nat) : Nat → Nat
  | 0 => 0
  | n + 1 => (readByte s key).toNat + 256 * bytesValue s (key + 1) n

/-- The number in the `n` bytes from a key as an access sees it: in an M core's private memory the verified image gives
what nothing has written, and memory holds what differs from it (R368, R371; log entry 5). -/
def locValue (s : State) (key n : Nat) : Nat :=
  if spaceOf key = 8 then bytesValue s key n ^^^ imageNat s key n else bytesValue s key n

/-- The bytes that stand for a number at a key (log entry 5). -/
def putValue (s : State) (key n v : Nat) : Nat :=
  if spaceOf key = 8 then v % 2 ^ (8 * n) ^^^ imageNat s key n else v

/-- An `n`-bit number read as two's complement. -/
def signed (n v : Nat) : Int := if v < 2 ^ (n - 1) then v else v - 2 ^ n

/-- What a scalar access names: length of the instruction, bytes, address, stream. -/
structure Access where
  len : Nat
  size : Nat
  va : Dword
  g : BitVec 3

/-- The scalar loads: the access, whether it sign-extends, the destination. -/
def loadOf (s : State) : Instr → Option (Access × Bool × BitVec 5)
  | .ldb d a g _ o => some (⟨4, 1, wrap (ux s a + o.toInt), g⟩, true, d)
  | .ldbu d a g _ o => some (⟨4, 1, wrap (ux s a + o.toInt), g⟩, false, d)
  | .ldh d a g _ o => some (⟨4, 2, wrap (ux s a + o.toInt * 2), g⟩, true, d)
  | .ldhu d a g _ o => some (⟨4, 2, wrap (ux s a + o.toInt * 2), g⟩, false, d)
  | .ldw d a g _ o => some (⟨4, 4, wrap (ux s a + o.toInt * 4), g⟩, true, d)
  | .ldwu d a g _ o => some (⟨4, 4, wrap (ux s a + o.toInt * 4), g⟩, false, d)
  | .ldd d a g _ o => some (⟨4, 8, wrap (ux s a + o.toInt * 8), g⟩, true, d)
  | .cLdw a i => some (⟨2, 4, wrap (ux s s.h.ldst + i.toNat * 4), 0⟩, true, a)
  | .cLdd a i => some (⟨2, 8, wrap (ux s s.h.ldst + i.toNat * 8), 0⟩, true, a)
  | _ => none

/-- The scalar stores: the access and the register stored. -/
def storeOf (s : State) : Instr → Option (Access × BitVec 5)
  | .stb a b g _ o => some (⟨4, 1, wrap (ux s a + o.toInt), g⟩, b)
  | .sth a b g _ o => some (⟨4, 2, wrap (ux s a + o.toInt * 2), g⟩, b)
  | .stw a b g _ o => some (⟨4, 4, wrap (ux s a + o.toInt * 4), g⟩, b)
  | .std a b g _ o => some (⟨4, 8, wrap (ux s a + o.toInt * 8), g⟩, b)
  | .cStw a i => some (⟨2, 4, wrap (ux s s.h.ldst + i.toNat * 4), 0⟩, a)
  | .cStd a i => some (⟨2, 8, wrap (ux s s.h.ldst + i.toNat * 8), 0⟩, a)
  | _ => none

/-- The operations of R233 on old and operand of `n` bits. -/
def amoValue (n old b : Nat) : AmoOp → Nat
  | .add => (old + b) % 2 ^ n
  | .and => old &&& b
  | .or => old ||| b
  | .xor => old ^^^ b
  | .min => if signed n b < signed n old then b else old
  | .max => if signed n old < signed n b then b else old
  | .minu => if b < old then b else old
  | .maxu => if old < b then b else old
  | .swap => b

/-- The atomics: access, destination, AQ, RL, SCOPE, and what they write given the old value, nothing for a CAS that
finds another value (R233, R234). -/
def atomicOf (s : State) : Instr → Option (Access × BitVec 5 × BitVec 1 × BitVec 1 × BitVec 3 × (Nat → Option Nat))
  | .amoAddW d a b g c q r => some (⟨4, 4, xr s a, g⟩, d, q, r, c, fun o => some (amoValue 32 o (ux s b % 2 ^ 32) .add))
  | .amoAndW d a b g c q r => some (⟨4, 4, xr s a, g⟩, d, q, r, c, fun o => some (amoValue 32 o (ux s b % 2 ^ 32) .and))
  | .amoOrW d a b g c q r => some (⟨4, 4, xr s a, g⟩, d, q, r, c, fun o => some (amoValue 32 o (ux s b % 2 ^ 32) .or))
  | .amoXorW d a b g c q r => some (⟨4, 4, xr s a, g⟩, d, q, r, c, fun o => some (amoValue 32 o (ux s b % 2 ^ 32) .xor))
  | .amoMinW d a b g c q r => some (⟨4, 4, xr s a, g⟩, d, q, r, c, fun o => some (amoValue 32 o (ux s b % 2 ^ 32) .min))
  | .amoMaxW d a b g c q r => some (⟨4, 4, xr s a, g⟩, d, q, r, c, fun o => some (amoValue 32 o (ux s b % 2 ^ 32) .max))
  | .amoMinuW d a b g c q r => some (⟨4, 4, xr s a, g⟩, d, q, r, c, fun o => some (amoValue 32 o (ux s b % 2 ^ 32) .minu))
  | .amoMaxuW d a b g c q r => some (⟨4, 4, xr s a, g⟩, d, q, r, c, fun o => some (amoValue 32 o (ux s b % 2 ^ 32) .maxu))
  | .amoSwapW d a b g c q r => some (⟨4, 4, xr s a, g⟩, d, q, r, c, fun o => some (amoValue 32 o (ux s b % 2 ^ 32) .swap))
  | .amoAddD d a b g c q r => some (⟨4, 8, xr s a, g⟩, d, q, r, c, fun o => some (amoValue 64 o (ux s b) .add))
  | .amoAndD d a b g c q r => some (⟨4, 8, xr s a, g⟩, d, q, r, c, fun o => some (amoValue 64 o (ux s b) .and))
  | .amoOrD d a b g c q r => some (⟨4, 8, xr s a, g⟩, d, q, r, c, fun o => some (amoValue 64 o (ux s b) .or))
  | .amoXorD d a b g c q r => some (⟨4, 8, xr s a, g⟩, d, q, r, c, fun o => some (amoValue 64 o (ux s b) .xor))
  | .amoMinD d a b g c q r => some (⟨4, 8, xr s a, g⟩, d, q, r, c, fun o => some (amoValue 64 o (ux s b) .min))
  | .amoMaxD d a b g c q r => some (⟨4, 8, xr s a, g⟩, d, q, r, c, fun o => some (amoValue 64 o (ux s b) .max))
  | .amoMinuD d a b g c q r => some (⟨4, 8, xr s a, g⟩, d, q, r, c, fun o => some (amoValue 64 o (ux s b) .minu))
  | .amoMaxuD d a b g c q r => some (⟨4, 8, xr s a, g⟩, d, q, r, c, fun o => some (amoValue 64 o (ux s b) .maxu))
  | .amoSwapD d a b g c q r => some (⟨4, 8, xr s a, g⟩, d, q, r, c, fun o => some (amoValue 64 o (ux s b) .swap))
  | .casW d a b g c q r =>
    some (⟨4, 4, xr s a, g⟩, d, q, r, c, fun o => if o = ux s d % 2 ^ 32 then some (ux s b % 2 ^ 32) else none)
  | .casD d a b g c q r =>
    some (⟨4, 8, xr s a, g⟩, d, q, r, c, fun o => if o = ux s d then some (ux s b) else none)
  | _ => none

/-- The hart in focus is ready to issue. -/
def Ready (s : State) : Prop := s.h.issue = .ready

/-- Nothing holds a scalar access of the hart in focus at issue: its stream has no vector memory instruction not yet
performed (R213), its core has a request to spare (R232). -/
def IssueFree (s : State) (g : BitVec 3) : Prop :=
  (∀ e ∈ s.p.dq, e.role = roleOf s.cur → g.toNat ∉ e.strms) ∧
    (s.reqs.filter (fun r => r.hart / 16 = s.cur / 16)).length < 4096

/-- No comparator enabled for this kind of access matches one of its bytes (R333). -/
def Unwatched (s : State) (x : Access) (kind : AccKind) : Prop :=
  ∀ b ∈ s.h.bps.toList, (b.ctl.getLsbD 1 = true ∧ kind ≠ .write ∨ b.ctl.getLsbD 2 = true ∧ kind ≠ .read) →
    ∀ i < x.size, bpMatches b (x.va.toNat + i) = false

/-- The checks of R232 pass and no breakpoint watches it: the access lies at `key`, under key generation `gen`. -/
def Passes (s : State) (x : Access) (kind : AccKind) (key gen : Nat) : Prop :=
  x.va.toNat % x.size = 0 ∧ resolveCur s x.va x.size kind = .ok ⟨key, gen⟩ ∧ Unwatched s x kind

/-- Memory, poison, the semaphores and the held cycle counts are in the canonical form that every operation on them
keeps. -/
def Canonical (s : State) : Prop :=
  Memory.wf s.mem = true ∧ SMap.wf false s.poison = true ∧ SMap.wf 0 s.sems = true ∧ SMap.wf 0 s.cyc = true ∧ SMap.wf 0 s.slots = true

/-- The request numbers given out lie below the next one. -/
def RequestsNumbered (s : State) : Prop := ∀ r ∈ s.reqs, r.id < s.nextId

/-- No earlier access of the hart in focus in this stream and home domain is still to be performed (R213). -/
def StreamClear (s : State) (g : BitVec 3) (key : Nat) : Prop :=
  ∀ r ∈ s.reqs, r.uid = s.h.uid → r.strm = some g.toNat → r.dom = domOf key → r.done = true

/-- The location is memory, an M core's private memory included, not a register of the cluster power controllers, the
snapshot window or the log ring. -/
def Stored (key : Nat) : Prop := spaceOf key ≠ 9 ∧ spaceOf key ≠ 10 ∧ spaceOf key ≠ 11
/-- The location is memory that holds its bytes as they are: not an M core's private memory (log entry 5). -/
def InMemory (key : Nat) : Prop := Stored key ∧ spaceOf key ≠ 8

/-- What the reading or writing of a sector leaves beside its bytes: the log of old bytes and the key it is under. -/
def OnlyMemory (e t : State) : Prop := t = { e with mem := t.mem, wlog := t.wlog, secGen := t.secGen }

end Sys2Proof.Spec

/-- R231, R232, R139: a scalar load that may issue and whose checks pass leaves its hart stalled, writing nothing;
when it is performed at its home LOAD_DATA_RETURN writes rd with the little-endian bytes, sign- or zero-extended, and
the hart goes on; nothing else changes. -/
def Obligations.LoadsReturnTheirBytes : Prop :=
  ∀ (s : State) (i : Instr) (x : Access) (sgn : Bool) (d : BitVec 5) (key gen : Nat),
    loadOf s i = some (x, sgn, d) → Ready s → IssueFree s x.g → Passes s x .read key gen →
    RequestsNumbered s → StreamClear s x.g key → Stored key → checkSector s key gen = .good →
      Goes (exec i s) (fun t =>
        t.h = { s.h with issue := .stalled (.reply s.nextId) } ∧
        t = { s with h := t.h, reqs := t.reqs, nextId := s.nextId + 1 } ∧
        (∃ r : Req, t.reqs = s.reqs ++ [r] ∧ r.id = s.nextId) ∧
        Goes (exec (.loadDataReturn s.nextId) t)
          (ScalarDone x.len d
            (wrap (if sgn then signed (8 * x.size) (locValue s key x.size) else locValue s key x.size))
            { s with nextId := s.nextId + 1 }))

/-- R231, R232, R139: a scalar store that may issue and whose checks pass is queued and its hart goes on; when
STORE_PERFORMED performs it at its home, within the package, the bytes of x[rs2] stand at the address, every other
byte and every register is as before, and the request is gone. -/
def Obligations.StoresWriteTheirBytes : Prop :=
  ∀ (s : State) (i : Instr) (x : Access) (b : BitVec 5) (key gen : Nat),
    storeOf s i = some (x, b) → Canonical s → IssueFree s x.g → Passes s x .write key gen → RequestsNumbered s →
      Goes (exec i s) (fun t =>
        (∃ r : Req, r.id = s.nextId ∧ r.done = false ∧
          NextAfter x.len { s with reqs := s.reqs ++ [r], nextId := s.nextId + 1 } t) ∧
        (StreamClear s x.g key → Stored key → domOf key = 0 → checkSector s key gen = .good →
          Goes (exec (.storePerformed s.nextId) t) (fun u =>
            OnlyMemory { t with reqs := s.reqs } u ∧ BytesWritten key x.size (putValue s key x.size (ux s b)) t u)))

/-- R233, R234, R235: an AMO or CAS that may issue and whose checks pass leaves its hart stalled; when it is performed
at its home LOAD_DATA_RETURN gives rd the old value sign-extended, the location takes the new one, or stands where a
CAS found another value, and no other byte changes. -/
def Obligations.AtomicsReturnOldAndWriteNew : Prop :=
  ∀ (s : State) (i : Instr) (x : Access) (d : BitVec 5) (q r : BitVec 1) (c : BitVec 3) (f : Nat → Option Nat)
    (key gen : Nat),
    atomicOf s i = some (x, d, q, r, c, f) → Canonical s → Ready s → IssueFree s x.g → Passes s x .rmw key gen →
    RequestsNumbered s → StreamClear s x.g key → Stored key → checkSector s key gen = .good →
    (c = 7 → q = 0 ∧ r = 0) → (r = 1 → relBlocked s s.h.uid s.cur s.nextId c.toNat = false) →
      Goes (exec i s) (fun t =>
        t.h = { s.h with issue := .stalled (.reply s.nextId) } ∧
        t = { s with h := t.h, reqs := t.reqs, nextId := s.nextId + 1 } ∧
        Goes (exec (.loadDataReturn s.nextId) t) (fun u =>
          let old := locValue s key x.size
          OnlyMemory { s with h := u.h, nextId := s.nextId + 1 } u ∧
          OnlyX s.h u.h d (wrap (signed (8 * x.size) old)) ∧ u.h.pc = s.h.pc + 4 ∧
          (match f old with
           | some v => BytesWritten key x.size (putValue s key x.size v) s u
           | none => ∀ a, readByte u a = readByte s a)))

/-- R205, R232, R235: a scalar load or atomic whose sector is found poisoned when it is performed writes neither rd nor
memory; its hart takes POISON with TPC at the instruction and TVAL the address. -/
def Sys2Proof.Spec.PoisonedReadsTrap : Prop :=
  ∀ (s : State) (i : Instr) (x : Access) (kind : AccKind) (key gen : Nat),
    ((∃ n d, loadOf s i = some (x, n, d) ∧ kind = .read) ∨
      (∃ d q r c f, atomicOf s i = some (x, d, q, r, c, f) ∧ kind = .rmw ∧ r = 0 ∧ (c = 7 → q = 0))) →
    Ready s → IssueFree s x.g → Passes s x kind key gen → RequestsNumbered s → StreamClear s x.g key →
    isPois s key = true → s.hub.arm = false →
      Goes (exec i s) (fun t => exec (.loadDataReturn s.nextId) t =
        .next (takeTrap 0x0A 0 false x.va s.h.pc { s with nextId := s.nextId + 1 }))

/-- R68, R201, R232, R322: the traps of a scalar access at issue, in their order, with TPC at the instruction: ILL for
SCOPE 7 with AQ or RL, ACCESS for a misaligned address, then the cause that resolving the address gives, then the
data breakpoint that matches. -/
def Sys2Proof.Spec.AccessesTrapBeforeAnyEffect : Prop :=
  ∀ (s : State) (i : Instr) (x : Access) (kind : AccKind),
    ((∃ n d, loadOf s i = some (x, n, d) ∧ kind = .read) ∨ (∃ b, storeOf s i = some (x, b) ∧ kind = .write) ∨
      (∃ d q r c f, atomicOf s i = some (x, d, q, r, c, f) ∧ kind = .rmw ∧ (c = 7 → q = 0 ∧ r = 0))) →
    IssueFree s x.g →
      (x.va.toNat % x.size ≠ 0 → exec i s = .next (takeTrap 0x06 0 false x.va s.h.pc s)) ∧
      (∀ c, x.va.toNat % x.size = 0 → resolveCur s x.va x.size kind = .fault c → onUser s = true →
        s.hub.arm = false →
        exec i s = .next (takeTrap c 0 false x.va s.h.pc (if c = 0x09 then sendPri s s.p.ctx x.va.toNat else s))) ∧
      (∀ c, x.va.toNat % x.size = 0 → resolveCur s x.va x.size kind = .fault c → s.hub.arm = false →
        Goes (exec i s) (fun t => t.reqs = s.reqs ∧ ∀ a, readByte t a = readByte s a)) ∧
      (∀ a n m, x.va.toNat % x.size = 0 → resolveCur s x.va x.size kind = .ok a →
        bpData s.h x.va.toNat x.size (kind == .read || kind == .rmw) (kind == .write || kind == .rmw) = some (n, m) →
        exec i s = .next (takeTrap 0x02 n false (BitVec.ofNat 64 m) s.h.pc s))

/-- R68: an atomic with SCOPE 7 and AQ or RL set raises ILL with its own word in TVAL. -/
def Sys2Proof.Spec.AtomicScopeSevenIsIllegal : Prop :=
  ∀ (s : State) (i : Instr) (x : Access) (d : BitVec 5) (q r : BitVec 1) (f : Nat → Option Nat),
    atomicOf s i = some (x, d, q, r, 7, f) → (q = 1 ∨ r = 1) →
      exec i s = .next (takeTrap 0x04 0 false (BitVec.ofNat 64 (codeNat (encode i))) s.h.pc s)

/-- R213, R232: a scalar access whose stream has an earlier vector memory instruction of its hart not yet performed,
or whose core has 4,096 requests outstanding, stalls at its instruction, and nothing else happens. -/
def Sys2Proof.Spec.ScalarAccessesStallInOrder : Prop :=
  ∀ (s : State) (i : Instr) (x : Access),
    ((∃ n d, loadOf s i = some (x, n, d)) ∨ (∃ b, storeOf s i = some (x, b)) ∨
      (∃ d q r c f, atomicOf s i = some (x, d, q, r, c, f) ∧ (c = 7 → q = 0 ∧ r = 0))) →
    ¬IssueFree s x.g → Goes (exec i s) (fun t => ∃ w : Stall, (w = .strm x.g.toNat ∨ w = .reqLimit) ∧
      t = { s with h := { s.h with issue := .stalled w } })

/-- R209, R213, R218: LOAD_DATA_RETURN and STORE_PERFORMED of a request that an earlier access of its hart, stream and
domain precedes, or of a release that still waits for what it carries, the completions that earlier vector instructions
owe included (R212), change nothing. -/
def Sys2Proof.Spec.RequestsAreNotPerformedEarly : Prop :=
  ∀ (s : State) (r q : Req), s.reqs.find? (fun x => x.id == r.id) = some r → q ∈ s.reqs →
    ((q.uid = r.uid ∧ q.id < r.id ∧ q.strm = r.strm ∧ r.strm ≠ none ∧ q.dom = r.dom ∧ q.done = false) ∨
      (∃ c, r.rel = some c ∧ q.uid = r.uid ∧ ordOf q < r.id ∧ meetsScope r.hart q.key c = true)) →
      exec (.loadDataReturn r.id) s = .next s ∧ exec (.storePerformed r.id) s = .next s

/-- R212: a write performed outside the package leaves its request until PEER_COMPLETION removes it; one not yet
performed stays. -/
def Sys2Proof.Spec.PeerCompletionEndsPerformedRequests : Prop :=
  ∀ (s : State) (n : Nat), Goes (exec (.peerCompletion n) s) (fun t =>
    t = { s with reqs := t.reqs } ∧ ∀ r, r ∈ t.reqs ↔ r ∈ s.reqs ∧ ¬(r.id = n ∧ r.done = true))

/-- R187, R188: the local window of a hart on a user core: selector 0 is its TCM allocation, 0x10 the scratchpad, 0x20
to 0x23 the SRAM of a die; an access that runs past the allocation, or has another selector, is a fault of cause
ACCESS, a fetch one of cause FETCH. -/
def Sys2Proof.Spec.LocalWindowIsBounded : Prop :=
  ∀ (s : State) (off size : Nat) (kind : AccKind), onUser s = true → off < 2 ^ 40 →
    let va : Dword := BitVec.ofNat 64 (2 ^ 55 - 2 ^ 40 + off)
    let sel := off / 2 ^ 32
    let o := off % 2 ^ 32
    (kind = .fetch → resolveCur s va size kind = .fault 0x03) ∧
    (kind ≠ .fetch →
      (sel = 0 → resolveCur s va size kind = if o + size ≤ s.p.tcmb then .ok ⟨tcmKey s.cur (s.p.tcmBase + o), 0⟩ else .fault 0x06) ∧
      (sel = 0x10 → resolveCur s va size kind = if o + size ≤ s.p.scrb then .ok ⟨scrKey s.cur (s.p.scrBase + o), 0⟩ else .fault 0x06) ∧
      (0x20 ≤ sel → sel ≤ 0x23 → resolveCur s va size kind =
        if o + size ≤ s.p.dsrb then .ok ⟨dsrKey s.cur (sel - 0x20) (s.p.dsrBase + o), 0⟩ else .fault 0x06) ∧
      (sel ≠ 0 → sel ≠ 0x10 → (sel < 0x20 ∨ 0x23 < sel) → resolveCur s va size kind = .fault 0x06))

namespace Sys2Proof.Spec

/-! ## Control registers (spec/13_isolation.md R316-R319) -/

/-- The map of R316: number, then what U, S and M may do. -/
def cregMap : List (Nat × RegAcc × RegAcc × RegAcc) :=
  [(0x000, .ro, .ro, .none), (0x001, .rw, .rw, .none), (0x002, .ro, .ro, .none), (0x003, .ro, .ro, .none),
   (0x004, .rw, .rw, .rw), (0x005, .rw, .rw, .rw), (0x006, .rw, .rw, .none), (0x007, .ro, .ro, .none),
   (0x008, .rw, .rw, .rw), (0x009, .rw, .rw, .rw), (0x00A, .rw, .rw, .rw), (0x00B, .rw, .rw, .rw),
   (0x00C, .rw, .rw, .rw), (0x00D, .rw, .rw, .rw), (0x010, .ro, .ro, .ro), (0x011, .ro, .ro, .ro),
   (0x012, .rw, .rw, .rw), (0x013, .ro, .rw, .rw), (0x014, .none, .wo, .none)]
  ++
  [(0x020, .none, .rw, .rw), (0x021, .none, .rw, .rw), (0x022, .none, .rw, .rw), (0x023, .none, .rw, .rw),
   (0x024, .none, .rw, .rw), (0x025, .none, .rw, .rw), (0x026, .none, .rw, .rw), (0x028, .none, .rw, .rw),
   (0x029, .none, .rw, .rw), (0x02A, .none, .rw, .rw), (0x030, .none, .rw, .rw), (0x031, .none, .wo, .wo),
   (0x032, .none, .rw, .rw), (0x033, .none, .rw, .rw), (0x034, .none, .rw, .rw), (0x035, .none, .rw, .rw),
   (0x036, .none, .rw, .rw), (0x037, .none, .ro, .rw), (0x040, .none, .none, .rw), (0x041, .none, .none, .rw),
   (0x042, .none, .none, .wo), (0x043, .none, .none, .rw), (0x044, .none, .none, .rw), (0x045, .none, .none, .rw)]

/-- What each level may do with a register of the map. -/
def columns (n : BitVec 12) : Option (RegAcc × RegAcc × RegAcc) := (cregMap.find? (fun e => e.1 == n.toNat)).map (·.2)

/-- What a level may do with a register that the map holds. -/
def column (level : Nat) (c : RegAcc × RegAcc × RegAcc) : RegAcc :=
  match level with
  | 0 => c.1
  | 1 => c.2.1
  | _ => c.2.2

/-- A register with a W1C or WO field (R318): IEND, XLINV, KEYCTL, UMPST, EINJC. -/
def bitFormsIllegal (n : BitVec 12) : Prop := n = 0x014 ∨ n = 0x031 ∨ n = 0x042 ∨ n = 0x034 ∨ n = 0x044

/-- The hart in focus may read the register (R317): RO, RW, or a WO register, which reads 0. -/
def MayRead (s : State) (n : BitVec 12) : Prop := ∃ c, columns n = some c ∧ column s.h.level c ≠ .none

/-- The hart in focus may write the register. -/
def MayWrite (s : State) (n : BitVec 12) : Prop :=
  ∃ c, columns n = some c ∧ (column s.h.level c = .rw ∨ column s.h.level c = .wo)

/-- The drain of R318 is over where the register asks for it. -/
def Drained (s : State) (n : BitVec 12) : Prop :=
  (n ∈ [0x001#12, 0x002, 0x003, 0x004, 0x006, 0x008, 0x009, 0x00A, 0x00B, 0x00C, 0x00D]) →
    ∀ e ∈ s.p.dq, e.role ≠ roleOf s.cur

/-- The instructions of R318 that write: destination, register, and the value written given the old one. -/
def setOf (s : State) (old : Dword) : Instr → Option (BitVec 5 × BitVec 12 × Dword)
  | .setc d a n => some (d, n, xr s a)
  | .setcb d a n => some (d, n, old ||| xr s a)
  | .clrcb d a n => some (d, n, old &&& ~~~xr s a)
  | _ => none

/-- A stream of a hart, changed (R243). -/
def withStream (h : Hart) (f : Stream → Stream) : Hart := { h with g := h.g.set h.gsel.toNat (f h.g[h.gsel.toNat]) }

/-- A comparator of a hart, changed (R333). -/
def withBp (h : Hart) (f : Breakpoint → Breakpoint) : Hart := { h with bps := h.bps.set h.bpsel.toNat (f h.bps[h.bpsel.toNat]) }

/-- BPCTL as stored: X, R, W, and IGN at most 55 (R333). -/
def bpctlOf (v : Dword) : BitVec 9 :=
  BitVec.ofNat 9 (v.toNat % 8 + 8 * (if v.toNat / 8 % 64 < 56 then v.toNat / 8 % 64 else 55))

/-- The hart after a write of one of its own registers, field by field (R22, R87, R119, R243, R270, R317, R320, R333).
`user` tells a user core; `top` is the PRIO field of the launch record. -/
def hartWrite (user : Bool) (top : BitVec 4) (h : Hart) (n : BitVec 12) (v : Dword) : Option Hart :=
  if n = 0x001 then some { h with vstart := v.toNat }
  else if n = 0x004 then some { h with fpst := v.extractLsb' 0 5 }
  else if n = 0x005 then some { h with ldst := v.extractLsb' 0 5 }
  else if n = 0x008 then some { h with gsel := v.extractLsb' 0 3 }
  else if n = 0x009 then some (withStream h (fun g => { g with addr := v }))
  else if n = 0x00A then some (withStream h (fun g => { g with strd := v }))
  else if n = 0x00B then some (withStream h (fun g => { g with len := v.extractLsb' 0 48 }))
  else if n = 0x00C then some (withStream h (fun g => { g with pos := v.extractLsb' 0 48 }))
  else if n = 0x00D then some (withStream h (fun g => { g with act := v.getLsbD 0, dir := v.getLsbD 1 }))
  else if n = 0x012 then some { h with prio := BitVec.ofNat 4 (min v.toNat (if h.level = 0 then top.toNat else 15)) }
  else if n = 0x020 then some { h with tcause := v.extractLsb' 0 12 }
  else if n = 0x021 then some { h with tpc := wrap (v.toNat / 2 * 2) }
  else if n = 0x022 then some { h with tval := v }
  else if n = 0x023 then some { h with tstat := if user then v.extractLsb' 0 9 else v.extractLsb' 0 9 ||| 1 }
  else if n = 0x024 then some { h with tvec := wrap (v.toNat / 4 * 4) }
  else if n = 0x025 then some { h with tscr := v }
  else if n = 0x026 then some { h with txol := wrap (v.toNat / 2 * 2) }
  else if n = 0x028 then some { h with bpsel := v.extractLsb' 0 3 }
  else if n = 0x029 then some (withBp h (fun b => { b with va := v.extractLsb' 0 55 }))
  else if n = 0x02A then
    some (withBp h (fun b => { b with ctl := bpctlOf v }))
  else if n = 0x045 then some { h with mctxsel := v.extractLsb' 0 11 }
  else none

/-- A per-context register after a write (R196, R198, R259, R276, R277, R287). -/
def ctxWrite (x : Ctx) (n : BitVec 12) (v : Dword) : Option Ctx :=
  if n = 0x013 then some { x with wceil := if v.toNat ≤ x.mceil then v.toNat else x.mceil }
  else if n = 0x030 then some { x with pgroot := wrap (v.toNat % 2 ^ 52 / 2 ^ 16 * 2 ^ 16) }
  else if n = 0x032 then some { x with prisem := v.extractLsb' 0 15 }
  else if n = 0x033 then some { x with dlrec := wrap (v.toNat % 2 ^ 55 / 64 * 64 + v.toNat % 2) }
  else if n = 0x034 then some { x with umpst := x.umpst &&& ~~~(v.extractLsb' 0 5), note := v.getLsbD 8 }
  else if n = 0x035 then some { x with pgrace := v.extractLsb' 0 32 }
  else if n = 0x040 then
    some { x with mceil := v.toNat, wceil := if v.toNat < x.wceil then v.toNat else x.wceil }
  else none

/-- SEMWIN of a cluster after a write (R313): BASE, and COUNT at most 512 − BASE. -/
def semwinWritten (x : Ctx) (clus : Nat) (v : Dword) : Ctx :=
  let base := v.toNat % 512
  let count := v.toNat / 512 % 1024
  { x with semwin := SMap.set 0 x.semwin clus (base + 512 * (if base + count ≤ 512 then count else 512 - base)) }

/-- The one-shot armed, where EINJA names a sector (R350, R351): the sector leaves its home slice, and with it the
poison that an earlier one-shot left in a clean copy there. -/
def shotArmed (s : State) : State :=
  let sec := s.hub.einja.toNat / 64
  if s.hub.einja.toNat < 0x8000000000 then { s with
    poison := if sec ∈ s.hub.shotCopies then SMap.set false s.poison sec false else s.poison
    hub := { s.hub with arm := true, shotCopies := s.hub.shotCopies.filter (fun k => k ≠ sec) } }
  else s

/-- The state after a write of a package register by M (R279, R314, R350). -/
def packageWrite (s : State) (n : BitVec 12) (v : Dword) : Option State :=
  if n = 0x041 then
    some { s with hub := { s.hub with agestep := if v.toNat % 256 = 0 then 1 else v.toNat % 256 } }
  else if n = 0x043 then some { s with hub := { s.hub with einja := v.extractLsb' 0 52 } }
  else if n = 0x044 then
    let t := if v.getLsbD 0 then shotArmed s else s
    some { t with hub := { t.hub with
      fired := s.hub.fired && !v.getLsbD 1, repmask := v.extractLsb' 32 16, repsev := v.getLsbD 48 } }
  else none

/-- A fresh key in a context slot (R314): its generation is one no sector was written under. -/
def freshKey (s : State) (c : Nat) : State :=
  { s with ctxs := adjustKey s.ctxs c (fun x => { x with gen := s.genSeq }), genSeq := s.genSeq + 1 }
/-- An erased key (R314): generation 1, under which every tag fails. -/
def erasedKey (s : State) (c : Nat) : State :=
  { s with ctxs := adjustKey s.ctxs c (fun x => { x with gen := 1 }) }
/-- A fresh shared key (R314). -/
def freshShared (s : State) : State :=
  { s with hub := { s.hub with sharedGen := s.genSeq }, genSeq := s.genSeq + 1 }
/-- A write of KEYCTL by its OP (R314). -/
def keyctlWritten (s : State) (v : Dword) : State :=
  if v.toNat / 64 % 4 = 1 then freshKey s (v.toNat % 64)
  else if v.toNat / 64 % 4 = 2 then erasedKey s (v.toNat % 64)
  else if v.toNat / 64 % 4 = 3 then freshShared s
  else s

/-- What a write of a control register that takes effect at once leaves: the hart's own registers, the registers of
the context it reaches (R317), those of the package.  CHKCTL, whose write has more effects, is not here. -/
def cregWritten (s : State) (n : BitVec 12) (v : Dword) : Option State :=
  match hartWrite (onUser s) s.p.prio s.h n v, packageWrite s n v with
  | some h, _ => some { s with h := h }
  | none, some t => some t
  | none, none =>
    if n = 0x042 then some (keyctlWritten s v)
    else if n ∈ [0x013#12, 0x030, 0x032, 0x033, 0x034, 0x035, 0x037, 0x040] then
      match cregCtx s with
      | none => some s
      | some c => some { s with ctxs := adjustKey s.ctxs c (fun x =>
          if n = 0x037 then (if onUser s then x else semwinWritten x (cregClus s) v)
          else (ctxWrite x n v).getD x) }
    else none

/-- The value GETC gives of a register the hart or its pair holds (R19, R22-R24, R87, R105, R113, R243, R320). -/
def hartRead (s : State) (n : BitVec 12) : Option Dword :=
  let g := s.h.g[s.h.gsel.toNat]
  if n = 0x000 then some (wrap s.h.vl)
  else if n = 0x001 then some (wrap s.h.vstart)
  else if n = 0x002 then some (wrap (vtypeWord s.p))
  else if n = 0x003 then some (wrap (vlmaxOf s.p))
  else if n = 0x004 then some (s.h.fpst.setWidth 64)
  else if n = 0x005 then some (s.h.ldst.setWidth 64)
  else if n = 0x006 then some (s.p.seed.setWidth 64)
  else if n = 0x007 then some (wrap (s.p.ctx % 64 + (ctxOf s s.p.ctx).pasid * 64))
  else if n = 0x008 then some (s.h.gsel.setWidth 64)
  else if n = 0x009 then some g.addr
  else if n = 0x00A then some g.strd
  else if n = 0x00B then some (g.len.setWidth 64)
  else if n = 0x00C then some (g.pos.setWidth 64)
  else if n = 0x00D then
    some ((truth (g.act = true)) + 2 * truth (g.dir = true) + 4 * truth (g.act = true ∧ g.len ≤ g.pos)
      + 8 * g.breg.setWidth 64 + 256 * truth (g.bnd = true))
  else if n = 0x010 then some (wrap (s.cur % 2 ^ 19))
  else if n = 0x011 then some (wrap (cycOf s s.cur))
  else if n = 0x012 then some (s.h.prio.setWidth 64)
  else if n = 0x014 ∨ n = 0x031 ∨ n = 0x042 then some 0
  else if n = 0x020 then some (s.h.tcause.setWidth 64)
  else if n = 0x021 then some s.h.tpc
  else if n = 0x022 then some s.h.tval
  else if n = 0x023 then some (s.h.tstat.setWidth 64)
  else if n = 0x024 then some s.h.tvec
  else if n = 0x025 then some s.h.tscr
  else if n = 0x026 then some s.h.txol
  else if n = 0x028 then some (s.h.bpsel.setWidth 64)
  else if n = 0x029 then some (s.h.bps[s.h.bpsel.toNat].va.setWidth 64)
  else if n = 0x02A then some (s.h.bps[s.h.bpsel.toNat].ctl.setWidth 64)
  else if n = 0x041 then some (wrap s.hub.agestep)
  else if n = 0x043 then some (s.hub.einja.setWidth 64)
  else if n = 0x044 then
    some ((truth (s.hub.arm = true)) + 2 * truth (s.hub.fired = true) + 2 ^ 32 * s.hub.repmask.setWidth 64
      + 2 ^ 48 * truth (s.hub.repsev = true))
  else if n = 0x045 then some (s.h.mctxsel.setWidth 64)
  else none

/-- A value for PRISEM that enables a semaphore its cluster's window does not have: its n, bits [8:0], is COUNT or
more of the window of cluster [13:9] (R198, R313). -/
def PrisemOutside (s : State) (v : Dword) : Prop :=
  v.getLsbD 14 = true ∧ ∃ c, cregCtx s = some c ∧ SMap.get 0 (ctxOf s c).semwin (v.toNat / 512 % 32) / 512 ≤ v.toNat % 512

/-- A pair waits for its point of R107 with a new seed (R113). -/
def seedWaits (s : State) (v : Dword) (d : Nat) (t : State) : Prop :=
  t = { s with h := { s.h with issue := .stalled .change }, p := { s.p with chg := some (.seed (roleOf s.cur) (v.extractLsb' 0 32) d) } }

/-- The code and cause that IEND takes from a value written (R319), and the number of the register its SETC writes. -/
def iendOf (v : Dword) (rd : Nat) : Stall :=
  .iend (if 8 ≤ v.toNat % 256 ∧ v.toNat % 256 ≤ 0x7F then 2 else v.toNat % 256) (v.toNat / 256 % 256) rd

end Sys2Proof.Spec

/-- R70, R317, R318: a control-register instruction that its level may not use, or that names a register outside the
map, traps before any effect: ILL or PRIV as R70 and R317 say, with its own word in TVAL. -/
def Sys2Proof.Spec.ControlRegisterAccessRules : Prop :=
  ∀ (s : State) (d a : BitVec 5) (n : BitVec 12) (i : Instr),
    (i = .getc d n ∨ i = .setc d a n ∨ i = .setcb d a n ∨ i = .clrcb d a n) → s.h.level ≤ 2 →
      let trap (c : Nat) : Prop := exec i s = .next (takeTrap c 0 false (BitVec.ofNat 64 (codeNat (encode i))) s.h.pc s)
      (columns n = none → trap 0x04) ∧
      (∀ c, columns n = some c →
        ((i = .setcb d a n ∨ i = .clrcb d a n) ∧ bitFormsIllegal n → trap 0x04) ∧
        (¬((i = .setcb d a n ∨ i = .clrcb d a n) ∧ bitFormsIllegal n) →
          (column s.h.level c = .none → trap (if s.h.level = 2 then 0x04 else 0x05)) ∧
          (i ≠ .getc d n → column s.h.level c = .ro →
            trap (if (s.h.level = 0 ∧ column 1 c = .rw ∨ s.h.level < 2 ∧ column 2 c = .rw) then 0x05 else 0x04))))

/-- R318: a control-register instruction of VSTART, VTYPE, VLMAX, FPST, SRSEED or a stream register that its level may
use stalls until every earlier vector-class instruction of its hart has completed. -/
def Sys2Proof.Spec.ControlRegisterDrain : Prop :=
  ∀ (s : State) (d a : BitVec 5) (n : BitVec 12) (i : Instr),
    (i = .getc d n ∧ MayRead s n ∨ (i = .setc d a n ∨ i = .setcb d a n ∨ i = .clrcb d a n) ∧ MayWrite s n) →
    ¬Drained s n → exec i s = .next { s with h := { s.h with issue := .stalled .vecDrain } }

/-- R316, R318: GETC writes the register's value to rd and changes no register of the map but LDST. -/
def Sys2Proof.Spec.GetcReadsRegister : Prop :=
  ∀ (s : State) (d : BitVec 5) (n : BitVec 12) (v : Dword), s.h.level ≤ 2 → MayRead s n → Drained s n →
    hartRead s n = some v → Goes (exec (.getc d n) s) (ScalarDone 4 d v s)

/-- R317, R318: GETC of a per-context register reads the context the level reaches, or 0 at M where MCTXSEL selects
none. -/
def Sys2Proof.Spec.GetcReadsContextRegister : Prop :=
  ∀ (s : State) (d : BitVec 5) (n : BitVec 12), s.h.level ≤ 2 → MayRead s n →
    n ∈ [0x013#12, 0x030, 0x032, 0x033, 0x034, 0x035, 0x036, 0x037, 0x040] →
      Goes (exec (.getc d n) s) (ScalarDone 4 d
        (match cregCtx s with
         | none => 0
         | some c =>
           let x := ctxOf s c
           if n = 0x013 then wrap x.wceil else if n = 0x030 then x.pgroot
           else if n = 0x032 then x.prisem.setWidth 64 else if n = 0x033 then x.dlrec
           else if n = 0x034 then
             wrap (x.umpst.toNat + (if x.note then 256 else 0) + x.used % 2 ^ 16 * 2 ^ 16 + x.quota % 2 ^ 16 * 2 ^ 32)
           else if n = 0x035 then x.pgrace.setWidth 64 else if n = 0x036 then x.chkctl.setWidth 64
           else if n = 0x037 then wrap ((SMap.get 0 x.semwin (cregClus s) : Nat) : Int) else wrap x.mceil) s)

/-- R318, R87: SETC, SETCB and CLRCB write the register's previous value to rd and then the register, which for LDST is
the write that stands (log entry 35); a value for PRISEM whose semaphore lies outside the window traps ACCESS with its
number (R313, read as log entry 58 says); a key is a generation number (log entry 13). -/
def Sys2Proof.Spec.SetcWritesRegister : Prop :=
  ∀ (s : State) (i : Instr) (d : BitVec 5) (n : BitVec 12) (v : Dword),
    setOf s (BitVec.ofNat 64 (cregRead s n.toNat)) i = some (d, n, v) → s.h.level ≤ 2 → MayWrite s n →
    (bitFormsIllegal n → ∃ a, i = .setc d a n) → Drained s n →
      (n = 0x032 ∧ PrisemOutside s v →
        exec i s = .next (takeTrap 0x06 0 false (BitVec.ofNat 64 (v.toNat % 512)) s.h.pc s)) ∧
      (¬(n = 0x032 ∧ PrisemOutside s v) → ∀ t,
        cregWritten { s with h := { s.h with x := (writeX s.h d (BitVec.ofNat 64 (cregRead s n.toNat))).x, ldst := d } } n v
          = some t →
          Goes (exec i s) (NextAfter 4 t))

/-- R317, R338: a write of CHKCTL stores MODE at most 2, RATE and the notice bits in the context the level reaches,
and restarts the check count of every hart of that context and of no other; nothing else changes. At M, where MCTXSEL
selects no context, it is ignored. -/
def Sys2Proof.Spec.SetcOfChkctl : Prop :=
  ∀ (s : State) (i : Instr) (d : BitVec 5) (v : Dword),
    setOf s (BitVec.ofNat 64 (cregRead s 0x036)) i = some (d, 0x036, v) → (s.h.level = 1 ∨ s.h.level = 2) →
    (cregCtx s = none → Goes (exec i s) (ScalarDone 4 d 0 s)) ∧
    ∀ (c : Nat) (x : Ctx), cregCtx s = some c → getCtx s c = some x →
      let restarted (id : Nat) (h : Hart) : Hart :=
        if ((getPair s (id / 2)).getD {}).ctx = c then { h with chkCount := 0 } else h
      Goes (exec i s) (fun t =>
        getCtx t c = some { x with chkctl := BitVec.ofNat 18 ((if v.toNat % 4 = 3 then 2 else v.toNat % 4) +
          v.toNat / 256 % 16 * 256 + v.toNat / 65536 % 4 * 65536) } ∧
        (∀ k, k ≠ c → getCtx t k = getCtx s k) ∧
        OnlyX (restarted s.cur s.h) t.h d (BitVec.ofNat 64 (cregRead s 0x036)) ∧ t.h.pc = s.h.pc + 4 ∧
        (∀ id h, id ≠ s.cur → getHart s id = some h → getHart t id = some (restarted id h)) ∧
        (∀ a, readByte t a = readByte s a) ∧ t = { s with h := t.h, harts := t.harts, ctxs := t.ctxs })

/-- R113, R202, R319: a SETC (or SETCB, CLRCB of SRSEED) that its level may use begins the drain of SRSEED, XLINV or
IEND; the hart stalls and rd is written only when the drain is over; at M a write of XLINV where MCTXSEL selects no
context is ignored (R317). -/
def Sys2Proof.Spec.SetcOfDrainingRegisters : Prop :=
  ∀ (s : State) (i : Instr) (d a : BitVec 5) (v : Dword),
    (setOf s (BitVec.ofNat 64 (cregRead s 0x006)) i = some (d, 0x006, v) → (s.h.level = 0 ∨ s.h.level = 1) →
      Drained s 0x006 → s.p.chg = none → Goes (exec i s) (seedWaits s v d.toNat)) ∧
    ((s.h.level = 1 ∨ s.h.level = 2) → (cregCtx s).isSome = true →
      exec (.setc d a 0x031) s = .next { s with h := { s.h with issue := .stalled (.xlinv (xr s a) d.toNat) } }) ∧
    (s.h.level = 2 → cregCtx s = none → Goes (exec (.setc d a 0x031) s) (ScalarDone 4 d 0 s)) ∧
    (s.h.level = 1 → exec (.setc d a 0x014) s = .next { s with h := { s.h with issue := .stalled (iendOf (xr s a) d.toNat) } })

/-- R113, R202, R259, R270, R313, R316, R318, R319: the rows of the writes, on the hart in focus that is ready: they
do to the register what a SETC of it does, and no more (log entry 6 says what such a row stands for, 58 what PRISEM
traps on); at M a write of XLINV where MCTXSEL selects no context is ignored (R317). -/
def Sys2Proof.Spec.RegisterWriteRows : Prop :=
  ∀ (s t : State) (n : BitVec 12) (v : Dword), Ready s →
    (cregWritten s n v = some t → ¬(n = 0x032 ∧ PrisemOutside s v) → exec (.cregWrite s.cur n v) s = .next t) ∧
    (PrisemOutside s v → exec (.cregWrite s.cur 0x032 v) s =
      .next (takeTrap 0x06 0 false (BitVec.ofNat 64 (v.toNat % 512)) s.h.pc s)) ∧
    (cregWritten s 0x012 v = some t → exec (.prioWrite s.cur v) s = .next t) ∧
    (cregWritten s 0x013 v = some t → exec (.wceilWrite s.cur v) s = .next t) ∧
    (cregWritten s 0x040 v = some t → exec (.mceilWrite s.cur v) s = .next t) ∧
    (cregWritten s 0x037 v = some t → exec (.semwinWrite s.cur v) s = .next t) ∧
    (s.p.chg = none → Goes (exec (.srseedWrite s.cur v) s) (seedWaits s v 32)) ∧
    ((cregCtx s).isSome = true →
      exec (.xlinvWrite s.cur v) s = .next { s with h := { s.h with issue := .stalled (.xlinv v 32) } }) ∧
    (cregCtx s = none → exec (.xlinvWrite s.cur v) s = .next s) ∧
    exec (.iendWrite s.cur v) s = .next { s with h := { s.h with issue := .stalled (iendOf v 32) } }

/-- R314, R351: the key rows change the generation of the key they name (log entry 13), and EINJ_ARM arms the one-shot
below 512 GiB, its sector out of its home slice; nothing else changes. -/
def Sys2Proof.Spec.KeyAndInjectionRows : Prop :=
  ∀ (s : State) (c : Nat),
    exec (.keyGenerate c) s = .next (freshKey s c) ∧ exec (.keyErase c) s = .next (erasedKey s c) ∧
    exec .sharedKeyGenerate s = .next (freshShared s) ∧
    exec .einjArm s = .next (shotArmed s)

namespace Sys2Proof.Spec

/-! ## Traps and system instructions (spec/13_isolation.md R320-R328) -/

/-- The hart in focus may take a synchronous trap: it runs at U, or INH is 0 (R323). -/
def MayTrap (s : State) : Prop := s.h.level = 0 ∨ s.h.tstat.getLsbD 1 = false

/-- The hart in focus after take_trap of R323: TSTAT has PP the old level, INH 1, STEP 0, XOL 0, SLDST the old LDST;
TCAUSE, TVAL, TPC; on a user core the level is S; the PC is TVEC. That an armed STEP is dropped is the model's choice
(log entry 77). -/
def trapTaken (s : State) (code sub : Nat) (elem : Bool) (tval tpc : Dword) : Hart :=
  { s.h with
    tstat := BitVec.ofNat 9 ((if s.h.level = 0 then 0 else 1) + 2 + s.h.ldst.toNat * 16)
    tcause := BitVec.ofNat 12 (code + sub * 256 + (if elem then 2048 else 0))
    tval := tval
    tpc := wrap (tpc.toNat / 2 * 2)
    level := if onUser s then 1 else s.h.level
    pc := s.h.tvec
    issue := .ready, xol := none, stepArmed := false, stepDue := false, probeFrom := none }

/-- Every hart of the pair in focus has ended, with a code and cause where it had none; memory is as before. -/
def PairEnded (s : State) (code cause : Nat) (t : State) : Prop :=
  (∀ id h, id / 2 = s.cur / 2 → getHart s id = some h →
    ∃ h', getHart t id = some h' ∧ h'.issue = .ended ∧ h'.wait = none ∧ h'.x = h.x ∧
      h'.endCode = some (h.endCode.getD (code, cause, s.now))) ∧
  (∀ id h, id / 2 ≠ s.cur / 2 → getHart s id = some h → getHart t id = some h) ∧
  ∀ a, readByte t a = readByte s a

/-- A queue entry writes mask register k: as its mask result, as one of the two masks of VSETVF, or as the end mask of
VLDW. -/
def WritesMask (e : VEntry) (k : Nat) : Prop :=
  e.kdest = some k ∨ (∃ vd vs a b, e.instr = .vsetvf vd vs a b ∧ (a.toNat = k ∨ b.toNat = k)) ∨
    ∃ vd vs a g p d, e.instr = .vldw vd vs a g p d ∧ d.toNat = k

/-- The TSTAT word without INH, STEP and XOL. -/
def tstatLeft (v : BitVec 9) : BitVec 9 := v &&& 0x1F1

/-- The size of the range an XLINV names: 64 KiB, 512 MiB, 4 TiB, the whole context (R202). -/
def xlinvBits (v : Dword) : Nat := [16, 29, 42, 55].getD (v.toNat % 4) 55

end Sys2Proof.Spec

/-- R321, R323: taking a trap that is not delivered to M (as 0x11 to 0x14 are on a user core) writes the trap
registers, the level and the PC of its hart, and nothing else; that an armed STEP is dropped with it is the model's
choice (log entry 77). -/
def Sys2Proof.Spec.TrapEntryWritesTrapRegisters : Prop :=
  ∀ (s : State) (code sub : Nat) (elem : Bool) (tval tpc : Dword),
    (onUser s = true → code ≠ 0x11 ∧ code ≠ 0x12 ∧ code ≠ 0x13 ∧ code ≠ 0x14) → (MayTrap s ∨ code = 0x0F ∨ code = 0x10) →
      takeTrap code sub elem tval tpc s = { s with h := trapTaken s code sub elem tval tpc }

/-- R323, R324, R326: TRAP raises cause 0x0B with TVAL its CODE, BRK cause 0x0C with TVAL 0, both with TPC at
themselves; at U, or with INH 0, that entry is all they do.  At S or M with INH set they are a double trap: on a user
core the item ends, both harts with code 2 and cause 0x13; a core of M stops.  That an entry drops an armed STEP is the
model's choice (log entry 77). -/
def Sys2Proof.Spec.TrapAndBreakTakeTheirTrap : Prop :=
  ∀ (s : State) (c : BitVec 15),
    (MayTrap s →
      exec (.trap c) s = .next { s with h := trapTaken s 0x0B 0 false (c.setWidth 64) s.h.pc } ∧
      exec .brk s = .next { s with h := trapTaken s 0x0C 0 false 0 s.h.pc }) ∧
    (¬MayTrap s → onUser s = true → Goes (exec (.trap c) s) (PairEnded s 2 0x13) ∧ Goes (exec .brk s) (PairEnded s 2 0x13)) ∧
    (¬MayTrap s → onUser s = false →
      exec (.trap c) s = .next { s with h := { s.h with issue := .stalled .stopped } } ∧
      exec .brk s = .next { s with h := { s.h with issue := .stalled .stopped } })

/-- R326: RETT at U raises PRIV; at S or M it restores the level of PP on a user core, LDST from SLDST, clears INH,
STEP and XOL, and goes on at TPC, or out of line through TXOL where XOL was 1; STEP asks for a trap after the next
instruction.  A RETT that was being stepped is followed by STEP itself. -/
def Sys2Proof.Spec.RettReturns : Prop :=
  ∀ s : State,
    (s.h.level = 0 → exec .rett s = .next { s with h := trapTaken s 0x05 0 false 0x00400035 s.h.pc }) ∧
    (s.h.level ≠ 0 → exec .rett s = .next { s with h := { s.h with
      level := if onUser s then (if s.h.tstat.getLsbD 0 then 1 else 0) else s.h.level
      ldst := s.h.tstat.extractLsb' 4 5
      tstat := tstatLeft s.h.tstat
      pc := s.h.tpc
      xol := if s.h.tstat.getLsbD 3 then some (s.h.tpc, s.h.txol) else none
      stepArmed := s.h.tstat.getLsbD 2
      stepDue := s.h.stepArmed } })

/-- R322, R333: at an instruction a pending STEP is taken first, then an execute breakpoint, both with TPC the
instruction; neither fetches nor runs it.  On a core of M an integrity violation that an earlier write met comes before
both (log entry 68), its TVAL free.  That an entry drops an armed STEP is log entry 77. -/
def Sys2Proof.Spec.StepAndBreakpointComeFirst : Prop :=
  ∀ s : State,
    (s.h.integrity = true → onUser s = false → MayTrap s → ∃ v,
      issueCur s = .next { s with h := { trapTaken s 0x12 0 false v s.h.pc with integrity := false } }) ∧
    (s.h.integrity = false → s.h.stepDue = true → MayTrap s →
      issueCur s = .next { s with h := trapTaken s 0x01 0 false 0 s.h.pc }) ∧
    (∀ n, s.h.integrity = false → s.h.stepDue = false → MayTrap s → n < 8 → bpExec s.h s.h.pc.toNat = some n →
      issueCur s = .next { s with h := trapTaken s 0x02 n false s.h.pc s.h.pc })

/-- R277, R322, R349: ASYNC_TRAP_TAKE takes the Umpire notice, with UMPST in TVAL, before the error notice (the
model's choice of their order, log entry 36); at S or M both wait for INH 0, and where a STEP is pending for it to be
taken, and then they stay pending. That an entry drops an armed STEP is the model's choice (log entry 77). -/
def Sys2Proof.Spec.AsyncTrapIsTakenWhenAllowed : Prop :=
  ∀ s : State,
    (Ready s → s.h.stepDue = false → MayTrap s → s.h.note = true →
      exec (.asyncTrapTake s.cur) s = .next { s with h :=
        { trapTaken s 0x0F 0 false (BitVec.ofNat 64 (umpstWord (ctxOf s s.p.ctx))) s.h.pc with note := false } }) ∧
    (∀ v, Ready s → s.h.stepDue = false → MayTrap s → s.h.note = false → s.h.errNote = some v →
      exec (.asyncTrapTake s.cur) s = .next { s with h := { trapTaken s 0x10 0 false v s.h.pc with errNote := none } }) ∧
    (¬MayTrap s ∨ s.h.stepDue = true ∨ (s.h.note = false ∧ s.h.errNote = none) → exec (.asyncTrapTake s.cur) s = .next s)

/-- R327: FLUSHI stalls its hart; once every store of the hart is performed and the pair's queue is empty,
FLUSHI_INVALIDATE lets it go on, everything it fetches from then on being fetched afresh; before, it changes nothing. -/
def Sys2Proof.Spec.FlushiDrainsAndRefetches : Prop :=
  ∀ s : State, Ready s → Goes (exec .flushi s) (fun t =>
    t = { s with h := { s.h with issue := .stalled .flushi } } ∧
    ((s.p.dq = [] ∧ ∀ r ∈ s.reqs, r.uid = s.h.uid → r.op ≠ .store ∧ ∀ b, r.op ≠ .ack b) →
      Goes (exec (.flushiInvalidate s.cur) t) (NextAfter 4 { s with h := { s.h with flushAt := s.stamp } })) ∧
    ((s.p.dq ≠ [] ∨ ∃ r ∈ s.reqs, r.uid = s.h.uid ∧ (r.op = .store ∨ ∃ b, r.op = .ack b)) →
      exec (.flushiInvalidate s.cur) t = .next t))

/-- Of the hub only the snapshot and what an event to the host moves changed: the event ring's counts, the events held
or dropped, and a write of one turned away (R355, R358, R376). -/
def Sys2Proof.Spec.SnapHub (s t : State) : Prop :=
  t.hub = { s.hub with
    snapHeld := t.hub.snapHeld, snapSrc := t.hub.snapSrc, snapSeq := t.hub.snapSeq, snap := t.hub.snap
    snapOut := t.hub.snapOut, snapLow := t.hub.snapLow, evtail := t.hub.evtail, msi := t.hub.msi, evSeq := t.hub.evSeq
    evHeld := t.hub.evHeld, evlost := t.hub.evlost, accessLog := t.hub.accessLog }

/-- R328, R352, R376: SNAP latches a snapshot unless one is held, or SNAPTRG_N has not been high since it started one,
tells the host, and changes no register, no memory of the part and nothing else that a program sees (that all blocks
latch in this one step is log entry 40). -/
def Sys2Proof.Spec.SnapLatchesCounters : Prop :=
  ∀ s : State, Canonical s → Goes (exec .snap s) (fun t =>
    OnlyFlow s.h t.h ∧ t.h.pc = s.h.pc + 4 ∧ t = { s with h := t.h, hub := t.hub, mem := t.mem, wlog := t.wlog } ∧
    (∀ a, isHost a = false → readByte t a = readByte s a) ∧ SnapHub s t ∧ t.hub.snapLow = s.hub.snapLow ∧
    (s.hub.snapHeld = true ∨ s.hub.snapLow = true → t.hub = s.hub) ∧
    (s.hub.snapHeld = false → s.hub.snapLow = false → t.hub.snapHeld = true ∧ t.hub.snapSrc = 1 ∧ t.hub.snapSeq = s.hub.snapSeq + 1 ∧ t.hub.snapOut = true ∧
      t.hub.snap = snapshotBytes s (some s.cur)))

/-- R41, R44, R45, R107, R121, R131, R213, R232: STALL_RELEASE makes a hart ready, to issue its instruction again,
when what stalled it is over, and changes nothing before. The stalls of a release, of a probe pass, of a chunk and of
a result still to come are the model's (log entries 25, 8, 38 and 15), and what a QSEND waits for (log entry 79). -/
def Sys2Proof.Spec.StallReleaseWhenOver : Prop :=
  ∀ (s : State) (w : Stall), s.h.issue = .stalled w →
    let past : Prop := match w with
      | .queueFull => s.p.dq.length < 32
      | .vecDrain => ∀ e ∈ s.p.dq, e.role ≠ roleOf s.cur
      | .probe n none => ∀ e ∈ s.p.dq, e.role ≠ roleOf s.cur ∧ n ≤ e.id
      | .probe n (some k) => ∀ e ∈ s.p.dq, (e.role = roleOf s.cur ∨ e.id < n) → ¬WritesMask e k
      | .divider => s.p.divUntil ≤ s.now
      | .interlock t => t ≤ s.now
      | .otherChange => s.p.chg = none
      | .strm g => ∀ e ∈ s.p.dq, e.role = roleOf s.cur → g ∉ e.strms
      | .chunk g => ∀ r ∈ s.reqs, r.uid = s.h.uid → r.strm = some g → r.done = true
      | .reqLimit => (s.reqs.filter (fun r => r.hart / 16 = s.cur / 16)).length < 4096
      | .tceFull => ∃ t < 4, (s.cmds.filter (fun m => m.tce == 4 * clusOf s.cur + t)).length < 16
      | .release c => relBlocked s s.h.uid s.cur s.nextId c = false
      | .send => sendBlocked s = false
      | _ => False
    (past → exec (.stallRelease s.cur) s = .next { s with h := { s.h with issue := .ready } }) ∧
    (¬past → exec (.stallRelease s.cur) s = .next s)

/-- R36, R70, R87, R229, R265, R318, R319, R345: when the end drain of IEND is over, HART_END ends the hart with its
code, which is 1 for 0 where the item's escape indicator is set; the SETC returns 0 in rd (a write that no SETC made
returns nowhere); its wait and holds go, its other registers and memory stand. -/
def Sys2Proof.Spec.HartEndAfterDrain : Prop :=
  ∀ (s : State) (code cause rd : Nat) (esc : Bool), s.h.issue = .stalled (.iend code cause rd) →
    (esc = true ↔ ∃ t i l it, s.p.item = some (t, i) ∧ getLaunch s t = some l ∧ getItem l i = some it ∧ it.escape = true) →
    ((∀ e ∈ s.p.dq, e.role ≠ roleOf s.cur) → (∀ r ∈ s.reqs, r.uid ≠ s.h.uid) →
      Goes (exec (.hartEnd s.cur) s) (fun t =>
        t.h.issue = .ended ∧ t.h.wait = none ∧
        (∀ d : BitVec 5, rd = d.toNat → t.h.ldst = d ∧ ∀ r, readX t.h r = if r = d ∧ r ≠ 0 then 0 else readX s.h r) ∧
        (rd = 32 → t.h.x = s.h.x ∧ t.h.ldst = s.h.ldst) ∧
        t.h.endCode = some (s.h.endCode.getD
          (if code = 0 ∧ esc = true then 1 else code, if code = 2 ∨ code = 6 then cause else 0, s.now)) ∧
        (∀ o ∈ t.holds, o.uid ≠ s.h.uid) ∧ t.harts = s.harts ∧ ∀ a, readByte t a = readByte s a)) ∧
    ((∃ r ∈ s.reqs, r.uid = s.h.uid) → exec (.hartEnd s.cur) s = .next s)

/-- R202: when nothing outstanding used the range's translations and the hart's release is over, XLINV_COMPLETE makes
the range be translated afresh and the SETC return 0 in rd (a write that no SETC made returns nowhere). -/
def Sys2Proof.Spec.XlinvCompleteReturns : Prop :=
  ∀ (s : State) (v : Dword) (c : Nat) (x : Ctx) (d : BitVec 5), s.h.issue = .stalled (.xlinv v d.toNat) →
    cregCtx s = some c → getCtx s c = some x → rangeBusy s c (xlinvRange v) = false →
    relBlocked s s.h.uid s.cur s.nextId 5 = false →
      Goes (exec (.xlinvComplete s.cur) s) (fun t =>
        OnlyX { s.h with issue := .ready } t.h d 0 ∧ t.h.pc = s.h.pc + 4 ∧ t = { s with h := t.h, ctxs := t.ctxs } ∧
        (∀ a, readByte t a = readByte s a) ∧
        getCtx t c = some { x with xlinv := x.xlinv ++
          [(v.toNat % 2 ^ 55 / 2 ^ xlinvBits v * 2 ^ xlinvBits v,
            v.toNat % 2 ^ 55 / 2 ^ xlinvBits v * 2 ^ xlinvBits v + 2 ^ xlinvBits v - 1, s.stamp)] })

/-- An event on a hart acts on that hart wherever it is: it is the event on the hart put in focus. -/
def Obligations.HartEventsActOnTheirHart : Prop :=
  ∀ (s : State) (id : Nat) (h : Hart) (n : BitVec 12) (v : Dword) (e : Instr), getHart s id = some h →
    e ∈ [.stallRelease id, .flushiInvalidate id, .xlinvComplete id, .hartEnd id, .asyncTrapTake id, .xlinvWrite id v,
      .srseedWrite id v, .iendWrite id v, .prioWrite id v, .wceilWrite id v, .mceilWrite id v, .semwinWrite id v,
      .cregWrite id n v, .umpireAnswer id, .waitSatisfied id, .waitTimeout id, .withdrawalAnswer id] →
      ∃ u, exec e (focus s id) = .next u ∧ exec e s = .next (focus u s.cur)

namespace Sys2Proof.Spec

/-! ## Waits and synchronisation (spec/11_progress_rules.md, spec/12_progress_instructions.md) -/

/-- A status word (R260). -/
def status (code out : Nat) (clamped : Bool) (sat : Nat) : Dword :=
  wrap (code + out * 256 + (if clamped then 65536 else 0) + sat * 2 ^ 32)

/-- Whether a budget register exceeds the ceiling of the hart's context (R255). -/
def clampedBy (s : State) (b : BitVec 5) : Bool := onUser s && decide ((ctxOf s s.p.ctx).wceil < ux s b)

/-- The budget a wait uses (R255). -/
def waitBudget (s : State) (b : BitVec 5) : Nat := if clampedBy s b then (ctxOf s s.p.ctx).wceil else ux s b

/-- One wait-for table entry can be claimed (R265): the die's share has one and the context is below its quota; the
hub core claims from the pool (the model's reading, log entry 22). -/
def EntryFree (s : State) : Prop :=
  if kindOf s.cur = 2 then 0 < s.pool
  else 0 < s.shares.getD (dieOf s.cur) 0 ∧
    (kindOf s.cur = 0 → (ctxOf s s.p.ctx).used < (ctxOf s s.p.ctx).quota)

/-- A share holds at most 256 entries (R265). -/
def SharesBounded (s : State) : Prop := s.shares.length = 4 ∧ ∀ n ∈ s.shares, n ≤ 256

/-- Whether the hart may send to a queue (R69, R295): an access hart to q0-q3, an execute hart to q4-q7. -/
def Sends (s : State) (q : BitVec 3) : Prop := q.toNat < 4 ↔ s.cur % 2 = 0

/-- A word of memory that a barrier, lock or memory wait may name (R292): aligned, resolved, not in host memory, watched
by no comparator, its tag good. -/
def WordAt (s : State) (va : Dword) (kind : AccKind) (x : Acc) : Prop :=
  va.toNat % 8 = 0 ∧ resolveCur s va 8 kind = .ok x ∧ isHost x.key = false ∧ Unwatched s ⟨4, 8, va, 0⟩ kind ∧
    checkSector s x.key x.gen ≠ .violation

/-- The one-shot of R351 does not wait at the sector, and no clean copy that one poisoned stands of it. -/
def NoShot (s : State) (key : Nat) : Prop := shotAt s key = false ∧ sectorOf key ∉ s.hub.shotCopies

/-- PHASE of a barrier word (R299). -/
def phaseOf (w : Nat) : Nat := w / 2 ^ 48 % 2 ^ 16
/-- A barrier word (R299): JOINED, ARRIVED, PHASE. -/
def barWord (joined arrived phase : Nat) : Nat := joined + arrived * 2 ^ 24 + phase * 2 ^ 48

/-- A barrier word after one arrival (R300): the last one of a phase clears ARRIVED and moves PHASE on. -/
def arrivedWord (w : Nat) : Nat :=
  let joined := w % 2 ^ 24
  let arrived := w / 2 ^ 24 % 2 ^ 24 + 1
  if joined ≤ arrived then barWord joined 0 ((phaseOf w + 1) % 2 ^ 16) else barWord joined arrived (phaseOf w)

/-- A barrier word after one member leaves (R309): JOINED goes down, and a phase that now has all its arrivals ends. -/
def leftWord (w : Nat) : Nat :=
  let joined := w % 2 ^ 24 - 1
  let arrived := w / 2 ^ 24 % 2 ^ 24
  if 0 < arrived ∧ joined ≤ arrived then barWord joined 0 ((phaseOf w + 1) % 2 ^ 16) else barWord joined arrived (phaseOf w)

/-- The physical semaphore of a number in the hart's own cluster (R313), which a window never leaves. -/
def SemAt (s : State) (n k : Nat) : Prop :=
  n < SMap.get 0 (ctxOf s s.p.ctx).semwin (clusOf s.cur) / 512 ∧
    k = 512 * clusOf s.cur + SMap.get 0 (ctxOf s s.p.ctx).semwin (clusOf s.cur) % 512 + n

/-- COND of LDWAIT and WAITV (R304, R305). -/
def CondHolds (c word cmp : Nat) : Prop := (c = 0 ∧ word ≠ cmp) ∨ (c = 1 ∧ word = cmp) ∨ (c = 2 ∧ cmp ≤ word)

/-- The entries of a WAITV table (R305): condition, word, comparand, each read and checked, and the key generations the
words are read under. -/
def TableAt (s : State) (va : Dword) (n : Nat) (ents : List (Nat × Nat × Dword)) (gens : List Nat) : Prop :=
  va.toNat % 16 = 0 ∧ ents.length = n ∧ gens.length = n ∧ ∀ (j : Nat) (e : Nat × Nat × Dword), ents[j]? = some e →
    ∃ x y : Acc, resolveCur s (va + wrap (16 * j)) 16 .read = .ok x ∧ checkSector s x.key x.gen = .good ∧
      Unwatched s ⟨4, 16, va + wrap (16 * j), 0⟩ .read ∧
      (readLoc s x.key 8) % 8 = e.2.1 ∧ e.2.1 < 3 ∧ e.2.2 = wrap (readLoc s (x.key + 8) 8) ∧
      WordAt s (wrap (readLoc s x.key 8 / 8 * 8)) .read y ∧ e.1 = y.key ∧ gens[j]? = some y.gen

/-- What FENCE covers (R226), by number: the requests of the hart not yet performed to a location meeting the scope,
and its queued instructions that touch registers of the pair, which meet every scope (R208, R216); without REL those
that read. A completion that a vector instruction owes is of that instruction (R212). -/
def fenceSet (s : State) (scope : Nat) (rel : Bool) : List Nat :=
  ((s.reqs.filter (fun r => r.uid == s.h.uid && meetsScope s.cur r.key scope && (rel || reqReads r))).map ordOf) ++
  ((s.p.dq.filter (fun e => e.role == roleOf s.cur && entryTouches e && (rel || entryReads e))).map (·.id))

/-- What SBAR covers (R227), by number: the requests of the hart in the streams named, and its queued instructions
with an access still to make in one of them. -/
def sbarSet (s : State) (g : BitVec 8) : List Nat :=
  ((s.reqs.filter (fun r => r.uid == s.h.uid &&
    (match r.strm with | some n => g.getLsbD n | none => false))).map ordOf) ++
  ((s.p.dq.filter (fun e => e.role == roleOf s.cur &&
    (entryStreams e).any (fun x => g.getLsbD x.1 && !x.2.2.isEmpty))).map (·.id))

/-- The waiting instructions whose checks pass and that change nothing but by their status, a LOCK that does not find
its word free among them: status register, E, budget register, what they wait for and the key generations of its words
(R298, R301, R302, R304, R305, R306, R226, R227). -/
def waitForm (s : State) (i : Instr) (d : BitVec 5) (e : BitVec 1) (b : BitVec 5) (k : WaitKind) (gens : List Nat) : Prop :=
  match i with
  | .waits d' a b' e' n => d' = d ∧ e' = e ∧ b' = b ∧ onUser s = true ∧ gens = [] ∧
    ∃ m, SemAt s n.toNat m ∧ m < 16384 ∧ k = .waits m (ux s a % 2 ^ 32)
  | .barwt d' a b' e' c => d' = d ∧ e' = e ∧ b' = b ∧ c ≠ 7 ∧ ∃ x, WordAt s (xr s a) .rmw x ∧ gens = [x.gen] ∧
    k = (match pendingOf s s.h.uid x.key with
         | some p => .bar x.key p true c.toNat
         | none => .bar x.key (phaseOf (readLoc s x.key 8)) false c.toNat)
  | .lock d' a b' e' c => d' = d ∧ e' = e ∧ b' = b ∧ c ≠ 7 ∧ ∃ x, WordAt s (xr s a) .rmw x ∧ gens = [x.gen] ∧
    ¬(checkSector s x.key x.gen = .good ∧ readLoc s x.key 8 = 0) ∧ k = .lock x.key c.toNat
  | .ldwait d' a b' e' c f => d' = d ∧ e' = e ∧ b' = b ∧ c ≠ 7 ∧ f ≠ 3 ∧ ∃ x, WordAt s (xr s a) .read x ∧ gens = [x.gen] ∧
    k = .ldwait x.key f.toNat (xr s d) c.toNat
  | .waitv d' a b' e' n m => d' = d ∧ e' = e ∧ b' = b ∧ ∃ ents, TableAt s (xr s a) (n.toNat + 1) ents gens ∧
    k = .waitv (m == 1) ents
  | .sleep d' b' e' => d' = d ∧ e' = e ∧ b' = b ∧ gens = [] ∧ k = .sleep
  | .fence d' b' e' c q r => d' = d ∧ e' = e ∧ b' = b ∧ c ≠ 7 ∧ (q = 1 ∨ r = 1) ∧ gens = [] ∧
    k = .fence (fenceSet s c.toNat (r == 1)) c.toNat (r == 1)
  | .sbar d' b' e' g => d' = d ∧ e' = e ∧ b' = b ∧ g ≠ 0 ∧ gens = [] ∧ k = .sbar (sbarSet s g) g.toNat
  | _ => False

/-- Which entries of a WAITV hold (R305). -/
def SatSet (s : State) (ents : List (Nat × Nat × Dword)) (m : Nat) : Prop :=
  m < 2 ^ ents.length ∧ ∀ (j : Nat) (e : Nat × Nat × Dword), ents[j]? = some e →
    (m.testBit j = true ↔ CondHolds e.2.1 (readLoc s e.1 8) e.2.2.toNat)

/-- Every word a wait reads is good (R204). -/
def WordsGood (s : State) (k : WaitKind) (gens : List Nat) : Prop :=
  ∀ (j key : Nat), (wordsOf k)[j]? = some key → checkSector s key (gens.getD j 0) = .good

/-- A request is one that a FENCE has still to see performed (R226): of a covered instruction, to a location meeting
SCOPE, a read where reads alone are covered. -/
def FenceSees (ids : List Nat) (scope : Nat) (rel : Bool) (r : Req) : Prop :=
  ordOf r ∈ ids ∧ meetsScope r.hart r.key scope = true ∧ (rel = true ∨ reqReads r = true)

/-- The condition of a wait holds now, its words good (R261, R292, R295, R298, R301, R304, R305, R226, R227). -/
def WaitHolds (s : State) (k : WaitKind) (gens : List Nat) : Prop :=
  WordsGood s k gens ∧
  match k with
  | .qsend q _ => (s.p.q.getD q []).length < 16
  | .qrecv q _ => s.p.q.getD q [] ≠ []
  | .waits m thr => (SMap.get 0 s.sems m).getLsbD 32 = false ∧ thr ≤ (SMap.get 0 s.sems m).toNat % 2 ^ 32
  | .bar key ph _ _ => phaseOf (readLoc s key 8) ≠ ph
  | .ldwait key c cmp _ => CondHolds c (readLoc s key 8) cmp.toNat
  | .waitv all ents =>
    if all then ∀ e ∈ ents, CondHolds e.2.1 (readLoc s e.1 8) e.2.2.toNat
    else ∃ e ∈ ents, CondHolds e.2.1 (readLoc s e.1 8) e.2.2.toNat
  | .fence ids scope rel => (∀ e ∈ s.p.dq, e.id ∉ ids) ∧ ∀ r ∈ s.reqs, ¬FenceSees ids scope rel r
  | .sbar ids set => (∀ e ∈ s.p.dq, e.id ∉ ids) ∧ ∀ r ∈ s.reqs, ordOf r ∈ ids → ∀ g, r.strm = some g → set.testBit g = false
  | _ => False

/-- What the wait reads is poisoned, the words before it good, or its semaphore carries a sticky error (R204, R261). -/
def WaitPoisoned (s : State) (k : WaitKind) (gens : List Nat) : Prop :=
  (∃ m thr, k = .waits m thr ∧ (SMap.get 0 s.sems m).getLsbD 32 = true) ∨
  (∃ j key, (wordsOf k)[j]? = some key ∧ checkSector s key (gens.getD j 0) = .media ∧
    ∀ i < j, ∀ key', (wordsOf k)[i]? = some key' → checkSector s key' (gens.getD i 0) = .good)

/-- SAT of a status: the entries of a WAITV that hold, else 0 (R260). -/
def SatIs (s : State) (k : WaitKind) (m : Nat) : Prop :=
  match k with
  | .waitv _ ents => SatSet s ents m
  | _ => m = 0

/-- SAT of a wait that ends: as its decision found it, else as its entries hold now (R260, R305). -/
def SatShown (s : State) (w : Wait) (m : Nat) : Prop :=
  match w.kind with
  | .waitv _ ents => (w.decided ≠ none → m = w.sat) ∧ (w.decided = none → SatSet s ents m)
  | _ => m = 0

/-- OUT of a status (R225, R260): for FENCE the streams of accesses it has still to see, for SBAR those of its set with
such an access, else 0. -/
def OutIs (s : State) (k : WaitKind) (out : Nat) : Prop :=
  out < 256 ∧ ∀ g < 8, out.testBit g = true ↔
    (∃ ids scope rel, k = .fence ids scope rel ∧
      ((∃ r ∈ s.reqs, FenceSees ids scope rel r ∧ r.strm = some g) ∨
        ∃ e ∈ s.p.dq, e.id ∈ ids ∧ ∃ x ∈ entryStreams e, x.1 = g ∧ (rel = true ∨ x.2.1 = true) ∧
          ∃ a ∈ x.2.2, meetsScope s.cur a.key scope = true)) ∨
    ∃ ids set, k = .sbar ids set ∧ set.testBit g = true ∧
      ((∃ r ∈ s.reqs, ordOf r ∈ ids ∧ r.strm = some g) ∨
        ∃ e ∈ s.p.dq, e.id ∈ ids ∧ ∃ x ∈ entryStreams e, x.1 = g ∧ x.2.2 ≠ [])

/-- The queues after a wait that ends OK (R295): a QSEND has placed its entry, a QRECV taken the first. -/
def queuesAfter (s : State) (k : WaitKind) : List (List Dword) :=
  match k with
  | .qsend q v => s.p.q.set q (s.p.q.getD q [] ++ [v])
  | .qrecv q _ => s.p.q.set q (s.p.q.getD q []).tail
  | _ => s.p.q

/-- A QRECV of one of the pair's harts, on the queue, has been decided OK and has not yet its status: the first entry is
taken for it (R257, R296). -/
def HeadTaken (s : State) (q : Nat) : Prop :=
  ∃ id h w d, id / 2 = s.cur / 2 ∧ getHart s id = some h ∧ h.wait = some w ∧ w.kind = .qrecv q d ∧ w.decided = some 0

/-- Whether the hart in focus holds a pending arrival in the phase its barrier wait is for, from the wait's issue on
or by an arrival sent before that was counted during the wait (R301). -/
def ArrivalPending (s : State) (w : Wait) : Prop :=
  ∃ k p m c, w.kind = .bar k p m c ∧ (m = true ∨ pendingOf s s.h.uid k = some p)

/-- The register that LDST takes at the end of a wait: the status register, of QRECV its data register (R87). -/
def ldstAfter (w : Wait) : BitVec 5 :=
  match w.kind with
  | .qrecv _ d => BitVec.ofNat 5 d
  | _ => BitVec.ofNat 5 w.rd

/-- A wait of the hart in focus has ended with a code (R257, R260, R265, R295): the status register holds it with OUT,
CLAMPED and SAT, with OK a QSEND has placed its doubleword and a QRECV holds the one it took, the entry is back in the
table, the hart is ready after its instruction, and nothing else changed. -/
def WaitEnded (s : State) (w : Wait) (c : Nat) (t : State) : Prop :=
  ∃ out m, OutIs s w.kind out ∧ SatShown s w m ∧
    (∀ r : BitVec 5, readX t.h r =
      match w.kind with
      | .qrecv q d =>
        if c = 0 ∧ r = BitVec.ofNat 5 d ∧ r ≠ 0 then (s.p.q.getD q []).headD 0
        else if r = BitVec.ofNat 5 w.rd ∧ r ≠ 0 then status c out w.clamped (m % 65536) else readX s.h r
      | _ => if r = BitVec.ofNat 5 w.rd ∧ r ≠ 0 then status c out w.clamped (m % 65536) else readX s.h r) ∧
    t.h.ldst = ldstAfter w ∧ t.h.pc = s.h.pc + BitVec.ofNat 64 w.len ∧
    OnlyFlow { s.h with x := t.h.x, ldst := t.h.ldst, issue := .ready, wait := none } t.h ∧
    t = { s with p := { s.p with q := if c = 0 then queuesAfter s w.kind else s.p.q }, h := t.h, pool := t.pool,
                 shares := t.shares, ctxs := t.ctxs } ∧
    (∀ a, readByte t a = readByte s a) ∧
    (SharesBounded s → t.pool + t.shares.sum = s.pool + s.shares.sum + 1)

/-- The registration of a wait that this hart now has (R256, R257): undecided, not yet at the Umpire, its first cycle
counted. -/
def WaitsOn (t : State) (d : BitVec 5) (e : BitVec 1) (k : WaitKind) (gens : List Nat) (budget : Nat) (clamped : Bool) : Prop :=
  t.h.issue = .waiting ∧ ∃ w, t.h.wait = some w ∧ w.kind = k ∧ w.gens = gens ∧ w.rd = d.toNat ∧ w.len = 4 ∧
    w.esc = (e == 1) ∧ w.budget = budget ∧ w.clamped = clamped ∧ w.counted = 1 ∧ w.found = none ∧ w.answered = false ∧
    w.decided = none ∧ w.withdrawing = none

/-- One entry of the wait-for table is taken for the hart in focus (of the hub core from the pool, log entry 22), and
nothing but its wait changed (R265). -/
def EntryTaken (s t : State) : Prop :=
  t = { s with h := t.h, pool := t.pool, shares := t.shares, ctxs := t.ctxs, nextId := s.nextId + 1 } ∧
  t.h = { s.h with issue := .waiting, wait := t.h.wait } ∧
  (if kindOf s.cur = 2 then t.pool + 1 = s.pool ∧ t.shares = s.shares
   else t.pool = s.pool ∧ t.shares.getD (dieOf s.cur) 0 + 1 = s.shares.getD (dieOf s.cur) 0) ∧
  ∀ a, readByte t a = readByte s a

/-- A hold of the hart in focus on an object (R265): recorded where the die's share or the pool has an entry, of which
`n` are already spoken for (by a wait of the hub core in the pool, log entry 22), and the context has one left of its
quota (R289; that a hold beyond the quota is kept unrecorded is the model's reading, log entry 76). -/
def HoldMade (s : State) (n : Nat) (k : HoldKind) (o : Obj) (t : State) : Prop :=
  ∃ r : Bool, (r = true ↔ (∀ x, getCtx s s.p.ctx = some x → x.used + n < x.quota) ∧
      (n < s.shares.getD (dieFor s.cur) 0 ∨ (if kindOf s.cur = 2 then n else 0) < s.pool)) ∧
    t.holds = s.holds ++ [{ obj := o, kind := k, uid := s.h.uid, ctx := s.p.ctx, die := dieFor s.cur, recorded := r }]

/-- The object a WOHOLD or WODROP key names (R264), with the key generation a word is reached under: a word of memory,
or with bit 63 a semaphore of a window of the context in a package that can be reached. -/
def OweAt (s : State) (key : Dword) (o : Obj) (gen : Nat) : Prop :=
  (key.getLsbD 63 = false ∧ ∃ x, resolveCur s key 1 .read = .ok x ∧ o = .word (wordOf x.key) ∧ gen = x.gen) ∨
  (key.getLsbD 63 = true ∧ onUser s = true ∧ key.toNat / 2 ^ 19 % 2 ^ 44 = 0 ∧ gen = 0 ∧
    key.toNat / 2 ^ 14 % 32 < s.hub.pkgs ∧ s.hub.reach.testBit (key.toNat / 2 ^ 14 % 32) = true ∧
    let w := SMap.get 0 (ctxOf s s.p.ctx).semwin (key.toNat / 512 % 1024)
    key.toNat % 512 < w / 512 ∧ o = .sem (key.toNat / 512 % 1024 * 512 + w % 512 + key.toNat % 512))

/-- The kind of hold, or of what a wait leads to, that a message of a peer's Umpire is about (R267; log entry 12). -/
def farHoldOf (what : Nat) : Option HoldKind :=
  if what = 0 ∨ what = 7 then some .wo else if what = 1 then some .lock else if what = 2 then some .member else none
/-- The same for the messages of a wait. -/
def farWaitOf (what : Nat) : Option HoldKind :=
  if what = 3 then some .lock else if what = 4 then some .member else if what = 5 then some .wo else none
/-- A message of a peer's Umpire as the row's operand holds it: its kind, a priority, a place (log entry 12). -/
def peerMessage (what prio key : Nat) : Nat := key + 2 ^ 72 * what + 2 ^ 76 * (prio % 16)
/-- The object such a message names: a word of the HBM of a package, or with kind 7 a semaphore of one. -/
def FarObjAt (what key : Nat) (o : Obj) : Prop :=
  (what = 7 ∧ key < 2 ^ 19 ∧ o = .sem key) ∨ (what ≠ 7 ∧ isHbm key = true ∧ o = .word (wordOf key))

/-- Whether one of the objects a wait stands on is kept by another package (R267). -/
def StandsFar (s : State) (w : Wait) : Prop :=
  ∃ o ∈ objsOf s.h.uid w.kind, (∃ k, o = .word k ∧ isHbm k = true ∧ keyPkg k ≠ 0) ∨ ∃ k, o = .sem k ∧ 2 ^ 14 ≤ k

end Sys2Proof.Spec

/-- R295, R296, R256, R87: QSEND with room puts x[rs1] at the end of its queue; QRECV takes the first entry into rd,
its status, OK, going to rs1; both complete at once and claim no entry.  QTEST gives the number of entries, without one
that is taken for the partner's QRECV and leaves with its status (the model's reading, log entry 27). -/
def Sys2Proof.Spec.QueuesMoveDoublewords : Prop :=
  ∀ (s : State) (d a b : BitVec 5) (e : BitVec 1) (q : BitVec 3), s.p.q.length = 8 →
    (Sends s q → sendBlocked s = false → s.p.q[q.toNat]!.length < 16 →
      Goes (exec (.qsend d a b e q) s) (ScalarDone 4 d (status 0 0 (clampedBy s b) 0)
        { s with p := { s.p with q := s.p.q.set q.toNat (s.p.q[q.toNat]! ++ [xr s a]) } })) ∧
    (∀ v rest, ¬Sends s q → (d ≠ a ∨ d = 0) → s.p.q[q.toNat]! = v :: rest →
      Goes (exec (.qrecv d a b e q) s) (fun t =>
        OnlyHart { s with p := { s.p with q := s.p.q.set q.toNat rest } } t ∧
        (∀ r, readX t.h r = if r = d ∧ r ≠ 0 then v else if r = a ∧ r ≠ 0 then status 0 0 (clampedBy s b) 0 else readX s.h r) ∧
        t.h.ldst = d ∧ OnlyFlow { s.h with x := t.h.x, ldst := d } t.h ∧ t.h.pc = s.h.pc + 4)) ∧
    (¬HeadTaken s q.toNat → Goes (exec (.qtest d q) s) (ScalarDone 4 d (wrap s.p.q[q.toNat]!.length) s)) ∧
    (HeadTaken s q.toNat → Goes (exec (.qtest d q) s) (ScalarDone 4 d (wrap (s.p.q[q.toNat]!.length - 1)) s))

/-- R15, R59, R60, R69, R295, R297: a queue instruction in the wrong direction, a QRECV with two equal destinations
and a semaphore instruction on an M core raise ILL before any effect. -/
def Sys2Proof.Spec.WrongSyncFormsAreIllegal : Prop :=
  ∀ (s : State) (d a b : BitVec 5) (e f g : BitVec 1) (q c : BitVec 3) (n : BitVec 9) (i : Instr),
    ((i = .qsend d a b e q ∧ ¬Sends s q) ∨ (i = .qrecv d a b e q ∧ (Sends s q ∨ (d = a ∧ d ≠ 0))) ∨
      ((i = .waits d a b e n ∨ i = .semadd d a f g c n ∨ i = .semset d a f g c n) ∧ onUser s = false)) →
      exec i s = .next (takeTrap 0x04 0 false (BitVec.ofNat 64 (codeNat (encode i))) s.h.pc s)

/-- R295, R262, R256: a QSEND to a full queue and a QRECV from an empty one wait, with a budget and an entry to take;
with budget 0 they return TIMEOUT, or take ESCALATE with E set.  Which entry the hub core claims is log entry 22. -/
def Sys2Proof.Spec.QueueWaitsWhenItMust : Prop :=
  ∀ (s : State) (d a b : BitVec 5) (e : BitVec 1) (q : BitVec 3) (i : Instr) (r : BitVec 5) (k : WaitKind),
    s.p.q.length = 8 → EntryFree s → SharesBounded s → Ready s → s.h.wait = none →
    ((i = .qsend d a b e q ∧ r = d ∧ k = .qsend q.toNat (xr s a) ∧ Sends s q ∧
        sendBlocked s = false ∧ s.p.q[q.toNat]!.length = 16) ∨
      (i = .qrecv d a b e q ∧ r = a ∧ k = .qrecv q.toNat d.toNat ∧ ¬Sends s q ∧ (d ≠ a ∨ d = 0) ∧ s.p.q[q.toNat]! = [])) →
      (waitBudget s b ≠ 0 → Goes (exec i s) (fun t =>
        WaitsOn t r e k [] (waitBudget s b) (clampedBy s b) ∧ EntryTaken s t)) ∧
      (waitBudget s b = 0 → e = 0 → Goes (exec i s) (fun t =>
        readX t.h r = (if r = 0 then 0 else status 1 0 (clampedBy s b) 0) ∧ t.h.issue = .ready ∧ t.p = s.p ∧
        t.h.pc = s.h.pc + 4)) ∧
      (waitBudget s b = 0 → e = 1 → MayTrap s → Goes (exec i s) (fun t =>
        t.h = trapTaken s 0x0D 0 false (status 1 0 (clampedBy s b) 0) s.h.pc ∧ t.p = s.p))

/-- R256, R260, R261, R298, R301, R302, R304, R305, R226, R227: a waiting instruction that can claim an entry and finds
its condition true writes OK, CLAMPED and SAT to its status register and goes on; where what it reads is poisoned it
writes POISON; its entry is free again. -/
def Sys2Proof.Spec.SatisfiedWaitsComplete : Prop :=
  ∀ (s : State) (i : Instr) (d : BitVec 5) (e : BitVec 1) (b : BitVec 5) (k : WaitKind) (gens : List Nat) (m : Nat),
    Ready s → s.h.wait = none → EntryFree s → SharesBounded s → waitForm s i d e b k gens →
    (WaitHolds s k gens → SatIs s k m →
      Goes (exec i s) (ScalarDone 4 d (status 0 0 (clampedBy s b) m) { s with nextId := s.nextId + 1 })) ∧
    (WaitPoisoned s k gens → SatIs s k m → s.hub.arm = false →
      Goes (exec i s) (ScalarDone 4 d (status 7 0 (clampedBy s b) m) { s with nextId := s.nextId + 1 }))

/-- R256, R302, R306: a waiting instruction whose condition is false, SLEEP and a LOCK of a held word always, waits when
its budget is not 0: its hart is in WAITING, its entry taken, nothing else changed. -/
def Sys2Proof.Spec.UnsatisfiedWaitsWait : Prop :=
  ∀ (s : State) (i : Instr) (d : BitVec 5) (e : BitVec 1) (b : BitVec 5) (k : WaitKind) (gens : List Nat),
    Ready s → s.h.wait = none → EntryFree s → waitForm s i d e b k gens → ¬WaitHolds s k gens → ¬WaitPoisoned s k gens →
    waitBudget s b ≠ 0 →
      Goes (exec i s) (fun t => WaitsOn t d e k gens (waitBudget s b) (clampedBy s b) ∧ EntryTaken s t)

/-- R256, R262, R301: with budget 0 a waiting instruction whose condition is false writes TIMEOUT, with the streams of
FENCE and SBAR still outstanding in OUT, and goes on, or with E takes ESCALATE with that status in TVAL; SLEEP does
nothing else; a BARWT with a pending arrival sends its withdrawal and waits for the answer alone. -/
def Sys2Proof.Spec.ZeroBudgetTestsOnce : Prop :=
  ∀ (s : State) (i : Instr) (d : BitVec 5) (e : BitVec 1) (b : BitVec 5) (k : WaitKind) (gens : List Nat) (m : Nat),
    Ready s → s.h.wait = none → EntryFree s → SharesBounded s → waitForm s i d e b k gens → ¬WaitHolds s k gens →
    ¬WaitPoisoned s k gens → waitBudget s b = 0 → SatIs s k m →
      ((∀ x p c, k ≠ .bar x p true c) → e = 0 → Goes (exec i s) (fun t => ∃ out, OutIs s k out ∧
        ScalarDone 4 d (status 1 out (clampedBy s b) m) { s with nextId := s.nextId + 1 } t)) ∧
      ((∀ x p c, k ≠ .bar x p true c) → e = 1 → MayTrap s → Goes (exec i s) (fun t => ∃ out, OutIs s k out ∧
        t = { s with h := trapTaken s 0x0D 0 false (status 1 out (clampedBy s b) m) s.h.pc, nextId := s.nextId + 1 })) ∧
      (∀ x p c, k = .bar x p true c → Goes (exec i s) (fun t => EntryTaken s t ∧
        ∃ w, t.h.wait = some w ∧ w.kind = k ∧ w.rd = d.toNat ∧ w.clamped = clampedBy s b ∧ w.withdrawing = some 1))

/-- R256, R265, R277: without an entry to claim, a waiting instruction that has no QSEND or QRECV at hand writes
TABLEFULL, with the streams of FENCE and SBAR still outstanding in OUT, and the context's UMPST shows QUOTA; it
changes no memory, queue or semaphore. A core of M, which has no context, writes the status alone; that the hub core
claims from the pool is log entry 22. -/
def Sys2Proof.Spec.NoEntryMeansTableFull : Prop :=
  (∀ (s : State) (i : Instr) (d : BitVec 5) (e : BitVec 1) (b : BitVec 5) (k : WaitKind) (gens : List Nat) (x : Ctx),
    ¬EntryFree s → onUser s = true → getCtx s s.p.ctx = some x → waitForm s i d e b k gens →
      Goes (exec i s) (fun t => (∃ out, OutIs s k out ∧
          OnlyX { s.h with note := s.h.note || x.note } t.h d (status 4 out (clampedBy s b) 0)) ∧ t.h.pc = s.h.pc + 4 ∧
        t = { s with h := t.h, ctxs := t.ctxs } ∧ getCtx t s.p.ctx = some { x with umpst := x.umpst ||| 1 } ∧
        ∀ a, readByte t a = readByte s a)) ∧
  ∀ (s : State) (i : Instr) (d : BitVec 5) (e : BitVec 1) (b : BitVec 5) (k : WaitKind) (gens : List Nat),
    ¬EntryFree s → onUser s = false → getCtx s s.p.ctx = none → waitForm s i d e b k gens →
      Goes (exec i s) (fun t => ∃ out, OutIs s k out ∧ ScalarDone 4 d (status 4 out (clampedBy s b) 0) s t)

/-- R257, R260, R261, R295: WAIT_SATISFIED of a waiting hart whose wait has the decision OK or POISON and the Umpire's
answer ends the wait with that code, whatever it waits for, a queue moving with OK; a wait not yet decided, of a hart
that may go on, is evaluated first, and where its condition holds it is decided OK and ended. -/
def Sys2Proof.Spec.WaitSatisfiedWritesStatus : Prop :=
  ∀ (s : State) (w : Wait) (c : Nat), s.h.issue = .waiting → s.h.wait = some w → w.answered = true →
    (w.decided = some c → (c = 0 ∨ c = 7) → Goes (exec (.waitSatisfied s.cur) s) (WaitEnded s w c)) ∧
    (undecided w = true → w.budget ≠ 0 → hartFrozen s s.cur = false → WaitHolds s w.kind w.gens →
      Goes (exec (.waitSatisfied s.cur) s) (fun t => ∃ m, SatIs s w.kind m ∧
        WaitEnded s { w with decided := some 0, sat := m } 0 t))

/-- R257, R262, R301: WAIT_TIMEOUT of a waiting hart that has the Umpire's answer and whose budget ran out, its
condition false, ends the wait with TIMEOUT, or with E takes ESCALATE with the status in TVAL, whatever it waits for; an
arrival that is pending then, be it counted while the hart waited, is first withdrawn. -/
def Sys2Proof.Spec.WaitTimeoutEndsWait : Prop :=
  ∀ (s : State) (w : Wait), s.h.issue = .waiting → s.h.wait = some w → w.answered = true →
    (w.decided = some 1 ∨ (undecided w = true ∧ w.budget ≤ w.counted ∧ condNow s (pairOf s.cur) w.kind w.gens = none)) →
      (¬ArrivalPending s w →
        (w.esc = false → Goes (exec (.waitTimeout s.cur) s) (WaitEnded s w 1)) ∧
        (w.esc = true → MayTrap s → Goes (exec (.waitTimeout s.cur) s) (fun t => ∃ out m, OutIs s w.kind out ∧ SatShown s w m ∧
          t.h = { trapTaken s 0x0D 0 false (status 1 out w.clamped (m % 65536)) s.h.pc with wait := none } ∧
          t = { s with h := t.h, pool := t.pool, shares := t.shares, ctxs := t.ctxs }))) ∧
      (ArrivalPending s w → Goes (exec (.waitTimeout s.cur) s) (fun t => ∃ n,
        t = { s with h := { s.h with wait := some { w with withdrawing := some 1, decided := none, sat := n } } }))

/-- R301: the home's answer to a withdrawal: in the arrival's phase ARRIVED goes down by one, the pending arrival is
cleared and the status is WITHDRAWN; in a later phase the arrival counted, nothing changes at the home, and the status
is NOTWITHDRAWN; a cancelled wait returns CANCELLED either way. That an ARRIVED of 0 in the arrival's phase stays 0,
and the word as it is, is the model's choice (log entry 65). -/
def Sys2Proof.Spec.WithdrawalAnswers : Prop :=
  ∀ (s : State) (w : Wait) (key ph sc n : Nat) (m : Bool), s.h.issue = .waiting → s.h.wait = some w →
    w.kind = .bar key ph m sc → w.withdrawing = some n → InMemory key → Canonical s → checkSector s key (w.gens.headD 0) = .good →
      let word := readLoc s key 8
      (phaseOf word = ph → Goes (exec (.withdrawalAnswer s.cur) s) (fun t => ∃ u : State,
        OnlyMemory { s with holds := u.holds } u ∧
        (if word / 2 ^ 24 % 2 ^ 24 = 0 then ∀ a, readByte u a = readByte s a else BytesWritten key 8 (word - 2 ^ 24) s u) ∧
        u.holds = s.holds.map (fun o =>
          if o.kind = .member ∧ o.uid = s.h.uid ∧ o.obj = .word (wordOf key) then { o with phase := none } else o) ∧
        WaitEnded u w (if n = 6 then 6 else 2) t)) ∧
      (phaseOf word ≠ ph → Goes (exec (.withdrawalAnswer s.cur) s) (WaitEnded s w (if n = 6 then 6 else 3)))

/-- R257, R263, R271, R272: UMPIRE_ANSWER of a waiting hart. An answered wait is left. A wait that was decided, or is
being withdrawn, before its edges were inserted sends none and is marked answered (the model's reading, log entry 27);
one that leads to no hart, on objects no other package keeps, closes no cycle and is inserted and marked answered, as
is one found clear before; one found suspected goes on, marked answered, where DLREC.EN is 0. A wait whose walk found
a cycle of its own context, here also the cycle of a hart that waits for itself, ends DEADLOCK where DLREC.EN is 0;
with EN 1 and the record written the hart takes the deadlock trap, with TVAL the record's address. -/
def Sys2Proof.Spec.UmpireAnswersRegistration : Prop :=
  ∀ (s : State) (w : Wait), s.h.issue = .waiting → s.h.wait = some w →
    (w.answered = true → exec (.umpireAnswer s.cur) s = .next s) ∧
    (w.answered = false → w.found = none → (w.decided ≠ none ∨ w.withdrawing ≠ none) →
      exec (.umpireAnswer s.cur) s = .next { s with h := { s.h with wait := some { w with answered := true } } }) ∧
    (w.answered = false → w.found = none → w.decided = none → w.withdrawing = none → ¬StandsFar s w →
      rawEdges s s.h.uid w = [] →
      exec (.umpireAnswer s.cur) s =
        .next { s with h := { s.h with wait := some { w with found := some .clear, answered := true } } }) ∧
    (w.answered = false → w.found = some .clear →
      exec (.umpireAnswer s.cur) s = .next { s with h := { s.h with wait := some { w with answered := true } } }) ∧
    (∀ path last, w.answered = false → w.found = some (.suspect path last) →
      (ctxOf s s.p.ctx).dlrec.getLsbD 0 = false → Goes (exec (.umpireAnswer s.cur) s) (fun t =>
        t.h = { s.h with wait := some { w with answered := true }, note := t.h.note } ∧
        ∀ x, getCtx s s.p.ctx = some x → getCtx t s.p.ctx = some { x with umpst := x.umpst ||| 4 })) ∧
    (∀ path, w.answered = false → w.found = some (.cycle path) → (∀ e ∈ path, e.ctx = ctxOfUid s s.h.uid) →
      ((ctxOf s s.p.ctx).dlrec.getLsbD 0 = false → Goes (exec (.umpireAnswer s.cur) s) (WaitEnded s w 5)) ∧
      (∀ u, (ctxOf s s.p.ctx).dlrec.getLsbD 0 = true → MayTrap u → u.h.issue = .waiting →
        writeRecord s s.p.ctx s.p s.cur (deadlockRecord 1 path false ((ctxOf s s.p.ctx).recSeq + 1) w.since) = (u, true) →
        Goes (exec (.umpireAnswer s.cur) s) (fun t =>
          t.h = { trapTaken u 0x0E 0 false (BitVec.ofNat 64 ((ctxOf s s.p.ctx).dlrec.toNat / 64 % 2 ^ 49 * 64)) u.h.pc with
            wait := none } ∧
          t = { u with h := t.h, pool := t.pool, shares := t.shares, ctxs := t.ctxs }))) ∧
    (∀ o, w.answered = false → w.found = none → w.decided = none → w.withdrawing = none →
      rawEdges s s.h.uid w = [(o, s.h.uid)] → (∀ e₁ e₂ l, w.kind ≠ .waitv false (e₁ :: e₂ :: l)) →
      (ctxOf s s.p.ctx).dlrec.getLsbD 0 = false → Goes (exec (.umpireAnswer s.cur) s) (WaitEnded s w 5))

/-- R297, R298, R313: SEMADD adds the low word of x[rs1], signed, to the semaphore and saturates at 0 and 2^32 − 1,
keeping ERR; SEMSET writes VALUE and ERR; both give the old contents, after the release that RL asks for, for which
they stall at issue (the model's choice, log entry 25). A number outside the window raises ACCESS with the number in
TVAL. -/
def Obligations.SemaphoreUpdates : Prop :=
  ∀ (s : State) (d a : BitVec 5) (r q : BitVec 1) (c : BitVec 3) (n : BitVec 9), onUser s = true →
    (c = 7 → r = 0 ∧ q = 0) →
    (∀ k, SemAt s n.toNat k → (r = 1 → relBlocked s s.h.uid s.cur s.nextId c.toNat = false) →
      let old := SMap.get 0 s.sems k
      Goes (exec (.semadd d a r q c n) s) (fun t => ∃ v : BitVec 33,
        (v.toNat % 2 ^ 32 : Int) = max 0 (min ((old.toNat % 2 ^ 32 : Int) + ((xr s a).setWidth 32).toInt) (2 ^ 32 - 1)) ∧
        v.getLsbD 32 = old.getLsbD 32 ∧
        ScalarDone 4 d (old.setWidth 64) { s with sems := SMap.set 0 s.sems k v } t) ∧
      Goes (exec (.semset d a r q c n) s)
        (ScalarDone 4 d (old.setWidth 64) { s with sems := SMap.set 0 s.sems k ((xr s a).setWidth 33) })) ∧
    ((¬∃ k, SemAt s n.toNat k) →
      exec (.semadd d a r q c n) s = .next (takeTrap 0x06 0 false (n.setWidth 64) s.h.pc s) ∧
      exec (.semset d a r q c n) s = .next (takeTrap 0x06 0 false (n.setWidth 64) s.h.pc s)) ∧
    ((∃ k, SemAt s n.toNat k) → r = 1 → relBlocked s s.h.uid s.cur s.nextId c.toNat = true →
      exec (.semadd d a r q c n) s = .next { s with h := { s.h with issue := .stalled (.release c.toNat) } } ∧
      exec (.semset d a r q c n) s = .next { s with h := { s.h with issue := .stalled (.release c.toNat) } })

/-- R299, R300: BARJOIN adds one to JOINED, which saturates, and records a membership; a member's second BARJOIN only
goes on. Which entry the hub core's hold takes is log entry 22, that a hold beyond the context's quota is kept
unrecorded log entry 76; that a poisoned word is changed from the bits it holds, its poison kept, is the model's
choice (log entry 28). -/
def Sys2Proof.Spec.BarjoinJoins : Prop :=
  ∀ (s : State) (a : BitVec 5) (x : Acc), WordAt s (xr s a) .rmw x → InMemory x.key → Canonical s →
    let word := readLoc s x.key 8
    ((∃ o ∈ s.holds, o.kind = .member ∧ o.uid = s.h.uid ∧ o.obj = .word (wordOf x.key)) →
      Goes (exec (.barjoin a) s) (NextAfter 4 s)) ∧
    ((∀ o ∈ s.holds, o.kind = .member → o.uid = s.h.uid → o.obj ≠ .word (wordOf x.key)) → NoShot s x.key →
      Goes (exec (.barjoin a) s) (fun t =>
        OnlyFlow { s.h with note := t.h.note } t.h ∧ t.h.pc = s.h.pc + 4 ∧ t.reqs = s.reqs ∧ t.p = s.p ∧ t.harts = s.harts ∧
        HoldMade s 0 .member (.word (wordOf x.key)) t ∧
        BytesWritten x.key 8 (if word % 2 ^ 24 = 2 ^ 24 - 1 then word else word + 1) s t))

/-- R300, R402: BARARV sends an arrival and goes on, whatever the hart has sent to the word before; when it is
performed at its home ARRIVED goes up by one, or the phase ends when all that joined have arrived. That a poisoned
word is changed from the bits it holds, its poison kept, is the model's choice (log entry 28). -/
def Sys2Proof.Spec.ArrivalsCount : Prop :=
  ∀ (s : State) (a : BitVec 5) (c : BitVec 3) (x : Acc), WordAt s (xr s a) .rmw x → c ≠ 7 →
    (s.reqs.filter (fun r => r.hart / 16 = s.cur / 16)).length < 4096 → RequestsNumbered s → Canonical s →
      Goes (exec (.bararv a c) s) (fun t =>
        (∃ r : Req, r.id = s.nextId ∧ NextAfter 4 { s with reqs := s.reqs ++ [r], nextId := s.nextId + 1 } t) ∧
        (relBlocked s s.h.uid s.cur s.nextId c.toNat = false → InMemory x.key → domOf x.key = 0 → NoShot s x.key →
          Goes (exec (.storePerformed s.nextId) t) (fun u =>
            u = { t with reqs := s.reqs, holds := u.holds, poison := u.poison, mem := u.mem, wlog := u.wlog, secGen := u.secGen } ∧
            BytesWritten x.key 8 (arrivedWord (readLoc s x.key 8)) t u)))

/-- R301: a BARAW by the last to arrive, which no wait is needed for, completes at once: the phase has moved on and the
status is OK; another's arrival counts and the hart waits for the phase to end, its arrival pending where it is a
member.  With budget 0 a member sends its withdrawal and waits for the answer alone, and another ends TIMEOUT, or with E
takes ESCALATE with that status in TVAL.  Which entry the hub core claims is log entry 22. -/
def Sys2Proof.Spec.LastArrivalCompletesBarrier : Prop :=
  ∀ (s : State) (d a b : BitVec 5) (e : BitVec 1) (c : BitVec 3) (x : Acc), Ready s → s.h.wait = none → EntryFree s →
    SharesBounded s → Canonical s → WordAt s (xr s a) .rmw x → c ≠ 7 → InMemory x.key → checkSector s x.key x.gen = .good →
    relBlocked s s.h.uid s.cur s.nextId c.toNat = false →
    (readLoc s x.key 8 % 2 ^ 24 ≤ readLoc s x.key 8 / 2 ^ 24 % 2 ^ 24 + 1 →
      Goes (exec (.baraw d a b e c) s) (fun t =>
        OnlyX s.h t.h d (status 0 0 (clampedBy s b) 0) ∧ t.h.pc = s.h.pc + 4 ∧ t.reqs = s.reqs ∧ t.p = s.p ∧
        t.harts = s.harts ∧ t.shares = s.shares ∧ t.pool = s.pool ∧
        BytesWritten x.key 8 (arrivedWord (readLoc s x.key 8)) s t)) ∧
    (readLoc s x.key 8 / 2 ^ 24 % 2 ^ 24 + 1 < readLoc s x.key 8 % 2 ^ 24 → waitBudget s b ≠ 0 →
      Goes (exec (.baraw d a b e c) s) (fun t => ∃ m : Bool,
        (m = true ↔ ∃ o ∈ s.holds, o.kind = .member ∧ o.uid = s.h.uid ∧ o.obj = .word (wordOf x.key)) ∧
        WaitsOn t d e (.bar x.key (phaseOf (readLoc s x.key 8)) m c.toNat) [x.gen] (waitBudget s b) (clampedBy s b) ∧
        t.reqs = s.reqs ∧ t.p = s.p ∧ t.harts = s.harts ∧
        BytesWritten x.key 8 (arrivedWord (readLoc s x.key 8)) s t)) ∧
    (readLoc s x.key 8 / 2 ^ 24 % 2 ^ 24 + 1 < readLoc s x.key 8 % 2 ^ 24 → waitBudget s b = 0 →
      let member : Prop := ∃ o ∈ s.holds, o.kind = .member ∧ o.uid = s.h.uid ∧ o.obj = .word (wordOf x.key)
      (member → Goes (exec (.baraw d a b e c) s) (fun t => t.h.issue = .waiting ∧
        (∃ w, t.h.wait = some w ∧ w.kind = .bar x.key (phaseOf (readLoc s x.key 8)) true c.toNat ∧ w.gens = [x.gen] ∧
          w.rd = d.toNat ∧ w.clamped = clampedBy s b ∧ w.withdrawing = some 1) ∧
        t.reqs = s.reqs ∧ t.p = s.p ∧ t.harts = s.harts ∧
        BytesWritten x.key 8 (arrivedWord (readLoc s x.key 8)) s t)) ∧
      (¬member → e = 0 → Goes (exec (.baraw d a b e c) s) (fun t =>
        OnlyX s.h t.h d (status 1 0 (clampedBy s b) 0) ∧ t.h.pc = s.h.pc + 4 ∧ t.reqs = s.reqs ∧ t.p = s.p ∧
        t.harts = s.harts ∧ BytesWritten x.key 8 (arrivedWord (readLoc s x.key 8)) s t)) ∧
      (¬member → e = 1 → MayTrap s → Goes (exec (.baraw d a b e c) s) (fun t =>
        t.h = trapTaken s 0x0D 0 false (status 1 0 (clampedBy s b) 0) s.h.pc ∧ t.reqs = s.reqs ∧ t.p = s.p ∧
        t.harts = s.harts ∧ BytesWritten x.key 8 (arrivedWord (readLoc s x.key 8)) s t)))

/-- R302, R303, R402: LOCK of a free word writes 1, records the hold and completes with OK; LOCK of a held one waits
(with budget 0 the statement on waits of budget 0 says what it does); UNLOCK is sent, whatever the hart has sent to
the word before, and performed at its home removes the lock's hold and, where no LOCK waits on the word, leaves 0 in
it; a word that is 0 stays 0, whoever waits. Which entries the hub core's wait and hold take is log entry 22, that a
hold beyond the context's quota is kept unrecorded log entry 76; that an UNLOCK acts on a poisoned word by the bits it
holds, its poison kept, is the model's choice (log entry 28). -/
def Sys2Proof.Spec.LockAndUnlock : Prop :=
  ∀ (s : State) (d a b : BitVec 5) (e : BitVec 1) (c : BitVec 3) (x : Acc), WordAt s (xr s a) .rmw x →
    c ≠ 7 → InMemory x.key → Canonical s →
    (Ready s → s.h.wait = none → EntryFree s → SharesBounded s → checkSector s x.key x.gen = .good → readLoc s x.key 8 = 0 →
      Goes (exec (.lock d a b e c) s) (fun t =>
        OnlyX { s.h with note := t.h.note } t.h d (status 0 0 (clampedBy s b) 0) ∧ t.h.pc = s.h.pc + 4 ∧ t.reqs = s.reqs ∧
        t.p = s.p ∧ t.harts = s.harts ∧ HoldMade s 1 .lock (.word (wordOf x.key)) t ∧ BytesWritten x.key 8 1 s t)) ∧
    (Ready s → EntryFree s → checkSector s x.key x.gen = .good → readLoc s x.key 8 ≠ 0 → waitBudget s b ≠ 0 →
      Goes (exec (.lock d a b e c) s) (fun t =>
        WaitsOn t d e (.lock x.key c.toNat) [x.gen] (waitBudget s b) (clampedBy s b) ∧ EntryTaken s t)) ∧
    ((s.reqs.filter (fun r => r.hart / 16 = s.cur / 16)).length < 4096 → RequestsNumbered s →
      Goes (exec (.unlock a c) s) (fun t =>
        (∃ r : Req, r.id = s.nextId ∧ NextAfter 4 { s with reqs := s.reqs ++ [r], nextId := s.nextId + 1 } t) ∧
        (relBlocked s s.h.uid s.cur s.nextId c.toNat = false → domOf x.key = 0 → NoShot s x.key →
          (readLoc s x.key 8 = 0 ∨ lockWaits s x.key = [] ∧ farLocks s x.key = []) →
          Goes (exec (.storePerformed s.nextId) t) (fun u => u.h = t.h ∧ u.p = t.p ∧ u.harts = t.harts ∧
            u.reqs = s.reqs ∧ BytesWritten x.key 8 0 t u ∧
            ∀ o, o ∈ u.holds ↔ o ∈ s.holds ∧ ¬(o.kind = .lock ∧ o.obj = .word (wordOf x.key))))))

/-- R267, R303: an UNLOCK performed while LOCKs wait on its word hands the lock to one of them: the word is 1, no
other has a higher effective priority, and none of equal priority was registered earlier. A wait of this package is
decided OK, be its hart bound or its item saved; of a peer's the lock's hold is recorded and the wait is gone, its own
Umpire telling its hart (log entry 12). That it does so on a poisoned word too, by the bits it holds, is the model's
choice (log entry 28). -/
def Sys2Proof.Spec.UnlockHandsOver : Prop :=
  ∀ (s : State) (r : Req), s.reqs.find? (fun q => q.id == r.id) = some r → r.op = .unlock → mayPerform s r = true →
    InMemory r.key → Canonical s → readLoc s r.key 8 ≠ 0 → r.key % 8 = 0 →
    checkSector s r.key r.gen ≠ .violation → NoShot s r.key →
    let nearFirst (e : Nat × Wait) (f : RemoteWait) : Prop :=
      f.prio < ep s e.1 ∨ (f.prio = ep s e.1 ∧ e.2.seq ≤ f.seq)
    (lockWaits s r.key ≠ [] → (∀ f ∈ farLocks s r.key, ∃ e ∈ lockWaits s r.key, nearFirst e f) →
      Goes (exec (.storePerformed r.id) s) (fun t =>
        ∃ u w, (u, w) ∈ lockWaits s r.key ∧
          (∀ e ∈ lockWaits s r.key, ep s e.1 < ep s u ∨ (ep s e.1 = ep s u ∧ w.seq ≤ e.2.seq)) ∧
          (∀ f ∈ farLocks s r.key, nearFirst (u, w) f) ∧
          (∀ id h, hartOf s u = some id → getHart s id = some h → h.wait = some w →
            ∃ h', getHart t id = some h' ∧ h'.wait = some { w with decided := some 0, sat := 0 }) ∧
          (∀ it, hartOf s u = none → itemAt s (itemOfUid u) = some it → (u, w) ∈ it.waits →
            ∃ it', itemAt t (itemOfUid u) = some it' ∧ (u, { w with decided := some 0, sat := 0 }) ∈ it'.waits) ∧
          BytesWritten r.key 8 1 s t ∧ ∃ o ∈ t.holds, o.kind = .lock ∧ o.uid = u ∧ o.obj = .word (wordOf r.key))) ∧
    (farLocks s r.key ≠ [] → (∃ f ∈ farLocks s r.key, ∀ e ∈ lockWaits s r.key, ¬nearFirst e f) →
      Goes (exec (.storePerformed r.id) s) (fun t =>
        ∃ f ∈ farLocks s r.key, (∀ e ∈ lockWaits s r.key, ¬nearFirst e f) ∧
          (∀ g ∈ farLocks s r.key, g.prio < f.prio ∨ (g.prio = f.prio ∧ f.seq ≤ g.seq)) ∧
          (∀ x, x ∈ t.rwaits ↔ x ∈ s.rwaits ∧ ¬(x.uid = f.uid ∧ x.obj = f.obj)) ∧
          BytesWritten r.key 8 1 s t ∧ ∃ o ∈ t.holds, o.kind = .lock ∧ o.uid = f.uid ∧ o.obj = .word (wordOf r.key)))

/-- R224, R307: YIELD prefers the partner once; FENVS goes on once the hart's vector memory instructions are performed,
and stalls before; FENSV and FENVV join the dispatch queue with room, and stall at a full one. -/
def Sys2Proof.Spec.YieldAndDirectionalFences : Prop :=
  ∀ (s : State) (x : BitVec 21) (y : BitVec 22),
    Goes (exec (.yield x) s) (NextAfter 4 { s with yielded := some (partner s.cur) }) ∧
    ((∀ e ∈ s.p.dq, e.role = roleOf s.cur → e.strms = [] ∧ e.binds = []) → Goes (exec (.fenvs y) s) (NextAfter 4 s)) ∧
    ((∃ e ∈ s.p.dq, e.role = roleOf s.cur ∧ (e.strms ≠ [] ∨ e.binds ≠ [])) →
      exec (.fenvs y) s = .next { s with h := { s.h with issue := .stalled .vecDrain } }) ∧
    (onUser s = true → s.p.dq.length < 32 → ∀ i, (i = .fensv y ∨ i = .fenvv y) →
      Goes (exec i s) (fun t => ∃ e : VEntry, e.instr = i ∧ e.role = roleOf s.cur ∧ e.id = s.nextId ∧
        NextAfter 4 { s with p := { s.p with dq := s.p.dq ++ [e] }, nextId := s.nextId + 1 } t)) ∧
    (onUser s = true → 32 ≤ s.p.dq.length → ∀ i, (i = .fensv y ∨ i = .fenvv y) →
      exec i s = .next { s with h := { s.h with issue := .stalled .queueFull } }) ∧
    (onUser s = false → ∀ i, (i = .fensv y ∨ i = .fenvv y) → Goes (exec i s) (NextAfter 4 s))

/-- R264, R308, R309, R313: WOHOLD on a word or a semaphore records that the hart owes it a write and gives 0 (4 where
no entry was found); a second one gives 0 alone. WODROP takes the debt away; where the hart has no debt but a
membership of a barrier's word it leaves the barrier, where a comparator that watches the word traps first (R333), and
with neither it only goes on. A key of a semaphore outside the window traps ACCESS with the key in TVAL (log entry
66). Which entry the hub core's hold takes is log entry 22, that a hold beyond the context's quota is kept unrecorded
log entry 76; that a key of memory is checked as a read of one byte is log entry 37; that a JOINED of 0 stays 0 when a
member leaves is log entry 65, and that a poisoned word is left by the bits it holds is log entry 28: the model's
choices. -/
def Sys2Proof.Spec.WriteOwes : Prop :=
  ∀ (s : State) (d a : BitVec 5),
    ((xr s a).getLsbD 63 = true → onUser s = true → ux s a / 2 ^ 19 % 2 ^ 44 = 0 → ux s a / 2 ^ 14 % 32 < s.hub.pkgs →
      s.hub.reach.testBit (ux s a / 2 ^ 14 % 32) = true →
      SMap.get 0 (ctxOf s s.p.ctx).semwin (ux s a / 512 % 1024) / 512 ≤ ux s a % 512 →
      exec (.wohold d a) s = .next (takeTrap 0x06 0 false (xr s a) s.h.pc s) ∧
      exec (.wodrop a) s = .next (takeTrap 0x06 0 false (xr s a) s.h.pc s)) ∧
    ∀ (o : Obj) (gen : Nat), OweAt s (xr s a) o gen → Canonical s →
    let mine (h : Hold) : Prop := h.kind = .wo ∧ h.uid = s.h.uid ∧ h.obj = o
    let member (h : Hold) : Prop := h.kind = .member ∧ h.uid = s.h.uid ∧ h.obj = o
    ((∀ h ∈ s.holds, ¬mine h) →
      Goes (exec (.wohold d a) s) (fun t => ∃ v : Dword,
        OnlyX { s.h with note := t.h.note } t.h d v ∧ t.h.pc = s.h.pc + 4 ∧ t.p = s.p ∧ t.harts = s.harts ∧ t.reqs = s.reqs ∧
        (∀ k, readByte t k = readByte s k) ∧ HoldMade s 0 .wo o t ∧
        (v = 0 ∧ (∀ h ∈ t.holds, h ∉ s.holds → h.recorded = true) ∨ v = 4 ∧ ∃ h ∈ t.holds, mine h ∧ h.recorded = false))) ∧
    ((∃ h ∈ s.holds, mine h) → Goes (exec (.wohold d a) s) (ScalarDone 4 d 0 s) ∧
      Goes (exec (.wodrop a) s) (fun t => OnlyFlow s.h t.h ∧ t.h.pc = s.h.pc + 4 ∧ t.p = s.p ∧ t.harts = s.harts ∧
        (∀ k, readByte t k = readByte s k) ∧ ∀ h, h ∈ t.holds ↔ h ∈ s.holds ∧ ¬mine h)) ∧
    ((∀ h ∈ s.holds, ¬mine h ∧ ¬member h) → Goes (exec (.wodrop a) s) (NextAfter 4 s)) ∧
    (∀ k, o = .word k → (∀ h ∈ s.holds, ¬mine h) → (∃ h ∈ s.holds, member h) → InMemory k → k % 8 = 0 →
      checkSector s k gen ≠ .violation → NoShot s k → Unwatched s ⟨4, 8, wrap (ux s a / 8 * 8), 0⟩ .rmw →
      Goes (exec (.wodrop a) s) (fun t => OnlyFlow s.h t.h ∧ t.h.pc = s.h.pc + 4 ∧ t.p = s.p ∧ t.harts = s.harts ∧
        (∀ h, h ∈ t.holds ↔ h ∈ s.holds ∧ ¬member h) ∧
        BytesWritten k 8 (leftWord (readLoc s k 8)) s t)) ∧
    (∀ k n m, o = .word k → (∀ h ∈ s.holds, ¬mine h) → (∃ h ∈ s.holds, member h) →
      bpData s.h (ux s a / 8 * 8) 8 true true = some (n, m) →
      exec (.wodrop a) s = .next (takeTrap 0x02 n false (wrap m) s.h.pc s))

/-- R265, R267: UMPIRE_SHARE_REFILL fills a share below 128 from the pool; a message of a peer's Umpire adds or
removes one hold, or one wait with its priority, of a hart of another package on a word or a semaphore, homed here or
passed on by its home (that the peer accounts its entry, and what is passed on, is log entry 12). -/
def Sys2Proof.Spec.UmpireMessages : Prop :=
  ∀ (s : State) (die hart key : Nat),
    (die < 4 → s.shares.length = 4 → s.shares.getD die 0 < 128 → Goes (exec (.umpireShareRefill die) s) (fun t =>
      t = { s with shares := t.shares, pool := t.pool } ∧
      t.shares.getD die 0 = s.shares.getD die 0 + min (256 - s.shares.getD die 0) s.pool ∧
      t.pool = s.pool - min (256 - s.shares.getD die 0) s.pool ∧
      ∀ e, e ≠ die → t.shares.getD e 0 = s.shares.getD e 0)) ∧
    (128 ≤ s.shares.getD die 0 → exec (.umpireShareRefill die) s = .next s) ∧
    (∀ what prio o k, pkgOf hart ≠ 0 → FarObjAt what key o → farHoldOf what = some k →
      Goes (exec (.umpireRemoteMessage hart (peerMessage what prio key) true) s) (fun t => t = { s with holds := t.holds } ∧
        (∃ h ∈ t.holds, h.uid = peerUid hart ∧ h.obj = o ∧ h.kind = k) ∧
        ∀ h ∈ s.holds, h ∈ t.holds) ∧
      Goes (exec (.umpireRemoteMessage hart (peerMessage what prio key) false) s) (fun t => t = { s with holds := t.holds } ∧
        ∀ h, h ∈ t.holds ↔ h ∈ s.holds ∧ ¬(h.uid = peerUid hart ∧ h.obj = o ∧ h.kind = k))) ∧
    (∀ what prio o k, pkgOf hart ≠ 0 → FarObjAt what key o → farWaitOf what = some k →
      Goes (exec (.umpireRemoteMessage hart (peerMessage what prio key) true) s) (fun t =>
        t = { s with rwaits := t.rwaits, nextId := t.nextId } ∧
        ∃ r ∈ t.rwaits, r.uid = peerUid hart ∧ r.obj = o ∧ r.kind = k ∧ r.prio = prio % 16) ∧
      Goes (exec (.umpireRemoteMessage hart (peerMessage what prio key) false) s) (fun t => t = { s with rwaits := t.rwaits } ∧
        ∀ r, r ∈ t.rwaits ↔ r ∈ s.rwaits ∧ ¬(r.uid = peerUid hart ∧ r.obj = o ∧ r.kind = k)))

/-- R197, R198: a page response to an outstanding request of a context ends it and brings or denies the mapping, and
with PRISEM.EN increments its semaphore, whose error bit a failure sets; ATS invalidation takes the mappings of its
pages away and waits for the requests that used them. -/
def Sys2Proof.Spec.PageResponsesAndInvalidation : Prop :=
  ∀ (s : State) (pasid page perm n c : Nat) (x : Ctx), getCtx s c = some x → x.pasid = pasid → page ∈ x.pri →
    (∀ e ∈ s.ctxs, e.2.pasid = pasid → e.1 = c) →
    (∀ ok, x.prisem.getLsbD 14 = false → Goes (exec (.pageResponse pasid page perm ok) s) (fun t =>
      t = { s with ctxs := t.ctxs, hub := { s.hub with hostMap := t.hub.hostMap } } ∧
      (∃ x', getCtx t c = some x' ∧ page ∉ x'.pri) ∧
      (∀ p, (pasid, page, p) ∈ t.hub.hostMap ↔ ok = true ∧ p = perm) ∧
      ∀ e, (e.1 ≠ pasid ∨ e.2.1 ≠ page) → (e ∈ t.hub.hostMap ↔ e ∈ s.hub.hostMap))) ∧
    (∀ ok, x.prisem.getLsbD 14 = true →
      x.prisem.toNat % 512 < SMap.get 0 x.semwin (x.prisem.toNat / 512 % 32) / 512 →
      let k := x.prisem.toNat / 512 % 32 * 512 + SMap.get 0 x.semwin (x.prisem.toNat / 512 % 32) % 512 + x.prisem.toNat % 512
      k < 16384 → SMap.wf 0 s.sems = true →
      Goes (exec (.pageResponse pasid page perm ok) s) (fun t =>
        t = { s with ctxs := t.ctxs, hub := { s.hub with hostMap := t.hub.hostMap }, sems := t.sems } ∧
        (SMap.get 0 t.sems k).toNat % 2 ^ 32 = min ((SMap.get 0 s.sems k).toNat % 2 ^ 32 + 1) (2 ^ 32 - 1) ∧
        ((SMap.get 0 t.sems k).getLsbD 32 = true ↔ (SMap.get 0 s.sems k).getLsbD 32 = true ∨ ok = false) ∧
        ∀ j, j ≠ k → SMap.get 0 t.sems j = SMap.get 0 s.sems j)) ∧
    Goes (exec (.atsInvalidate pasid page n) s) (fun t => ∃ l,
      t = { s with hub := { s.hub with hostMap := t.hub.hostMap, atsWait := s.hub.atsWait ++ [l] } } ∧
      (∀ r ∈ s.reqs, hostKey pasid (page * 4096) ≤ r.key → r.key < hostKey pasid ((page + n) * 4096) → r.id ∈ l) ∧
      ∀ e, e ∈ t.hub.hostMap ↔ e ∈ s.hub.hostMap ∧ ¬(e.1 = pasid ∧ page ≤ e.2.1 ∧ e.2.1 < page + n))

namespace Sys2Proof.Spec

/-! ## Vector instructions (spec/02_execution.md R43-R46, spec/06_results_vector.md, spec/07_results_matrix.md) -/

/-- Element-wise arithmetic: operation, vd, vs1, second source, mask field, the scalar register of the second source
(R77, R109). -/
def arithOf : Instr → Option (AOp × BitVec 5 × BitVec 5 × Src × BitVec 3 × BitVec 5)
  | .vadd d a b k x => some (.add, d, a, srcOf b x, k, b)
  | .vsub d a b k x => some (.sub, d, a, srcOf b x, k, b)
  | .vrsub d a b k x => some (.rsub, d, a, srcOf b x, k, b)
  | .vmul d a b k x => some (.mul, d, a, srcOf b x, k, b)
  | .vmulh d a b k x => some (.mulh, d, a, srcOf b x, k, b)
  | .vma d a b k x => some (.ma, d, a, srcOf b x, k, b)
  | .vms d a b k x => some (.ms, d, a, srcOf b x, k, b)
  | .vmin d a b k x => some (.min, d, a, srcOf b x, k, b)
  | .vmax d a b k x => some (.max, d, a, srcOf b x, k, b)
  | .vand d a b k x => some (.and, d, a, srcOf b x, k, b)
  | .vor d a b k x => some (.or, d, a, srcOf b x, k, b)
  | .vxor d a b k x => some (.xor, d, a, srcOf b x, k, b)
  | .vsll d a b k x => some (.sll, d, a, srcOf b x, k, b)
  | .vsrl d a b k x => some (.srl, d, a, srcOf b x, k, b)
  | .vsra d a b k x => some (.sra, d, a, srcOf b x, k, b)
  | .vclip d a b k x => some (.clip, d, a, srcOf b x, k, b)
  | .vsel d a b k x => some (.sel, d, a, srcOf b x, k, b)
  | .vdiv d a b k x => some (.div, d, a, srcOf b x, k, b)
  | .vaddSat d a b k x => some (.addSat, d, a, srcOf b x, k, b)
  | .vsubSat d a b k x => some (.subSat, d, a, srcOf b x, k, b)
  | .vrsubSat d a b k x => some (.rsubSat, d, a, srcOf b x, k, b)
  | .vabs d a k => some (.abs, d, a, .none, k, 0)
  | .vneg d a k => some (.neg, d, a, .none, k, 0)
  | .vnot d a k => some (.not, d, a, .none, k, 0)
  | .vcvt d a k => some (.cvt, d, a, .none, k, 0)
  | .vcvtSat d a k => some (.cvtSat, d, a, .none, k, 0)
  | .vrcp d a k => some (.sp .rcp, d, a, .none, k, 0)
  | .vrsq d a k => some (.sp .rsq, d, a, .none, k, 0)
  | .vsqrt d a k => some (.sp .sqrt, d, a, .none, k, 0)
  | .vexp2 d a k => some (.sp .exp2, d, a, .none, k, 0)
  | .vlog2 d a k => some (.sp .log2, d, a, .none, k, 0)
  | .vsin d a k => some (.sp .sin, d, a, .none, k, 0)
  | .vcos d a k => some (.sp .cos, d, a, .none, k, 0)
  | _ => none

/-- Compares: comparison, kd, vs1, second source, mask field, scalar register (R153). -/
def compareOf : Instr → Option (Cmp × BitVec 3 × BitVec 5 × Src × BitVec 3 × BitVec 5)
  | .vcmpEq d a b k x => some (.eq, d, a, srcOf b x, k, b)
  | .vcmpNe d a b k x => some (.ne, d, a, srcOf b x, k, b)
  | .vcmpLt d a b k x => some (.lt, d, a, srcOf b x, k, b)
  | .vcmpLe d a b k x => some (.le, d, a, srcOf b x, k, b)
  | .vcmpGt d a b k x => some (.gt, d, a, srcOf b x, k, b)
  | .vcmpGe d a b k x => some (.ge, d, a, srcOf b x, k, b)
  | _ => none

/-- Mask operations: what they do with two bits, kd, ks1, ks2 (R157). -/
def maskOf : Instr → Option ((Bool → Bool → Bool) × BitVec 4 × BitVec 4 × BitVec 4)
  | .kand d a b => some (fun x y => x && y, d, a, b)
  | .kor d a b => some (fun x y => x || y, d, a, b)
  | .kxor d a b => some (fun x y => x != y, d, a, b)
  | .kandn d a b => some (fun x y => x && !y, d, a, b)
  | .knot d a => some (fun x _ => !x, d, a, a)
  | .kmov d a => some (fun x _ => x, d, a, a)
  | _ => none

/-- Movements and sparse forms that take vs1's tag: vd, vs1, the scalar operand's register, further vector sources
(R158-R160). -/
def moveOf : Instr → Option (BitVec 5 × BitVec 5 × BitVec 5 × List (BitVec 5))
  | .vslup d a b _ => some (d, a, b, [])
  | .vsldn d a b _ => some (d, a, b, [])
  | .vperm d a b _ => some (d, a, 0, [b])
  | .vpair d a _ => some (d, a, 0, [])
  | .vcmprs d a _ => some (d, a, 0, [])
  | .vexpnd d a _ => some (d, a, 0, [])
  | _ => none

/-- Reductions and scans: operation, vd, vs1, mask field, boundary mask (R161). -/
def reduceOf : Instr → Option (BitVec 3 × BitVec 5 × BitVec 5 × BitVec 3 × Option (BitVec 3) × Bool)
  | .vred d a k o => some (o, d, a, k, none, false)
  | .vredSeg d a b k o => some (o, d, a, k, some b, false)
  | .vscan d a k o => some (o, d, a, k, none, true)
  | .vscanSeg d a b k o => some (o, d, a, k, some b, true)
  | _ => none

/-- What the front end needs of an instruction of the lane array that makes no memory access: the registers it reads
and writes, whether it runs from VSTART 0 only, what else must hold, the tag vd takes, whether the hart waits for its
scalar result, the scalar operands (R45, R108, R144, R149-R184). -/
def laneForm (s : State) (i : Instr) : Option VForm :=
  let tag (r : BitVec 5) : Tag := tagOf s.p.tags r.toNat
  match arithOf i, compareOf i, maskOf i, moveOf i, reduceOf i with
  | some (op, d, a, src, k, b), _, _, _, _ =>
    some (arithForm op d.toNat a.toNat src k.toNat (if src = .none then 0 else xr s b) s)
  | _, some (c, d, a, src, _, b), _, _, _ => some (cmpForm c d.toNat a.toNat src (xr s b) s)
  | _, _, some (_, d, _, _), _, _ => some { kdest := some d.toNat }
  | _, _, _, some (d, a, b, more), _ =>
    some { srcs := a.toNat :: more.map (·.toNat), dest := some d.toNat, whole := true,
           ok := tagNotMx (tag a) && more.all (fun r => tagIsInt (tag r)), dtag := some (tag a), b := xr s b }
  | _, _, _, _, some (o, d, a, _, _, _) => some (redForm o d.toNat a.toNat s)
  | none, none, none, none, none =>
    match i with
    | .kpopc _ _ | .kfirst _ _ => some { whole := true, hold := true }
    | .vmov d a _ => some { srcs := [a.toNat], dest := some d.toNat, dtag := some (tag a) }
    | .vbcast d b _ => some { dest := some d.toNat, ok := tagNotMx (tag d), b := xr s b }
    | .vext _ a b => some { srcs := [a.toNat], ok := tagNotMx (tag a), hold := true, b := xr s b }
    | .vins d a b => some { dest := some d.toNat, ok := tagNotMx (tag d), a := xr s a, b := xr s b }
    | .viota d _ => some { dest := some d.toNat, whole := true, ok := tagIsInt (tag d) }
    | .vsetvf _ a _ _ => some { srcs := [a.toNat], whole := true, hold := true, ok := tagIsInt (tag a) }
    | .visect d a b _ =>
      some { srcs := [a.toNat, b.toNat], kdest := some d.toNat, whole := true, ok := tagIsInt (tag a) && tagIsInt (tag b) }
    | .vsplit d a b _ =>
      some { srcs := [a.toNat], dest := some d.toNat, whole := true, b := xr s b, ok := tagIsInt (tag a) && tagIsInt (tag d) }
    | .accz d _ => some { whole := true, check := false, ok := matOk s && rowOk s d }
    | .accrd d a b _ =>
      some { dest := some d.toNat, whole := true, b := xr s b, ok := matOk s && rowOk s a && (tagIsInt (tag d) || tagIsFlt (tag d)) }
    | .accwr d a _ =>
      some { srcs := [a.toNat], whole := true, ok := matOk s && rowOk s d && (tagIsInt (tag a) || tagIsFlt (tag a)) }
    | .mmrow d a t _ => some { srcs := [a.toNat], whole := true, check := false, ok := matOk s && rowOk s d && tileTakes s a t }
    | .mmrows d a _ t _ =>
      some { srcs := [a.toNat], whole := true, check := false,
             ok := matOk s && rowOk s d && tileTakes s a t && decide (s.h.vl ≤ lanesOf s.p) }
    | .mxq d a =>
      some { srcs := [a.toNat], dest := some d.toNat, whole := true,
             ok := matOk s && tagIsFlt (tag a) && tagIsMx (tag d) && decide (s.h.vl ≤ lanesOf s.p) }
    | .mxs a =>
      some { srcs := [a.toNat], whole := true, ok := matOk s && tag a == .int false 8 && decide (s.h.vl ≤ lanesOf s.p) }
    | .mxd d a =>
      some { srcs := [a.toNat], dest := some d.toNat, whole := true,
             ok := matOk s && tagIsMx (tag a) && (tagIsFlt (tag d) || tag d == .int false 8) && decide (s.h.vl ≤ lanesOf s.p) }
    | .tload a b =>
      let v := xr s b
      let kt := v.toNat % 2 ^ 16
      let nt := v.toNat / 2 ^ 16 % 2 ^ 16
      match tileTag (v.toNat / 2 ^ 32 % 64) with
      | none => some { srcs := [a.toNat], whole := true, check := false, b := v, ok := false }
      | some t =>
        let codes := ceilDiv (kt * nt) s.h.vl
        let scales := if tagIsMx t then ceilDiv (nt * ceilDiv kt 32) s.h.vl else 0
        some { srcs := [a.toNat], whole := true, check := false, b := v,
               ok := matOk s && decide (s.h.vl ≠ 0) && shapeOk s.p kt nt t && decide (a.toNat + codes + scales ≤ 32) &&
                 (List.range (codes + scales)).all (fun j => regOk s.p (a.toNat + j) &&
                   (if j < codes then tagOf s.p.tags (a.toNat + j) == t else tagOf s.p.tags (a.toNat + j) == .int false 8)) }
    | _ => none

/-- Nothing is on its way in the pair and nothing interferes: a user core, no change pending, an empty queue, no bound
register with an active generator (a binding whose stream is not active counts as none, log entry 42), checked mode
off. -/
def VecIdle (s : State) : Prop :=
  onUser s = true ∧ s.p.chg = none ∧ s.p.dq = [] ∧ (∀ g ∈ s.h.g.toList, g.bnd = false ∨ g.act = false) ∧
    (ctxOf s s.p.ctx).chkctl.toNat % 4 = 0 ∧ Ready s

/-- The entry an instruction has in the queue: copies of VL, VSTART, tags, rounding mode and scalar operands (R44). -/
def laneEntry (s : State) (i : Instr) (f : VForm) : VEntry :=
  { id := s.nextId, role := roleOf s.cur, instr := i, pc := s.h.pc, vl := s.h.vl, vstart := s.h.vstart, a := f.a,
    b := f.b, tags := s.p.tags, rm := s.p.rm, strms := f.strm.toList, dest := f.dest, kdest := f.kdest,
    dtag := f.dest.map (fun d => f.dtag.getD (tagOf s.p.tags d)) }

/-- The pair after issue: vd has its new tag (R108). -/
def taggedPair (s : State) (f : VForm) : Pair :=
  match f.dest, f.dtag with
  | some d, some t => { s.p with tags := s.p.tags.set d t }
  | _, _ => s.p

/-- The scalar register an instruction of the lane array writes. -/
def laneResult : Instr → BitVec 5
  | .kpopc d _ | .kfirst d _ | .vext d _ _ | .vsetvf d _ _ _ => d
  | _ => 0

/-- The storage of a vector register at a position. -/
def lane (p : Pair) (r i : Nat) : Half := SMap.get 0 (p.v.getD r []) i

/-- Every register list of a pair has its length, and vector registers, accumulator rows and the window are in the
canonical form that every operation on them keeps. -/
def PairShape (p : Pair) : Prop :=
  p.v.length = 32 ∧ p.k.length = 8 ∧ p.tags.length = 32 ∧ p.q.length = 8 ∧ p.acc.length = 32 ∧
  (∀ m ∈ p.v, SMap.wf 0 m = true) ∧ (∀ a ∈ p.acc, SMap.wf 0 a.w = true) ∧ SMap.wf (windowFill p) p.window = true

/-- A position takes part (R143). -/
def Active (p : Pair) (e : VEntry) (k : BitVec 3) (i : Nat) : Prop :=
  e.vstart ≤ i ∧ i < e.vl ∧ (k = 0 ∨ (p.k.getD k.toNat 0).testBit i = true)

/-- Of a pair, only the vector register d at some positions changed. -/
def OnlyLanes (p q : Pair) (d : BitVec 5) (at_ : Nat → Prop) : Prop :=
  q = { p with v := q.v } ∧ ∀ r i, (r ≠ d.toNat ∨ ¬at_ i) → lane q r i = lane p r i

/-- The low bits of an exact value as a code of a tag (R142, R150). -/
def codeOf (t : Tag) (v : Int) : Nat := (v % 2 ^ tagWidth t).toNat

/-- An exact value clamped to an integer tag, as a code (R150). -/
def clampCode (t : Tag) (v : Int) : Nat :=
  match t with
  | .int true w => codeOf t (max (-(2 ^ (w - 1) : Int)) (min v (2 ^ (w - 1) - 1)))
  | _ => codeOf t (max 0 (min v (2 ^ tagWidth t - 1)))

/-- The value of a code under an integer tag (R150). -/
def valueOf (t : Tag) (c : Nat) : Int :=
  match t with
  | .int true w => signed w c
  | _ => c

/-- The results of R150 and R151 on integer tags: vs1's code and value, the second source's value, vd's value. -/
def intResult (op : AOp) (td ta : Tag) (c : Nat) (x y d : Int) : Option Nat :=
  let n := (y % 32).toNat
  match op with
  | .add => some (codeOf td (x + y))
  | .sub => some (codeOf td (x - y))
  | .rsub => some (codeOf td (y - x))
  | .addSat => some (clampCode td (x + y))
  | .subSat => some (clampCode td (x - y))
  | .rsubSat => some (clampCode td (y - x))
  | .mul => some (codeOf td (x * y))
  | .mulh => some (codeOf td (x * y / 2 ^ tagWidth td))
  | .ma => some (codeOf td (d + x * y))
  | .ms => some (codeOf td (d - x * y))
  | .min => some (codeOf td (if x ≤ y then x else y))
  | .max => some (codeOf td (if x ≤ y then y else x))
  | .abs => some (codeOf td (if x < 0 then -x else x))
  | .neg => some (codeOf td (-x))
  | .sll => some (codeOf td (x * 2 ^ n))
  | .srl => some (codeOf td ((c / 2 ^ n : Nat)))
  | .sra => some (codeOf td (signed (tagWidth ta) c / 2 ^ n))
  | .clip => some (if n = 0 then clampCode td x else clampCode td ((x + 2 ^ (n - 1)) / 2 ^ n))
  | _ => none

/-- Where each written position takes its value from (R159, R160): a position of vs1, or none for 0. -/
def MovedFrom (p : Pair) (e : VEntry) (i : Instr) (pos : Nat) (src : Option Nat) : Prop :=
  match i with
  | .vslup _ _ _ k => Active p e k pos ∧ e.b.toNat ≤ pos ∧ src = some (pos - e.b.toNat)
  | .vsldn _ _ _ k => Active p e k pos ∧ src = if pos + e.b.toNat < e.vl then some (pos + e.b.toNat) else none
  | .vpair _ _ k => Active p e k pos ∧ src = if pos ^^^ 1 < e.vl then some (pos ^^^ 1) else none
  | .vperm _ _ b k => Active p e k pos ∧
    let j := elemInt p (tagOf e.tags b.toNat) b.toNat pos
    src = if p.kp.testBit pos = false ∧ 0 ≤ j ∧ j < e.vl then some j.toNat else none
  | .vcmprs _ _ k => ∃ j, j < e.vl ∧ (p.k.getD k.toNat 0).testBit j = true ∧ src = some j ∧
    pos = ((List.range j).filter (p.k.getD k.toNat 0).testBit).length
  | .vexpnd _ _ k => pos < e.vl ∧ (p.k.getD k.toNat 0).testBit pos = true ∧
    src = some ((List.range pos).filter (p.k.getD k.toNat 0).testBit).length
  | _ => False

end Sys2Proof.Spec

/-- R43-R46, R53, R87, R119, R143: an instruction of the lane array that the front end accepts goes into the queue and
its hart goes on (or waits, for a scalar result); VECTOR_COMPLETE then leaves what `laneOf` says: the pair, the flags
ORed into FPST, the scalar result in rd or POISON with the position in TVAL; vd has its new tag, where no element is
written too (log entry 72), VSTART is 0; nothing else of the machine changed. A binding whose stream is not active
counts as none (log entry 42). The statements below say what `laneOf` is for each family. -/
def Sys2Proof.Spec.VectorInstructionsComplete : Prop :=
  ∀ (s : State) (i : Instr) (f : VForm), laneForm s i = some f → VecIdle s → i.wf = true → formOk s f = true →
    let e := laneEntry s i f
    let r := laneOf i { taggedPair s f with dq := [] } e
    Goes (exec i s) (fun t => t.p.dq = [e] ∧
      (f.hold = false → OnlyFlow { s.h with vstart := 0, probeFrom := none } t.h ∧ t.h.pc = s.h.pc + 4) ∧
      (f.hold = true → t.h = { s.h with vstart := 0, probeFrom := none, issue := .stalled (.vecResult s.nextId) }) ∧
      Goes (exec (.vectorComplete (pairOf s.cur)) t) (fun u =>
        u = { s with h := u.h, p := r.p, nextId := s.nextId + 1 } ∧ (∀ a, readByte u a = readByte s a) ∧
        (f.hold = false → OnlyFlow { s.h with vstart := 0, probeFrom := none, fpst := s.h.fpst ||| r.fl } u.h ∧ u.h.pc = s.h.pc + 4) ∧
        (∀ v, f.hold = true → r.trap = none → r.res = some v →
          OnlyX { s.h with vstart := 0, probeFrom := none, fpst := s.h.fpst ||| r.fl, vl := r.vl.getD s.h.vl } u.h (laneResult i) v ∧
          u.h.pc = s.h.pc + 4) ∧
        (∀ x, f.hold = true → r.trap = some x → MayTrap s →
          u.h = { trapTaken s 0x0A 0 false x.tval s.h.pc with vstart := s.h.vstart, probeFrom := none, fpst := s.h.fpst ||| r.fl })))

/-- R15, R45, R59, R76, R104, R107, R108, R144: an instruction of the lane array that the front end does not accept, or
that an M core meets, raises ILL before any effect. -/
def Sys2Proof.Spec.IllegalVectorInstructionsTrap : Prop :=
  ∀ (s : State) (i : Instr) (f : VForm), laneForm s i = some f →
    (onUser s = false ∨ i.wf = false ∨ (s.p.chg = none ∧ formOk s f = false)) →
      exec i s = .next (takeTrap 0x04 0 false (BitVec.ofNat 64 (codeNat (encode i))) s.h.pc s)

/-- R44, R107: a vector instruction stalls while a change of VTYPE is pending, and at a full dispatch queue. -/
def Sys2Proof.Spec.VectorIssueStalls : Prop :=
  ∀ (s : State) (i : Instr) (f : VForm), laneForm s i = some f → onUser s = true → i.wf = true →
    (s.p.chg ≠ none → exec i s = .next { s with h := { s.h with issue := .stalled .otherChange } }) ∧
    (s.p.chg = none → formOk s f = true → (∀ g ∈ s.h.g.toList, g.bnd = false ∨ g.act = false) → 32 ≤ s.p.dq.length →
      exec i s = .next { s with h := { s.h with issue := .stalled .queueFull } })

/-- R143, R150, R151: on integer tags an element-wise instruction writes at each active position the code of its exact
result, wrapped or saturated to vd's width, and changes nothing else of the pair. -/
def Sys2Proof.Spec.LaneIntegerArithmetic : Prop :=
  ∀ (p : Pair) (e : VEntry) (i : Instr) (op : AOp) (d a : BitVec 5) (src : Src) (k : BitVec 3) (b : BitVec 5)
    (sd sa : Bool) (wd wa : Nat),
    arithOf i = some (op, d, a, src, k, b) → PairShape p → tagOf e.tags d.toNat = .int sd wd →
    tagOf e.tags a.toNat = .int sa wa → wd ≤ 16 → wa ≤ 16 → 0 < wd → 0 < wa →
    tagIsInt (srcTag e.tags a.toNat src) = true → tagWidth (srcTag e.tags a.toNat src) ≤ 16 →
    (intResult op (.int sd wd) (.int sa wa) 0 0 0 0).isSome = true →
      (laneOf i p e).fl = 0 ∧ OnlyLanes p (laneOf i p e).p d (Active p e k) ∧
      ∀ j, Active p e k j → some ((lane (laneOf i p e).p d.toNat j).toNat) =
        intResult op (.int sd wd) (.int sa wa) (elemCode p (.int sa wa) a.toNat j)
          (valueOf (.int sa wa) (elemCode p (.int sa wa) a.toNat j))
          (valueOf (srcTag e.tags a.toNat src) (srcCode p e a.toNat j src))
          (valueOf (.int sd wd) (elemCode p (.int sd wd) d.toNat j))

/-- R152: the bit operations on codes of one width, and VSEL, which chooses by its mask at every position from VSTART to
VL − 1. -/
def Sys2Proof.Spec.LaneBitOperations : Prop :=
  ∀ (p : Pair) (e : VEntry) (i : Instr) (op : AOp) (d a : BitVec 5) (src : Src) (k : BitVec 3) (b : BitVec 5) (w : Nat),
    arithOf i = some (op, d, a, src, k, b) → PairShape p → w ≤ 16 → tagWidth (tagOf e.tags d.toNat) = w →
    tagWidth (tagOf e.tags a.toNat) = w → tagWidth (srcTag e.tags a.toNat src) = w →
    let x := elemCode p (tagOf e.tags a.toNat) a.toNat
    let y := fun j => srcCode p e a.toNat j src
    (op ∈ [.and, .or, .xor, .not] → OnlyLanes p (laneOf i p e).p d (Active p e k) ∧ (laneOf i p e).fl = 0 ∧
      ∀ j, Active p e k j → (lane (laneOf i p e).p d.toNat j).toNat =
        (match op with
         | .and => x j &&& y j
         | .or => x j ||| y j
         | .xor => x j ^^^ y j
         | _ => 2 ^ w - 1 - x j)) ∧
    (op = .sel → OnlyLanes p (laneOf i p e).p d (fun j => e.vstart ≤ j ∧ j < e.vl) ∧ (laneOf i p e).fl = 0 ∧
      ∀ j, e.vstart ≤ j → j < e.vl → (lane (laneOf i p e).p d.toNat j).toNat =
        if (p.k.getD k.toNat 0).testBit j then x j else y j)

/-- R119, R143, R145, R153-R155: on a float tag, in a mode that does not draw, each active position takes the code the
float operation gives and every position that is not poisoned ORs its flags; vd's codes stand elsewhere. -/
def Sys2Proof.Spec.LaneFloatArithmetic : Prop :=
  ∀ (p : Pair) (e : VEntry) (i : Instr) (op : AOp) (d a : BitVec 5) (src : Src) (k : BitVec 3) (b : BitVec 5) (f : FFmt),
    arithOf i = some (op, d, a, src, k, b) → PairShape p → e.rm ≠ .sr → tagOf e.tags a.toNat = .flt f → f ≠ .f32 →
    srcTag e.tags a.toNat src = .flt f →
    op ∈ [.add, .sub, .rsub, .mul, .ma, .ms, .min, .max, .abs, .neg, .div, .sp .sqrt, .sp .rcp, .sp .rsq, .sp .exp2,
      .sp .log2, .sp .sin, .sp .cos] →
      let val (j : Nat) : Nat × Flags :=
        fltElem op f e.rm 0 (elemCode p (.flt f) a.toNat j) (srcCode p e a.toNat j src) (elemCode p (.flt f) d.toNat j)
      OnlyLanes p (laneOf i p e).p d (Active p e k) ∧
      (∀ j, Active p e k j → (lane (laneOf i p e).p d.toNat j).toNat = (val j).1 % 2 ^ fmtWidth f) ∧
      ∀ n : Nat, n < 5 → ((laneOf i p e).fl.getLsbD n = true ↔
        ∃ j, Active p e k j ∧ p.kp.testBit j = false ∧ (val j).2.getLsbD n = true)

/-- R113, R145, R156: VCVT and VCVT.SAT, in a mode that does not draw, write the converted code at each active
position. -/
def Sys2Proof.Spec.LaneConversions : Prop :=
  ∀ (p : Pair) (e : VEntry) (d a : BitVec 5) (k : BitVec 3) (sat : Bool), PairShape p → e.rm ≠ .sr →
    tagWidth (tagOf e.tags d.toNat) ≤ 16 →
    let i : Instr := if sat then .vcvtSat d a k else .vcvt d a k
    OnlyLanes p (laneOf i p e).p d (Active p e k) ∧
    ∀ j, Active p e k j → (lane (laneOf i p e).p d.toNat j).toNat =
      (convertTag (tagOf e.tags a.toNat) (tagOf e.tags d.toNat) sat e.rm 0
        (elemCode p (tagOf e.tags a.toNat) a.toNat j)).1 % 2 ^ tagWidth (tagOf e.tags d.toNat)

/-- R153: a compare on integer tags writes the truth of its relation into kd at each active position and nothing else. -/
def Sys2Proof.Spec.LaneCompares : Prop :=
  ∀ (p : Pair) (e : VEntry) (i : Instr) (c : Cmp) (d : BitVec 3) (a : BitVec 5) (src : Src) (k : BitVec 3) (b : BitVec 5)
    (sa : Bool) (wa : Nat), compareOf i = some (c, d, a, src, k, b) → PairShape p → tagOf e.tags a.toNat = .int sa wa →
    0 < wa → tagIsInt (srcTag e.tags a.toNat src) = true → 0 < tagWidth (srcTag e.tags a.toNat src) →
      (laneOf i p e).fl = 0 ∧ (laneOf i p e).p = { p with k := (laneOf i p e).p.k } ∧
      ∀ r j, ((laneOf i p e).p.k.getD r 0).testBit j = true ↔
        if r = d.toNat ∧ e.vstart ≤ j ∧ j < e.vl ∧ (k = 0 ∨ (p.k.getD k.toNat 0).testBit j = true) then
          (let x := valueOf (.int sa wa) (elemCode p (.int sa wa) a.toNat j)
           let y := valueOf (srcTag e.tags a.toNat src) (srcCode p e a.toNat j src)
           match c with
           | .eq => x = y
           | .ne => x ≠ y
           | .lt => x < y
           | .le => x ≤ y
           | .gt => y < x
           | .ge => y ≤ x
           | .un => False)
        else (p.k.getD r 0).testBit j = true

/-- R78, R157: the mask instructions write their bits from VSTART to VL − 1; number 8 names kp, which KAND, KANDN and
KMOV may clear. KPOPC counts and KFIRST finds the lowest set bit below VL, −1 for none; a set bit at a poisoned
position raises POISON with that position. -/
def Sys2Proof.Spec.LaneMasks : Prop :=
  ∀ (p : Pair) (e : VEntry), PairShape p →
    (∀ i f (d a b : BitVec 4), maskOf i = some (f, d, a, b) → d.toNat ≤ 8 → ∀ (r : Nat) (j : Nat), r ≤ 8 →
      ((maskReg (laneOf i p e).p r).testBit j =
        if r = d.toNat ∧ e.vstart ≤ j ∧ j < e.vl then f ((maskReg p a.toNat).testBit j) ((maskReg p b.toNat).testBit j)
        else (maskReg p r).testBit j) ∧ (laneOf i p e).p = { p with k := (laneOf i p e).p.k, kp := (laneOf i p e).p.kp }) ∧
    (∀ (d : BitVec 5) (a : BitVec 4), (laneOf (.kpopc d a) p e).p = p ∧ (laneOf (.kfirst d a) p e).p = p ∧
      ((a = 8 ∨ ∀ j, j < e.vl → (maskReg p a.toNat).testBit j = true → p.kp.testBit j = false) →
        (laneOf (.kpopc d a) p e).res =
          some (BitVec.ofNat 64 ((List.range e.vl).filter (maskReg p a.toNat).testBit).length) ∧
        (laneOf (.kfirst d a) p e).res = some (match (List.range e.vl).find? (maskReg p a.toNat).testBit with
          | some j => BitVec.ofNat 64 j
          | none => -1)) ∧
      (∀ j, a ≠ 8 → (List.range e.vl).find? (fun n => (maskReg p a.toNat).testBit n && p.kp.testBit n) = some j →
        ∃ x, (laneOf (.kpopc d a) p e).trap = some x ∧ (laneOf (.kfirst d a) p e).trap = some x ∧
          x.tval = BitVec.ofNat 64 j))

/-- R145, R158-R160: VMOV and VBCAST copy to each active position; VEXT reads one, 0 beyond VLMAX, VINS writes one; the
movements take each written position's code from where R159 and R160 say, or 0, and its kp bit with it. -/
def Sys2Proof.Spec.LaneMovements : Prop :=
  ∀ (p : Pair) (e : VEntry), PairShape p → (∀ t ∈ e.tags, tagWidth t ≤ 16) →
    (∀ (d a : BitVec 5) (k : BitVec 3), OnlyLanes p (laneOf (.vmov d a k) p e).p d (Active p e k) ∧
      ∀ j, Active p e k j → (lane (laneOf (.vmov d a k) p e).p d.toNat j).toNat = elemCode p (tagOf e.tags a.toNat) a.toNat j) ∧
    (∀ (d b : BitVec 5) (k : BitVec 3), OnlyLanes p (laneOf (.vbcast d b k) p e).p d (Active p e k) ∧
      ∀ j, Active p e k j → (lane (laneOf (.vbcast d b k) p e).p d.toNat j).toNat =
        e.b.toNat % 2 ^ tagWidth (tagOf e.tags d.toNat)) ∧
    (∀ (d a b : BitVec 5), (laneOf (.vext d a b) p e).p = p ∧
      (vlmaxOf p ≤ e.b.toNat → (laneOf (.vext d a b) p e).res = some 0) ∧
      (e.b.toNat < vlmaxOf p → p.kp.testBit e.b.toNat = false → (laneOf (.vext d a b) p e).res =
        some (wrap (ivalOf (tagOf e.tags a.toNat) (elemCode p (tagOf e.tags a.toNat) a.toNat e.b.toNat))))) ∧
    (∀ (d a b : BitVec 5), OnlyLanes p (laneOf (.vins d a b) p e).p d (fun j => j = e.b.toNat ∧ j < vlmaxOf p) ∧
      (e.b.toNat < vlmaxOf p → (lane (laneOf (.vins d a b) p e).p d.toNat e.b.toNat).toNat =
        e.a.toNat % 2 ^ tagWidth (tagOf e.tags d.toNat))) ∧
    (∀ (i : Instr) (d a b : BitVec 5) (more : List (BitVec 5)), moveOf i = some (d, a, b, more) →
      let q := (laneOf i p e).p
      q = { p with v := q.v, kp := q.kp } ∧
      (∀ pos src, MovedFrom p e i pos src →
        (lane q d.toNat pos).toNat = (match src with | some j => elemCode p (tagOf e.tags a.toNat) a.toNat j | none => 0) ∧
        (q.kp.testBit pos = true ↔ p.kp.testBit pos = true ∨ ∃ j, src = some j ∧ p.kp.testBit j = true)) ∧
      ∀ r pos, (r ≠ d.toNat ∨ ∀ src, ¬MovedFrom p e i pos src) → lane q r pos = lane p r pos)

/-- R116, R117, R161: on integer tags VRED adds the active elements of the strip exactly into position 0 and VSCAN the
elements up to each position; masked-off positions count as 0. -/
def Sys2Proof.Spec.LaneIntegerSums : Prop :=
  ∀ (p : Pair) (e : VEntry) (d a : BitVec 5) (k : BitVec 3) (sd sa : Bool) (wd wa : Nat), PairShape p →
    tagOf e.tags d.toNat = .int sd wd → tagOf e.tags a.toNat = .int sa wa → 0 < wd → wd ≤ 16 → 0 < wa → 0 < e.vl →
    (∀ j < e.vl, p.kp.testBit j = false) →
      let x (j : Nat) : Int :=
        if k = 0 ∨ (p.k.getD k.toNat 0).testBit j = true then valueOf (.int sa wa) (elemCode p (.int sa wa) a.toNat j) else 0
      OnlyLanes p (laneOf (.vred d a k 0) p e).p d (fun j => j = 0) ∧ (laneOf (.vred d a k 0) p e).fl = 0 ∧
      (lane (laneOf (.vred d a k 0) p e).p d.toNat 0).toNat = codeOf (.int sd wd) ((List.range e.vl).map x).sum ∧
      OnlyLanes p (laneOf (.vscan d a k 0) p e).p d (fun j => j < e.vl) ∧
      ∀ j < e.vl, (lane (laneOf (.vscan d a k 0) p e).p d.toNat j).toNat =
        codeOf (.int sd wd) ((List.range (j + 1)).map x).sum

/-- R160, R162, R163: VIOTA writes at each position below VL how many positions the mask selects below it; VISECT marks
the active positions whose value some active position of vs2 holds; VSETVF packs the most fibres that
fit: VL, the count, boundary and body masks; a first fibre longer than the strip fills it alone, with count 0. -/
def Sys2Proof.Spec.LaneSparse : Prop :=
  ∀ (p : Pair) (e : VEntry), PairShape p → (∀ t ∈ e.tags, 0 < tagWidth t ∧ tagWidth t ≤ 16) → e.tags.length = 32 →
    (∀ (d : BitVec 5) (k : BitVec 3), tagIsInt (tagOf e.tags d.toNat) = true →
      OnlyLanes p (laneOf (.viota d k) p e).p d (fun j => j < e.vl) ∧
      ∀ j < e.vl, (lane (laneOf (.viota d k) p e).p d.toNat j).toNat =
        codeOf (tagOf e.tags d.toNat) (((List.range j).filter (p.k.getD k.toNat 0).testBit).length : Nat)) ∧
    (∀ (d : BitVec 3) (a b : BitVec 5) (k : BitVec 3), (∀ j < e.vl, p.kp.testBit j = false) →
      let on (j : Nat) : Prop := j < e.vl ∧ (k = 0 ∨ (p.k.getD k.toNat 0).testBit j = true)
      let q := (laneOf (.visect d a b k) p e).p
      q = { p with k := q.k } ∧ ∀ j, (q.k.getD d.toNat 0).testBit j = true ↔
        if j < e.vl then on j ∧ ∃ n, on n ∧ elemInt p (tagOf e.tags b.toNat) b.toNat n = elemInt p (tagOf e.tags a.toNat) a.toNat j
        else (p.k.getD d.toNat 0).testBit j = true) ∧
    (∀ (d a : BitVec 5) (b k : BitVec 3), (∀ j < e.vl, p.kp.testBit j = false) → b ≠ k →
      let n (j : Nat) : Nat := max 1 (elemInt p (tagOf e.tags a.toNat) a.toNat j).toNat
      let first (j : Nat) : Nat := ((List.range j).map n).sum
      let r := laneOf (.vsetvf d a b k) p e
      let set (c : BitVec 3) (m : Nat) : Bool := (r.p.k.getD c.toNat 0).testBit m
      r.p = { p with k := r.p.k } ∧ r.trap = none ∧
      (∀ c : BitVec 3, c ≠ b → c ≠ k → ∀ m, set c m = (p.k.getD c.toNat 0).testBit m) ∧
      (0 < e.vl → vlmaxOf p < n 0 → r.res = some 0 ∧ r.vl = some (vlmaxOf p) ∧
        ∀ m, (set b m = true ↔ m = 0) ∧ (set k m = true ↔ m < vlmaxOf p)) ∧
      ∀ f ≤ e.vl, first f ≤ vlmaxOf p → (f = e.vl ∨ (0 < f ∧ vlmaxOf p < first (f + 1))) →
        r.res = some (BitVec.ofNat 64 f) ∧ r.vl = some (first f) ∧
        ∀ m, (set b m = true ↔ ∃ j < f, m = first j) ∧
          (set k m = true ↔
            ∃ j < f, first j ≤ m ∧ (m : Int) < first j + elemInt p (tagOf e.tags a.toNat) a.toNat j))

/-- R171, R176, R177, R180: TLOAD replaces the tile by what the registers hold, an integer tile's values or an MX tile's
element views and block scales, every column clean; on an integer tile ACCZ clears words and
their poison; ACCWR writes integer words; MMROW adds to each unmasked word of its row the exact product sum, wrapped, or
saturated with SAT. -/
def Obligations.LaneMatrixInteger : Prop :=
  ∀ (p : Pair) (e : VEntry), PairShape p → p.kp = 0 →
    let word (q : Pair) (r : BitVec 5) (n : Nat) : Word := SMap.get 0 (q.acc.getD r.toNat {}).w n
    let on (k : BitVec 3) (n : Nat) : Prop := n < e.vl ∧ n < lanesOf p ∧ (k = 0 ∨ (p.k.getD k.toNat 0).testBit n = true)
    (∀ (d : BitVec 5) (k : BitVec 3), let q := (laneOf (.accz d k) p e).p
      q = { p with acc := q.acc } ∧ (∀ n, on k n → word q d n = 0 ∧ (q.acc.getD d.toNat {}).pois.testBit n = false) ∧
      ∀ r n, (r ≠ d ∨ ¬on k n) → word q r n = word p r n) ∧
    (∀ (d a : BitVec 5) (k : BitVec 3) (sg : Bool) (w : Nat), tagOf e.tags a.toNat = .int sg w → 0 < w →
      let q := (laneOf (.accwr d a k) p e).p
      q = { p with acc := q.acc } ∧ (q.acc.getD d.toNat {}).f32 = false ∧
      (∀ n, on k n → word q d n = BitVec.ofInt 32 (valueOf (.int sg w) (elemCode p (.int sg w) a.toNat n))) ∧
      ∀ r n, (r ≠ d ∨ ¬on k n) → word q r n = word p r n) ∧
    (∀ (d a : BitVec 5) (k : BitVec 3) (t : BitVec 1) (sg st : Bool) (w wt : Nat), p.tile.tag = .int st wt →
      tagOf e.tags a.toNat = .int sg w → 0 < w → p.tile.colpois = 0 → (p.acc.getD d.toNat {}).pois = 0 →
      let q := (laneOf (.mmrow d a t k) p e).p
      let sum (n : Nat) : Int := ((List.range p.tile.kt).map (fun j =>
        valueOf (.int sg w) (elemCode p (.int sg w) a.toNat j) * SMap.get 0 p.tile.w (n * p.tile.kt + j))).sum
      q = { p with acc := q.acc } ∧
      (∀ n, n < p.tile.nt → (k = 0 ∨ (p.k.getD k.toNat 0).testBit n = true) → word q d n =
        BitVec.ofInt 32 (if t = 1 then max (-2 ^ 31) (min ((word p d n).toInt + sum n) (2 ^ 31 - 1))
          else (word p d n).toInt + sum n)) ∧
      ∀ r n, (r ≠ d ∨ p.tile.nt ≤ n ∨ (k ≠ 0 ∧ (p.k.getD k.toNat 0).testBit n = false)) → word q r n = word p r n) ∧
    (∀ (a b : BitVec 5) (st : Bool) (wt kt nt : Nat), tileTag (e.b.toNat / 2 ^ 32 % 64) = some (.int st wt) → 0 < e.vl →
      kt = e.b.toNat % 2 ^ 16 → nt = e.b.toNat / 2 ^ 16 % 2 ^ 16 →
      let q := (laneOf (.tload a b) p e).p
      q = { p with tile := q.tile } ∧ q.tile.kt = kt ∧ q.tile.nt = nt ∧ q.tile.tag = .int st wt ∧ q.tile.colpois = 0 ∧
      ∀ x < kt * nt, SMap.get 0 q.tile.w x =
        valueOf (.int st wt) (elemCode p (.int st wt) (a.toNat + x / e.vl) (x % e.vl))) ∧
    (∀ (a b : BitVec 5) (m : MxFmt) (kt nt : Nat), tileTag (e.b.toNat / 2 ^ 32 % 64) = some (.mx m) → 0 < e.vl →
      kt = e.b.toNat % 2 ^ 16 → nt = e.b.toNat / 2 ^ 16 % 2 ^ 16 →
      let q := (laneOf (.tload a b) p e).p
      let nb := (kt + 31) / 32
      let codes := (kt * nt + e.vl - 1) / e.vl
      q = { p with tile := q.tile } ∧ q.tile.kt = kt ∧ q.tile.nt = nt ∧ q.tile.tag = .mx m ∧ q.tile.colpois = 0 ∧
      (∀ x < kt * nt, SMap.get 0 q.tile.w x = kview (.mx m) (elemCode p (.mx m) (a.toNat + x / e.vl) (x % e.vl))) ∧
      ∀ n < nt, ∀ c < nb, SMap.get 0 q.tile.sb (n * nb + c) =
        elemCode p (.int false 8) (a.toNat + codes + (n * nb + c) / e.vl) ((n * nb + c) % e.vl) % 256)

namespace Sys2Proof.Spec

/-! ## Configuration and vector memory (spec/10_order_instructions.md R236-R245) -/

/-- L of R48. -/
def lanes (p : Pair) : Nat := 8192 / p.pairs
/-- VLMAX for group widths, counts and window bits (R49). -/
def vlmaxFor (p : Pair) (gw gc : List Nat) (win : Nat) : Nat :=
  lanes p * (4096 / ((List.zipWith (· * ·) gc gw).sum + 9 + win))
/-- VLMAX of a pair (R49). -/
def vlmax (p : Pair) : Nat := vlmaxFor p p.gw p.gc p.win

/-- A pre-emption request of the hart's item is pending (R285). -/
def Requested (s : State) : Prop :=
  ∃ t i l it, s.p.item = some (t, i) ∧ getLaunch s t = some l ∧ getItem l i = some it ∧ it.preq ≠ none

/-- Bytes of a container (R236). -/
def container (t : Tag) : Nat := if tagWidth t ≤ 8 then 1 else 2

/-- Vector loads and stores: whether it loads, the data register, mask field, stream, index register, the address of an
element (R236). -/
def vmemOf (s : State) : Instr → Option (Bool × BitVec 5 × BitVec 3 × BitVec 3 × Option (BitVec 5) × (Nat → Dword))
  | .vld d a g _ k => some (true, d, k, g, none, fun j => wrap (ux s a + j * container (tagOf s.p.tags d.toNat)))
  | .vlds d a b g _ k => some (true, d, k, g, none, fun j => wrap (ux s a + j * sgx s b))
  | .vldx d a b g _ k => some (true, d, k, g, some b, fun j =>
      wrap (ux s a + elemInt s.p (tagOf s.p.tags b.toNat) b.toNat j * container (tagOf s.p.tags d.toNat)))
  | .vst d a g _ k => some (false, d, k, g, none, fun j => wrap (ux s a + j * container (tagOf s.p.tags d.toNat)))
  | .vsts d a b g _ k => some (false, d, k, g, none, fun j => wrap (ux s a + j * sgx s b))
  | .vstx d a b g _ k => some (false, d, k, g, some b, fun j =>
      wrap (ux s a + elemInt s.p (tagOf s.p.tags b.toNat) b.toNat j * container (tagOf s.p.tags d.toNat)))
  | _ => none

/-- No hart waits on the word at a place (R304): a store there is seen by no wait. -/
def Unseen (s : State) (key : Nat) : Prop :=
  ∀ e ∈ allHarts s, ∀ w, e.2.wait = some w → wordOf key ∉ wordsOf w.kind

/-- The first failing check of one element of a load or store (R200, R201, R322): alignment, the translation and its
permission, a page not there, then the data breakpoints; with its cause, the comparator, and TVAL. -/
def FailsCheck (s : State) (va : Dword) (cb : Nat) (ld : Bool) (cause sub : Nat) (tval : Dword) : Prop :=
  let kind : AccKind := if ld then .read else .write
  (va.toNat % cb ≠ 0 ∧ cause = 0x06 ∧ sub = 0 ∧ tval = va) ∨
  (va.toNat % cb = 0 ∧ resolveCur s va cb kind = .fault cause ∧ sub = 0 ∧ tval = va) ∨
  (va.toNat % cb = 0 ∧ (∃ x, resolveCur s va cb kind = .ok x) ∧ cause = 0x02 ∧
    ∃ m, bpData s.h va.toNat cb ld (!ld) = some (sub, m) ∧ tval = wrap m)

/-- A vector memory instruction may go ahead and is performed at once: nothing in the way, no access of the hart
outstanding, no poisoned position, VL within VLMAX. -/
def VecMemReady (s : State) : Prop :=
  VecIdle s ∧ (∀ r ∈ s.reqs, r.uid ≠ s.h.uid ∨ r.done = true) ∧ s.p.kp = 0 ∧ s.h.vl ≤ vlmaxOf s.p ∧ PairShape s.p ∧ Canonical s

/-- The access of an element passes its checks (R200) and its sector is good: it lies at `key` under `gen`. -/
def ElementAt (s : State) (va : Dword) (cb : Nat) (kind : AccKind) (key gen : Nat) : Prop :=
  Passes s ⟨4, cb, va, 0⟩ kind key gen ∧ checkSector s key gen = .good

/-- Positions that take part now (R143). -/
def ActiveNow (s : State) (k : BitVec 3) (j : Nat) : Prop :=
  s.h.vstart ≤ j ∧ j < s.h.vl ∧ (k = 0 ∨ (s.p.k.getD k.toNat 0).testBit j = true)

/-- After a vector memory instruction: VSTART 0 and the next instruction; the pair and memory as the statement says. -/
def VecMemDone (s u : State) : Prop :=
  u = { s with h := u.h, p := u.p, nextId := s.nextId + 1, mem := u.mem, wlog := u.wlog, secGen := u.secGen, poison := u.poison } ∧
  OnlyFlow { s.h with vstart := 0, probeFrom := none } u.h ∧ u.h.pc = s.h.pc + 4 ∧ ∀ a, isPois u a = isPois s a

/-- What the container of an element holds (R236): an iN sign-extended to it, every other tag zero-extended. -/
def containerValue (t : Tag) (c : Nat) : Nat :=
  match t with
  | .int true w => (signed w c % 2 ^ (8 * container t)).toNat
  | _ => c

/-- A register is bound to that stream of the hart alone, its generator active (R243-R245). -/
def BoundAt (s : State) (r : Nat) (g : Fin 8) : Prop :=
  ∀ n : Fin 8, (s.h.g[n].bnd = true ∧ s.h.g[n].act = true ∧ s.h.g[n].breg.toNat = r) ↔ n = g

/-- No stream whose generator is active is bound to a register. -/
def Unbound (s : State) (r : Nat) : Prop :=
  ∀ n : Fin 8, ¬(s.h.g[n].bnd = true ∧ s.h.g[n].act = true ∧ s.h.g[n].breg.toNat = r)

/-- n of R245: min(VL, LEN − POS), 0 when POS ≥ LEN. -/
def chunkOf (s : State) (g : Fin 8) : Nat := min s.h.vl (s.h.g[g].len.toNat - s.h.g[g].pos.toNat)

/-- The address of position i of a chunk, ADDR + (POS + i) × STRD, where STRD 0 means the container (R243, R245). -/
def chunkAt (s : State) (g : Fin 8) (t : Tag) (i : Nat) : Dword :=
  let x := s.h.g[g]
  wrap (x.addr.toNat + (x.pos.toNat + i : Nat) * (if x.strd = 0 then (container t : Int) else x.strd.toInt))

/-- The streams after a chunk: POS of its own is n further. -/
def posAfter (s : State) (g : Fin 8) : Vector Stream 8 :=
  s.h.g.set g.val { s.h.g[g] with pos := BitVec.ofNat 48 (s.h.g[g].pos.toNat + chunkOf s g) }

/-- An instruction that names a bound register may go ahead and is performed at once: a user core, no change pending, an
empty queue, checked mode off, no access of the hart outstanding, VL within VLMAX. -/
def ChunkReady (s : State) : Prop :=
  onUser s = true ∧ s.p.chg = none ∧ s.p.dq = [] ∧ (ctxOf s s.p.ctx).chkctl.toNat % 4 = 0 ∧ Ready s ∧
    (∀ r ∈ s.reqs, r.uid ≠ s.h.uid ∨ r.done = true) ∧ s.h.vl ≤ vlmaxOf s.p ∧ PairShape s.p ∧ Canonical s

/-- The pair with a read chunk in its register (R245): positions from VSTART below n hold the elements at `key`,
positions from n below VL are 0, every other lane is as before. -/
def ChunkLoaded (s : State) (r n : Nat) (key : Nat → Nat) (q : Pair) : Prop :=
  let t := tagOf s.p.tags r
  q = { s.p with v := q.v } ∧ ∀ x j, lane q x j =
    if x = r ∧ s.h.vstart ≤ j ∧ j < n then BitVec.ofNat 16 (bytesValue s (key j) (container t) % 2 ^ tagWidth t)
    else if x = r ∧ n ≤ j ∧ j < s.h.vl then 0 else lane s.p x j

/-- Entries per lane of the window (R240). -/
def windowEntries (p : Pair) : Nat := p.win / 32

/-- The fill of R240. -/
def fillOf (wf : Bool) (wop : Nat) : Word :=
  if wf then (if wop = 0 then 0x80000000 else if wop = 1 then 0x7F800000 else 0xFF800000)
  else (if wop = 0 then 0 else if wop = 1 then 0x7FFFFFFF else 0x80000000)

/-- An entry of a lane's window (R240). -/
def winEntry (p : Pair) (l n : Nat) : Word := SMap.get (fillOf p.wf p.wop) p.window (l * windowEntries p + n)

end Sys2Proof.Spec

/-- R97, R140, R141, R169, R285: SETVL sets VL to the lesser of its operand and VLMAX, VSTART to 0 and rd to VL; SETTL
writes its three grants; with a pre-emption request pending both stop at themselves and write only TPC (log entry 45). -/
def Obligations.SetvlAndSettl : Prop :=
  ∀ (s : State) (d a : BitVec 5), onUser s = true →
    (¬Requested s →
      (let n := if ux s a ≤ vlmax s.p then ux s a else vlmax s.p
       Goes (exec (.setvl d a) s) (ScalarDone 4 d (wrap n) { s with h := { s.h with vl := n, vstart := 0 } })) ∧
      (∀ t, 0 < d.toNat → d.toNat < 30 → 0 < a.toNat → a.toNat < 30 →
        tileTag (ux s (a + 1) / 2 ^ 32 % 64) = some t →
        let m := 32 / s.p.pairs
        let rows := ux s a
        let n := ux s (a + 1) % 2 ^ 32
        let k := ux s (a + 2) % 2 ^ 32
        let none_ : Prop := rows = 0 ∨ n = 0 ∨ k = 0 ∨ s.p.accrows = 0
        ∃ gm gn gk : Nat, (none_ → gm = 0 ∧ gn = 0 ∧ gk = 0) ∧
          (¬none_ → gk = min k (256 * m) ∧ gn = min n (m / ((gk + 255) / 256) * (256 / tagPlanes t)) ∧ gm = min rows s.p.accrows) ∧
          Goes (exec (.settl d a) s) (fun u => OnlyHart s u ∧ u.h.ldst = d ∧ u.h.pc = s.h.pc + 4 ∧
            OnlyFlow { s.h with x := u.h.x, ldst := d } u.h ∧ ∀ r, readX u.h r =
              if r = d then wrap gm else if r = d + 1 then wrap gn else if r = d + 2 then wrap gk else readX s.h r))) ∧
    (Requested s → ∀ i, (i = .setvl d a ∨ i = .settl d a) → i.wf = true →
      exec i s = .next { s with h := { s.h with issue := .halted, tpc := s.h.pc } })

/-- R44, R76, R86, R104, R142: VTAG gives a register a tag that its group can store, changing no storage bit, VSTART
becomes 0, and the instruction is queued, with nothing left to do when the queue reaches it; at a full queue it stalls;
another tag or register raises ILL.  That a register bound to a stream is given its tag as any other, with no ILL and no
advance of the stream, is the model's choice (log entry 54). -/
def Sys2Proof.Spec.VtagRereads : Prop :=
  ∀ (s : State) (d : BitVec 5) (c : BitVec 6), onUser s = true → s.p.chg = none → (Instr.vtag d c).wf = true →
    (∀ t, tagOfCode c.toNat = some t → d.toNat % 8 < s.p.gc.getD (d.toNat / 8) 0 →
      tagWidth t ≤ s.p.gw.getD (d.toNat / 8) 1 → s.h.vl ≤ vlmax s.p →
      (32 ≤ s.p.dq.length → exec (.vtag d c) s = .next { s with h := { s.h with issue := .stalled .queueFull } }) ∧
      (s.p.dq.length < 32 → Goes (exec (.vtag d c) s) (fun u => ∃ e : VEntry,
        e.instr = .vtag d c ∧ e.role = roleOf s.cur ∧ e.id = s.nextId ∧
        NextAfter 4 { s with p := { s.p with tags := s.p.tags.set d.toNat t, dq := s.p.dq ++ [e] },
                             h := { s.h with vstart := 0 }, nextId := s.nextId + 1 } u ∧
        (s.p.dq = [] → Ready s →
          exec (.vectorComplete (pairOf s.cur)) u = .next { u with p := { u.p with dq := [] } })))) ∧
    (∀ t, tagOfCode c.toNat = some t → (s.p.gw.getD (d.toNat / 8) 1 < tagWidth t ∨ s.p.gc.getD (d.toNat / 8) 0 ≤ d.toNat % 8) →
      exec (.vtag d c) s = .next (takeTrap 0x04 0 false (BitVec.ofNat 64 (codeNat (encode (.vtag d c)))) s.h.pc s))

/-- R243, R244: VBIND binds vd to a stream whose generator is active, and to no other; VUNBIND ends vd's binding; both
leave every other part of every stream, whatever VL is (with VL above VLMAX too: the model's choice, log entry 46).
VBIND of an inactive stream raises ILL. -/
def Sys2Proof.Spec.VbindAndVunbind : Prop :=
  ∀ (s : State) (d : BitVec 5) (g : BitVec 3), onUser s = true → s.p.chg = none →
    d.toNat % 8 < s.p.gc.getD (d.toNat / 8) 0 →
    let kept (h : Hart) (n : Fin 8) : Stream := if s.h.g[n].bnd = true ∧ s.h.g[n].breg = d then { h.g[n] with bnd := false } else h.g[n]
    (s.h.g[g.toNat].act = true → Goes (exec (.vbind d g) s) (fun t =>
      NextAfter 4 { s with h := { s.h with g := t.h.g } } t ∧ t.h.g[g.toNat] = { s.h.g[g.toNat] with breg := d, bnd := true } ∧
      ∀ n : Fin 8, n.val ≠ g.toNat → t.h.g[n] = kept s.h n)) ∧
    (s.h.g[g.toNat].act = false → exec (.vbind d g) s =
      .next (takeTrap 0x04 0 false (BitVec.ofNat 64 (codeNat (encode (.vbind d g)))) s.h.pc s)) ∧
    Goes (exec (.vunbind d) s) (fun t =>
      NextAfter 4 { s with h := { s.h with g := t.h.g } } t ∧ ∀ n : Fin 8, t.h.g[n] = kept s.h n)

/-- R105, R107, R140: SETVT stalls its hart until the pair's queue is empty; at the point VTYPE and every tag take their
new values, VL becomes 0, rd takes the new VLMAX; when S changed every vector and mask register is cleared, else the
registers of a group whose width changed.  A group count above 8 raises ILL. -/
def Sys2Proof.Spec.SetvtChangesType : Prop :=
  ∀ (s : State) (d a : BitVec 5) (m : BitVec 3), onUser s = true → s.p.chg = none → Ready s → s.p.dq = [] → m.toNat ≤ 4 →
    PairShape s.p →
    let gw := (List.range 4).map (fun g => ux s a / 2 ^ (8 * g) % 16 + 1)
    let gc := (List.range 4).map (fun g => ux s a / 2 ^ (8 * g + 4) % 16)
    ((∃ c ∈ gc, 8 < c) →
      exec (.setvt d a m) s = .next (takeTrap 0x04 0 false (BitVec.ofNat 64 (codeNat (encode (.setvt d a m)))) s.h.pc s)) ∧
    ((∀ c ∈ gc, c ≤ 8) →
      Goes (exec (.setvt d a m) s) (fun t =>
        t.h = { s.h with issue := .stalled .change } ∧ t = { s with h := t.h, p := { s.p with chg := t.p.chg } } ∧ t.p.chg ≠ none ∧
        Goes (exec (.vtypeChangePoint (pairOf s.cur)) t) (fun u =>
          OnlyX { s.h with vl := 0 } u.h d (wrap (vlmaxFor s.p gw gc s.p.win)) ∧ u.h.pc = s.h.pc + 4 ∧
          u = { s with h := u.h, p := u.p } ∧
          u.p = { s.p with gw := gw, gc := gc, rm := rmOfCode m.toNat, tags := u.p.tags, v := u.p.v, k := u.p.k, kp := u.p.kp } ∧
          (∀ r < 32, u.p.tags.getD r (.flt .f16) = .int true (gw.getD (r / 8) 1)) ∧
          (if (List.zipWith (· * ·) gc gw).sum = (List.zipWith (· * ·) s.p.gc s.p.gw).sum then
            u.p.k = s.p.k ∧ u.p.kp = s.p.kp ∧ ∀ r j, r < 32 → lane u.p r j =
              if gw.getD (r / 8) 1 = s.p.gw.getD (r / 8) 1 then lane s.p r j else 0
           else u.p.kp = 0 ∧ (∀ r, u.p.k.getD r 0 = 0) ∧ ∀ r j, lane u.p r j = 0))))

/-- R107, R113, R240: ACCWIN at its point sets the window's size, type and fill, fills every entry, clears lane
storage when the size changed, and gives VLMAX, whatever VL was (log entry 46); a write of SRSEED at its point reseeds
every lane. -/
def Sys2Proof.Spec.AccwinAndSeedChange : Prop :=
  ∀ (s : State) (d a : BitVec 5), onUser s = true → s.p.chg = none → Ready s → s.p.dq = [] →
    let bits := ux s a % 4096
    let wop := ux s a / 2 ^ 13 % 4
    (bits ≤ 2048 → bits % 32 = 0 → wop ≠ 3 → Goes (exec (.accwin d a) s) (fun t =>
      t.h = { s.h with issue := .stalled .change } ∧
      Goes (exec (.vtypeChangePoint (pairOf s.cur)) t) (fun u =>
        OnlyX { s.h with vl := 0 } u.h d (wrap (vlmaxFor s.p s.p.gw s.p.gc bits)) ∧ u.h.pc = s.h.pc + 4 ∧
        u = { s with h := u.h, p := u.p } ∧ u.p.win = bits ∧ u.p.tags = s.p.tags ∧ u.p.acc = s.p.acc ∧
        (∀ l n, winEntry u.p l n = fillOf ((xr s a).getLsbD 12) wop) ∧
        (bits = s.p.win → u.p.v = s.p.v ∧ u.p.k = s.p.k ∧ u.p.kp = s.p.kp) ∧
        (bits ≠ s.p.win → u.p.kp = 0 ∧ (∀ r, u.p.k.getD r 0 = 0) ∧ ∀ r j, lane u.p r j = 0)))) ∧
    ((2048 < bits ∨ bits % 32 ≠ 0 ∨ wop = 3) → exec (.accwin d a) s =
      .next (takeTrap 0x04 0 false (BitVec.ofNat 64 (codeNat (encode (.accwin d a)))) s.h.pc s)) ∧
    (∀ v : Dword, Goes (exec (.srseedWrite s.cur v) s) (fun t =>
      Goes (exec (.vtypeChangePoint (pairOf s.cur)) t) (fun u =>
        u = { s with p := { s.p with seed := v.extractLsb' 0 32, gens := [] } } ∧
        ∀ j, genState u.p j = (let t := v.extractLsb' 0 32 ^^^ BitVec.ofNat 32 (j * 0x9E3779B9); if t = 0 then 1 else t))))

/-- R200, R236, R237: a vector load whose active elements all pass their checks reads them into vd, little-endian,
cut to vd's width, and changes no other element (a binding whose stream is not active counts as none, log entry 42). -/
def Obligations.VectorLoadsReadElements : Prop :=
  ∀ (s : State) (i : Instr) (d : BitVec 5) (k g : BitVec 3) (idx : Option (BitVec 5)) (va : Nat → Dword) (key gen : Nat → Nat),
    vmemOf s i = some (true, d, k, g, idx, va) → i.wf = true → VecMemReady s → regOk s.p d.toNat = true →
    (∀ b, idx = some b → s.cur % 2 = 0 ∧ regOk s.p b.toNat = true ∧ tagIsInt (tagOf s.p.tags b.toNat) = true) →
    let t := tagOf s.p.tags d.toNat
    (∀ j, ActiveNow s k j → ElementAt s (va j) (container t) .read (key j) (gen j)) →
      Goes (exec i s) (fun m => m.h.issue = .ready ∧
        Goes (exec (.vectorComplete (pairOf s.cur)) m) (fun u =>
          VecMemDone s u ∧ u.mem = s.mem ∧ OnlyLanes s.p u.p d (ActiveNow s k) ∧
          ∀ j, ActiveNow s k j → lane u.p d.toNat j = BitVec.ofNat 16 (bytesValue s (key j) (container t) % 2 ^ tagWidth t)))

/-- R200, R214, R236, R237: a vector store whose active elements all pass their checks writes each element's
container, a later element over an earlier one, and changes no other byte and no register (a binding whose stream is
not active counts as none, log entry 42). -/
def Obligations.VectorStoresWriteElements : Prop :=
  ∀ (s : State) (i : Instr) (d : BitVec 5) (k g : BitVec 3) (idx : Option (BitVec 5)) (va : Nat → Dword) (key gen : Nat → Nat),
    vmemOf s i = some (false, d, k, g, idx, va) → i.wf = true → VecMemReady s → regOk s.p d.toNat = true →
    (∀ b, idx = some b → s.cur % 2 = 0 ∧ regOk s.p b.toNat = true ∧ tagIsInt (tagOf s.p.tags b.toNat) = true) →
    let t := tagOf s.p.tags d.toNat
    (∀ j, ActiveNow s k j → ElementAt s (va j) (container t) .write (key j) (gen j) ∧ InMemory (key j) ∧ domOf (key j) = 0 ∧
      Unseen s (key j)) →
      Goes (exec i s) (fun m => m.h.issue = .ready ∧
        Goes (exec (.vectorComplete (pairOf s.cur)) m) (fun u =>
          VecMemDone s u ∧ u.p = s.p ∧
          (∀ a, (∀ j, ActiveNow s k j → ¬(key j ≤ a ∧ a < key j + container t)) → readByte u a = readByte s a) ∧
          ∀ a j, ActiveNow s k j → key j ≤ a → a < key j + container t →
            (∀ n, j < n → ActiveNow s k n → ¬(key n ≤ a ∧ a < key n + container t)) →
            readByte u a = BitVec.ofNat 8 (containerValue t (elemCode s.p t d.toNat j) / 256 ^ (a - key j))))

/-- R198, R200, R201, R322: a vector load or store, indexed ones included, of whose active elements j is the lowest
that fails traps at j with the cause of its first failing check (misaligned, not translated, not permitted, page not
there, watched): j in VSTART, ELEM set, the address (of a breakpoint the address matched) in TVAL. The active elements
below j commit as if alone; element j, every one above it and every other byte and register stand (of a walk that
meets the armed one-shot this says nothing; a binding whose stream is not active counts as none, log entry 42). -/
def Obligations.VectorProbeTraps : Prop :=
  ∀ (s : State) (i : Instr) (ld : Bool) (d : BitVec 5) (k g : BitVec 3) (idx : Option (BitVec 5)) (va : Nat → Dword)
    (key gen : Nat → Nat) (j cause sub : Nat) (tval : Dword),
    vmemOf s i = some (ld, d, k, g, idx, va) → i.wf = true → VecMemReady s → regOk s.p d.toNat = true → MayTrap s →
    let t := tagOf s.p.tags d.toNat
    let below (n : Nat) : Prop := ActiveNow s k n ∧ n < j
    (∀ b, idx = some b → s.cur % 2 = 0 ∧ regOk s.p b.toNat = true ∧ tagIsInt (tagOf s.p.tags b.toNat) = true) →
    s.hub.arm = false → cause < 0x11 → ActiveNow s k j →
    (∀ n, below n → ElementAt s (va n) (container t) (if ld then .read else .write) (key n) (gen n) ∧
      (ld = false → InMemory (key n) ∧ domOf (key n) = 0 ∧ Unseen s (key n))) →
    FailsCheck s (va j) (container t) ld cause sub tval →
      Goes (exec i s) (fun m => m.h.issue = .stalled (.vecResult s.nextId) ∧
        Goes (exec (.vectorComplete (pairOf s.cur)) m) (fun u =>
          u.h = { trapTaken s cause sub true tval s.h.pc with vstart := j } ∧
          (ld = true → u.mem = s.mem ∧ OnlyLanes s.p u.p d below ∧
            ∀ n, below n → lane u.p d.toNat n = BitVec.ofNat 16 (bytesValue s (key n) (container t) % 2 ^ tagWidth t)) ∧
          (ld = false → u.p = s.p ∧
            (∀ a, (∀ n, below n → ¬(key n ≤ a ∧ a < key n + container t)) → readByte u a = readByte s a) ∧
            ∀ a n, below n → key n ≤ a → a < key n + container t →
              (∀ m, n < m → below m → ¬(key m ≤ a ∧ a < key m + container t)) →
              readByte u a = BitVec.ofNat 8 (containerValue t (elemCode s.p t d.toNat n) / 256 ^ (a - key n)))))

/-- R200, R236, R243, R245: an instruction of the lane array that names, among its sources, one register bound to an
active stream of DIR 0 reads the stream's next chunk into it before it reads it, positions n to VL - 1 becoming 0,
once however often it names it, leaves what `laneOf` says of the pair so filled, and moves POS on by n as it
completes. An element-wise one whose destination is bound to a stream of DIR 1 stores, after it has written it, each
written position below n, and moves POS on. Of a read chunk of which position j fails its check the instruction traps
at j, the positions below done and POS where it was. A bound register named against its stream's direction raises ILL. -/
def Sys2Proof.Spec.BoundRegistersMoveChunks : Prop :=
  ∀ (s : State) (i : Instr) (f : VForm) (g : Fin 8) (key gen : Nat → Nat), laneForm s i = some f → i.wf = true →
    (∀ r, onUser s = true → s.p.chg = none → BoundAt s r g →
      (r ∈ f.srcs ∧ s.h.g[g].dir = true ∨ f.dest = some r ∧ s.h.g[g].dir = false) →
      exec i s = .next (takeTrap 0x04 0 false (BitVec.ofNat 64 (codeNat (encode i))) s.h.pc s)) ∧
    (∀ r, ChunkReady s → formOk s f = true → f.hold = false → (f.whole = true → s.h.vstart = 0) →
      r ∈ f.srcs → BoundAt s r g → s.h.g[g].dir = false →
      (∀ x, (x ∈ f.srcs ∨ f.dest = some x) → x ≠ r → Unbound s x) → f.dest ≠ some r →
      let t := tagOf s.p.tags r
      (∀ j, s.h.vstart ≤ j → j < chunkOf s g → ElementAt s (chunkAt s g t j) (container t) .read (key j) (gen j)) →
      Goes (exec i s) (fun m => ∃ (e : VEntry) (q : Pair), m.p.dq = [e] ∧
        e = { laneEntry s i f with strms := e.strms, binds := e.binds } ∧ ChunkLoaded s r (chunkOf s g) key q ∧
        let w := laneOf i { taggedPair s f with v := q.v, dq := [] } e
        Goes (exec (.vectorComplete (pairOf s.cur)) m) (fun u =>
          u = { s with h := u.h, p := w.p, nextId := s.nextId + 1 } ∧ (∀ a, readByte u a = readByte s a) ∧
          OnlyFlow { s.h with vstart := 0, probeFrom := none, fpst := s.h.fpst ||| w.fl, g := posAfter s g } u.h ∧
          u.h.pc = s.h.pc + 4))) ∧
    (∀ op d a src k b, arithOf i = some (op, d, a, src, k, b) → ChunkReady s → s.p.kp = 0 → formOk s f = true →
      BoundAt s d.toNat g → s.h.g[g].dir = true → (∀ x ∈ f.srcs, Unbound s x) →
      let t := f.dtag.getD (tagOf s.p.tags d.toNat)
      let out (j : Nat) : Prop := j < chunkOf s g ∧ (ActiveNow s k j ∨ (op = .sel ∧ s.h.vstart ≤ j ∧ j < s.h.vl))
      (∀ j, out j → ElementAt s (chunkAt s g t j) (container t) .write (key j) (gen j) ∧ InMemory (key j) ∧
        domOf (key j) = 0 ∧ Unseen s (key j)) →
      Goes (exec i s) (fun m => ∃ e : VEntry, m.p.dq = [e] ∧
        e = { laneEntry s i f with strms := e.strms, binds := e.binds } ∧
        let w := laneOf i { taggedPair s f with dq := [] } e
        Goes (exec (.vectorComplete (pairOf s.cur)) m) (fun u =>
          u = { s with h := u.h, p := w.p, nextId := s.nextId + 1, mem := u.mem, wlog := u.wlog, secGen := u.secGen,
                       poison := u.poison } ∧ (∀ x, isPois u x = isPois s x) ∧
          OnlyFlow { s.h with vstart := 0, probeFrom := none, fpst := s.h.fpst ||| w.fl, g := posAfter s g } u.h ∧
          u.h.pc = s.h.pc + 4 ∧
          (∀ x, (∀ j, out j → ¬(key j ≤ x ∧ x < key j + container t)) → readByte u x = readByte s x) ∧
          ∀ x j, out j → key j ≤ x → x < key j + container t →
            (∀ n, j < n → out n → ¬(key n ≤ x ∧ x < key n + container t)) →
            readByte u x = BitVec.ofNat 8 (containerValue t (elemCode w.p t d.toNat j) / 256 ^ (x - key j))))) ∧
    (∀ op d a src k b j cause sub tval, arithOf i = some (op, d, a, src, k, b) → ChunkReady s → formOk s f = true →
      BoundAt s a.toNat g → s.h.g[g].dir = false → d ≠ a →
      (∀ x, (x ∈ f.srcs ∨ f.dest = some x) → x ≠ a.toNat → Unbound s x) → MayTrap s → s.hub.arm = false → cause < 0x11 →
      s.h.vstart ≤ j → j < chunkOf s g →
      let t := tagOf s.p.tags a.toNat
      (∀ n, s.h.vstart ≤ n → n < j → ElementAt s (chunkAt s g t n) (container t) .read (key n) (gen n)) →
      FailsCheck s (chunkAt s g t j) (container t) true cause sub tval →
      Goes (exec i s) (fun m => m.h.issue = .stalled (.vecResult s.nextId) ∧
        Goes (exec (.vectorComplete (pairOf s.cur)) m) (fun u =>
          u.h = { trapTaken s cause sub true tval s.h.pc with vstart := j, fpst := u.h.fpst } ∧ u.mem = s.mem ∧
          (∀ n, s.h.vstart ≤ n → n < j →
            lane u.p a.toNat n = BitVec.ofNat 16 (bytesValue s (key n) (container t) % 2 ^ tagWidth t)) ∧
          ∀ x n, (x ≠ d.toNat ∧ x ≠ a.toNat ∨ j ≤ n ∨ n < s.h.vstart) → lane u.p x n = lane s.p x n)))

/-- R82, R238: VLDW, every window element passing, loads the window into vd + 1 and serves each index below VL from
it; kd marks the positions outstanding, whose elements stand (a binding whose stream is not active counts as none, log
entry 42). -/
def Sys2Proof.Spec.VldwServesFromWindow : Prop :=
  ∀ (s : State) (d a b : BitVec 5) (g : BitVec 3) (q : BitVec 2) (k : BitVec 3) (key gen : Nat → Nat),
    (Instr.vldw d a b g q k).wf = true → VecMemReady s → s.h.vstart = 0 → s.cur % 2 = 0 → d.toNat < 31 →
    regOk s.p d.toNat = true → regOk s.p (d.toNat + 1) = true → regOk s.p b.toNat = true →
    tagIsInt (tagOf s.p.tags b.toNat) = true → tagOf s.p.tags (d.toNat + 1) = tagOf s.p.tags d.toNat →
    let t := tagOf s.p.tags d.toNat
    tagWidth t ≤ 16 →
    (∀ j < s.h.vl, ElementAt s (wrap (ux s a + j * container t)) (container t) .read (key j) (gen j)) →
    let word (j : Nat) : Nat := bytesValue s (key j) (container t) % 2 ^ tagWidth t
    let x (j : Nat) : Int := elemInt s.p (tagOf s.p.tags b.toNat) b.toNat j
    Goes (exec (.vldw d a b g q k) s) (fun m => Goes (exec (.vectorComplete (pairOf s.cur)) m) (fun u =>
      VecMemDone s u ∧ u.mem = s.mem ∧ u.p = { s.p with v := u.p.v, k := u.p.k } ∧
      (∀ j < s.h.vl, (lane u.p (d.toNat + 1) j).toNat = word j) ∧
      (∀ j < s.h.vl, if 0 ≤ x j ∧ x j < s.h.vl then (lane u.p d.toNat j).toNat = word (x j).toNat else lane u.p d.toNat j = lane s.p d.toNat j) ∧
      (∀ r j, (s.h.vl ≤ j ∨ (r ≠ d.toNat ∧ r ≠ d.toNat + 1)) → lane u.p r j = lane s.p r j) ∧
      ∀ r j, (u.p.k.getD r 0).testBit j =
        if r = k.toNat ∧ j < s.h.vl then !decide (0 ≤ x j ∧ x j < s.h.vl) else (s.p.k.getD r 0).testBit j))

/-- R83, R239: VSCAT on an integer tag, with every target good and no two alike, makes each container its old value
with the operation applied, narrowed, and changes no other byte and no register; FPST stands (a binding whose stream
is not active counts as none, log entry 42). -/
def Sys2Proof.Spec.VscatUpdatesTargets : Prop :=
  ∀ (s : State) (d a b : BitVec 5) (g k : BitVec 3) (o : BitVec 2) (sg : Bool) (w : Nat) (key gen : Nat → Nat),
    (Instr.vscat d a b g k o).wf = true → VecMemReady s → s.cur % 2 = 0 → o.toNat < 3 →
    regOk s.p d.toNat = true → regOk s.p b.toNat = true → tagIsInt (tagOf s.p.tags b.toNat) = true →
    tagOf s.p.tags d.toNat = .int sg w → 0 < w → w ≤ 16 →
    let t : Tag := .int sg w
    (∀ j, ActiveNow s k j → ElementAt s (wrap (ux s a + elemInt s.p (tagOf s.p.tags b.toNat) b.toNat j * container t))
      (container t) .rmw (key j) (gen j) ∧ InMemory (key j) ∧ domOf (key j) = 0 ∧ Unseen s (key j)) →
    (∀ j n, ActiveNow s k j → ActiveNow s k n → j ≠ n → key j + container t ≤ key n ∨ key n + container t ≤ key j) →
    (∀ j n, ActiveNow s k j → ActiveNow s k n → sectorOf (key j) = sectorOf (key n) → gen j = gen n) →
      Goes (exec (.vscat d a b g k o) s) (fun m => Goes (exec (.vectorComplete (pairOf s.cur)) m) (fun u =>
        VecMemDone s u ∧ u.p = s.p ∧
        (∀ a, (∀ j, ActiveNow s k j → ¬(key j ≤ a ∧ a < key j + container t)) → readByte u a = readByte s a) ∧
        ∀ j, ActiveNow s k j →
          let old := valueOf t (bytesValue s (key j) (container t) % 2 ^ w)
          let x := valueOf t (elemCode s.p t d.toNat j)
          bytesValue u (key j) (container t) = containerValue t (codeOf t
            (if o = 0 then old + x else if o = 1 then min old x else max old x))))

/-- R241: VACC on an integer window applies each element, in order, to its entry of its lane; an index out of range
raises ACCESS with that element in VSTART and the index in TVAL, the elements below it applied (a binding whose stream
is not active counts as none, log entry 42). -/
def Sys2Proof.Spec.VaccAccumulates : Prop :=
  ∀ (s : State) (d a : BitVec 5) (o : BitVec 2) (sa sd : Bool) (wa wd : Nat), (Instr.vacc d a o).wf = true →
    VecIdle s → s.p.kp = 0 → s.h.vl ≤ vlmaxOf s.p → PairShape s.p → 0 < windowEntries s.p → s.p.wf = false →
    regOk s.p d.toNat = true → regOk s.p a.toNat = true → tagOf s.p.tags a.toNat = .int sa wa →
    tagOf s.p.tags d.toNat = .int sd wd → MayTrap s → s.p.pairs ≠ 0 →
    let x (j : Nat) : Int := elemInt s.p (.int sa wa) a.toNat j
    let y (j : Nat) : Int := elemInt s.p (.int sd wd) d.toNat j
    let bad (j : Nat) : Prop := x j < 0 ∨ (windowEntries s.p : Int) ≤ x j
    ∀ lim, (lim = s.h.vl ∨ (s.h.vstart ≤ lim ∧ lim < s.h.vl ∧ bad lim)) → (∀ j, s.h.vstart ≤ j → j < lim → ¬bad j) →
      Goes (exec (.vacc d a o) s) (fun m => Goes (exec (.vectorComplete (pairOf s.cur)) m) (fun u =>
        u = { s with h := u.h, p := { s.p with window := u.p.window }, nextId := s.nextId + 1 } ∧
        (∀ l n, n < windowEntries s.p → l < lanes s.p →
          let mine := (List.range lim).filter (fun j => decide (s.h.vstart ≤ j) && j % lanes s.p == l && decide (x j = n))
          (winEntry u.p l n).toInt = mine.foldl (fun c j =>
            (BitVec.ofInt 32 (if o = 0 then c + y j else if o = 1 then min c (y j) else max c (y j))).toInt)
            (winEntry s.p l n).toInt) ∧
        (lim = s.h.vl → OnlyFlow { s.h with vstart := 0, probeFrom := none } u.h ∧ u.h.pc = s.h.pc + 4) ∧
        (lim ≠ s.h.vl → u.h = { trapTaken s 0x06 0 true (wrap (x lim)) s.h.pc with vstart := lim })))

/-- R240, R242: WMERGE.ADD of an integer window adds to each memory word the sum of its entry over the lanes,
wrapping, and fills the entry again; every other byte and register stands (a binding whose stream is not active counts
as none, log entry 42). -/
def Sys2Proof.Spec.WmergeAddsWindow : Prop :=
  ∀ (s : State) (a : BitVec 5) (g : BitVec 3) (q : BitVec 2) (key gen : Nat → Nat), (Instr.wmerge a g q 0).wf = true →
    VecMemReady s → s.h.vstart = 0 → s.p.wf = false → s.p.pairs ≠ 0 → s.p.pairs ≤ 8 →
    (∀ n < windowEntries s.p, ElementAt s (wrap (ux s a + 4 * n)) 4 .rmw (key n) (gen n) ∧ InMemory (key n) ∧ domOf (key n) = 0 ∧
      Unseen s (key n)) →
    (∀ m n, m < n → n < windowEntries s.p → key m + 4 ≤ key n ∨ key n + 4 ≤ key m) →
    (∀ m n, m < windowEntries s.p → n < windowEntries s.p → sectorOf (key m) = sectorOf (key n) → gen m = gen n) →
      Goes (exec (.wmerge a g q 0) s) (fun m => Goes (exec (.vectorComplete (pairOf s.cur)) m) (fun u =>
        VecMemDone s u ∧ u.p = { s.p with window := u.p.window } ∧
        (∀ b, (∀ n < windowEntries s.p, ¬(key n ≤ b ∧ b < key n + 4)) → readByte u b = readByte s b) ∧
        ∀ n < windowEntries s.p,
          bytesValue u (key n) 4 = (BitVec.ofInt 32 ((bytesValue s (key n) 4 : Int) +
            ((List.range (lanes s.p)).map (fun l => (winEntry s.p l n).toInt)).sum)).toNat ∧
          ∀ l < lanes s.p, winEntry u.p l n = fillOf false s.p.wop))

namespace Sys2Proof.Spec

/-! ## Trees, shares, accumulator reads, MX and float windows (spec/04_results_formats.md, 06, 07, 10) -/

/-- One stage of R116: neighbours combine, the lower position on the left; an odd last value passes. -/
def pairUp {α : Type} (op : α → α → α) : List α → List α
  | x :: y :: l => op x y :: pairUp op l
  | l => l

/-- tree_reduce of R116, in at most `n` stages. -/
def tree {α : Type} (op : α → α → α) : Nat → List α → Option α
  | 0, l => l.head?
  | _ + 1, [] => none
  | _ + 1, [x] => some x
  | n + 1, x :: y :: l => tree op n (pairUp op (x :: y :: l))

/-- One integer operation of a reduction on values of a tag (R80, R117). -/
def intOp (o : BitVec 3) (t : Tag) (x y : Int) : Int :=
  match o.toNat with
  | 0 => x + y
  | 1 => min x y
  | 2 => max x y
  | 3 => valueOf t (codeOf t x &&& codeOf t y)
  | 4 => valueOf t (codeOf t x ||| codeOf t y)
  | _ => valueOf t (codeOf t x ^^^ codeOf t y)

/-- Its identity (R116). -/
def intUnit (o : BitVec 3) (t : Tag) : Int :=
  let w := tagWidth t
  match o.toNat, t with
  | 1, .int true _ => 2 ^ (w - 1) - 1
  | 1, _ => 2 ^ w - 1
  | 2, .int true _ => -2 ^ (w - 1)
  | 3, t => valueOf t (2 ^ w - 1)
  | _, _ => 0

/-- The identity on a float tag (R116): −0 for add, +∞ for min, −∞ for max. -/
def fltUnit (o : BitVec 3) (f : FFmt) : Nat :=
  if o = 1 then fmtInfCode f else if o = 2 then withSign f true (fmtInfCode f) else fmtSignBit f

/-- A segment starts at a position (R161): at 0, and where the boundary mask is set. -/
def startsAt (p : Pair) (kb : Option (BitVec 3)) (j : Nat) : Bool :=
  j == 0 || (match kb with
    | some b => (p.k.getD b.toNat 0).testBit j
    | none => false)

/-- The ranges that a VRED or VSCAN combines, in the order of its results (R161): the segments, or from the start of its
segment to each position. -/
def redRanges (p : Pair) (kb : Option (BitVec 3)) (vl : Nat) (scan : Bool) : List (Nat × Nat) :=
  if scan then (List.range vl).map (fun j => (((List.range (j + 1)).filter (startsAt p kb)).getLastD 0, j))
  else
    let st := (List.range vl).filter (startsAt p kb)
    st.mapIdx (fun n lo => (lo, st.getD (n + 1) vl - 1))

/-- What a function gives for the positions from lo to hi. -/
def between {α : Type} (lo hi : Nat) (x : Nat → α) : List α := (List.range (hi + 1 - lo)).map (fun j => x (lo + j))

/-- floor(x × 2^t + 1/2) (R178). -/
def halfUp (x t : Int) : Int :=
  if 0 ≤ t then x * 2 ^ t.toNat else (2 * x + 2 ^ (-t).toNat) / 2 ^ ((-t).toNat + 1)

/-- A position takes part under a mask field (R143, R166). -/
def Kept (p : Pair) (k : BitVec 3) (j : Nat) : Prop := k = 0 ∨ (p.k.getD k.toNat 0).testBit j = true

/-- A word of an accumulator row. -/
def accWord (p : Pair) (r : BitVec 5) (n : Nat) : Word := SMap.get 0 (p.acc.getD r.toNat {}).w n

/-- The activation code that a matrix product takes for tile row r (R180, R181): position r of vs1, or of a compressed
tile the r-th position its mask keeps. -/
def routed (p : Pair) (e : VEntry) (i : Instr) (a : BitVec 5) (r : Nat) : Option Nat :=
  let c := elemCode p (tagOf e.tags a.toNat) a.toNat
  match i with
  | .mmrow _ _ _ _ => some (c r)
  | .mmrows _ _ m _ _ => (((List.range e.vl).filter (p.k.getD m.toNat 0).testBit)[r]?).map c
  | _ => none

/-- The scale of block b of the pair's scale set (R168). -/
def scaleAt (p : Pair) (b : Nat) : Nat := SMap.get 127 p.scale b

/-- The positions of block b below VL (R172). -/
def InBlock (vl b j : Nat) : Prop := 32 * b ≤ j ∧ j < 32 * b + 32 ∧ j < vl

end Sys2Proof.Spec

/-- R116, R117, R161: VRED and VSCAN, segmented or not, with every operation: each result is the tree of R116 over its
range, masked-off positions taking the identity; on integer tags narrowed into vd's tag with no flag, on a float tag,
for add, min and max, each stage rounded, in a mode that does not draw. -/
def Sys2Proof.Spec.LaneReductions : Prop :=
  ∀ (p : Pair) (e : VEntry) (i : Instr) (o : BitVec 3) (d a : BitVec 5) (k : BitVec 3) (kb : Option (BitVec 3)) (scan : Bool),
    reduceOf i = some (o, d, a, k, kb, scan) → PairShape p → (∀ j < e.vl, p.kp.testBit j = false) →
      let r := laneOf i p e
      let l := redRanges p kb e.vl scan
      (∀ sd wd sa wa, tagOf e.tags d.toNat = .int sd wd → tagOf e.tags a.toNat = .int sa wa → 0 < wd → wd ≤ 16 → 0 < wa →
        OnlyLanes p r.p d (fun j => j < l.length) ∧ r.fl = 0 ∧
        ∀ n lo hi v, l[n]? = some (lo, hi) →
          tree (intOp o (.int sa wa)) (hi + 1 - lo) (between lo hi (fun j =>
            if k = 0 ∨ (p.k.getD k.toNat 0).testBit j = true then valueOf (.int sa wa) (elemCode p (.int sa wa) a.toNat j)
            else intUnit o (.int sa wa))) = some v →
          (lane r.p d.toNat n).toNat = codeOf (.int sd wd) v) ∧
      (∀ f, tagOf e.tags a.toNat = .flt f → f ≠ .f32 → o.toNat ≤ 2 → e.rm ≠ .sr →
        OnlyLanes p r.p d (fun j => j < l.length) ∧
        ∀ n lo hi v, l[n]? = some (lo, hi) →
          tree (fun x y => (fltStage (redOf o) f e.rm 0 x y).1) (hi + 1 - lo) (between lo hi (fun j =>
            if k = 0 ∨ (p.k.getD k.toNat 0).testBit j = true then elemCode p (.flt f) a.toNat j else fltUnit o f)) = some v →
          (lane r.p d.toNat n).toNat = v % 2 ^ fmtWidth f)

/-- R164: VSPLIT writes at each active fibre its share: the weight before it times the number of shares over the whole
weight, rounded down, 0 where either is 0; a fibre weighs at least 1, a masked-off one nothing. -/
def Sys2Proof.Spec.LaneShares : Prop :=
  ∀ (p : Pair) (e : VEntry) (d a b : BitVec 5) (k : BitVec 3) (sd sa : Bool) (wd wa : Nat), PairShape p →
    (∀ j < e.vl, p.kp.testBit j = false) → tagOf e.tags d.toNat = .int sd wd → tagOf e.tags a.toNat = .int sa wa →
    0 < wd → wd ≤ 16 → 0 < wa →
      let weight (j : Nat) : Nat :=
        if k = 0 ∨ (p.k.getD k.toNat 0).testBit j = true then
          max 1 (valueOf (.int sa wa) (elemCode p (.int sa wa) a.toNat j)).toNat else 0
      let before (j : Nat) : Nat := ((List.range j).map weight).sum
      let q := (laneOf (.vsplit d a b k) p e).p
      OnlyLanes p q d (fun j => j < e.vl ∧ Kept p k j) ∧
      ∀ j < e.vl, Kept p k j → (lane q d.toNat j).toNat = codeOf (.int sd wd)
        (if e.b.toNat = 0 ∨ before e.vl = 0 then 0 else (before j * e.b.toNat / before e.vl : Nat))

/-- R119, R153: a compare on a float tag writes the truth of its relation into kd at each active position and ORs the
flags of the positions that are not poisoned; nothing else changes. -/
def Sys2Proof.Spec.LaneFloatCompares : Prop :=
  ∀ (p : Pair) (e : VEntry) (i : Instr) (c : Cmp) (d : BitVec 3) (a : BitVec 5) (src : Src) (k : BitVec 3) (b : BitVec 5)
    (f : FFmt), compareOf i = some (c, d, a, src, k, b) → PairShape p → tagOf e.tags a.toNat = .flt f →
    srcTag e.tags a.toNat src = .flt f →
      let r := laneOf i p e
      let val (j : Nat) : Bool × Flags := cmpF c (decodeF f (elemCode p (.flt f) a.toNat j)) (decodeF f (srcCode p e a.toNat j src))
      r.p = { p with k := r.p.k } ∧
      (∀ n j, (r.p.k.getD n 0).testBit j = true ↔
        if n = d.toNat ∧ e.vstart ≤ j ∧ j < e.vl ∧ (k = 0 ∨ (p.k.getD k.toNat 0).testBit j = true) then (val j).1 = true
        else (p.k.getD n 0).testBit j = true) ∧
      ∀ n : Nat, n < 5 → (r.fl.getLsbD n = true ↔ ∃ j, Active p e k j ∧ p.kp.testBit j = false ∧ (val j).2.getLsbD n = true)

/-- R175, R178: ACCRD writes at each selected word's position the word times 2^T: an integer row into an integer tag
half up, wrapped or with SATI saturated, with no flag; a float row, or into a float tag, converted in a mode that does
not draw; kp takes the word's poison; the row stands. -/
def Sys2Proof.Spec.LaneAccumulatorReads : Prop :=
  ∀ (p : Pair) (e : VEntry) (d a b : BitVec 5) (k : BitVec 3), PairShape p →
    let row := p.acc.getD a.toNat {}
    let t : Int := signed 6 (e.b.toNat % 64)
    let on (n : Nat) : Prop := n < e.vl ∧ n < lanesOf p ∧ Kept p k n
    let r := laneOf (.accrd d a b k) p e
    let only : Prop := r.p = { p with v := r.p.v, kp := r.p.kp } ∧
      (∀ c n, (c ≠ d.toNat ∨ ¬on n) → lane r.p c n = lane p c n) ∧
      ∀ n, r.p.kp.testBit n = true ↔ p.kp.testBit n = true ∨ (on n ∧ row.pois.testBit n = true)
    (∀ sg w, tagOf e.tags d.toNat = .int sg w → 0 < w → w ≤ 16 → row.f32 = false → only ∧ r.fl = 0 ∧
      ∀ n, on n → (lane r.p d.toNat n).toNat =
        if e.b.getLsbD 6 then clampCode (.int sg w) (halfUp (accWord p a n).toInt t)
        else codeOf (.int sg w) (halfUp (accWord p a n).toInt t)) ∧
    (∀ sg w, e.rm ≠ .sr → tagOf e.tags d.toNat = .int sg w → 0 < w → w ≤ 16 → row.f32 = true → only ∧
      ∀ n, on n → (lane r.p d.toNat n).toNat =
        (toIntCode sg w e.rm 0 (scaleVal (decodeF .f32 (accWord p a n).toNat) t)).1 % 2 ^ w) ∧
    (∀ f, e.rm ≠ .sr → tagOf e.tags d.toNat = .flt f → f ≠ .f32 → only ∧
      ∀ n, on n → (lane r.p d.toNat n).toNat = (toFloatCode f false e.rm 0 (scaleVal
        (if row.f32 then decodeF .f32 (accWord p a n).toNat else intVal (accWord p a n).toInt) t)).1 % 2 ^ fmtWidth f)

/-- R180, R181: MMROWS on an integer tile adds to each selected word of its row the exact sum of products of the
routed activations and the column, wrapped or with SAT saturated; MMROW and MMROWS on an MX tile add, in f32 and to
nearest even, the ESU's fold of the blocks' sums under their scales; the row's tag follows the tile, and no other word
changes. -/
def Sys2Proof.Spec.LaneMatrixRows : Prop :=
  ∀ (p : Pair) (e : VEntry) (i : Instr) (d a : BitVec 5) (k : BitVec 3) (sat : BitVec 1), PairShape p → p.kp = 0 →
    (i = .mmrow d a sat k ∨ ∃ m, i = .mmrows d a m sat k) → p.tile.colpois = 0 → (p.acc.getD d.toNat {}).pois = 0 →
      let q := (laneOf i p e).p
      let on (n : Nat) : Prop := n < p.tile.nt ∧ Kept p k n
      let wgt (n r : Nat) : Int := SMap.get 0 p.tile.w (n * p.tile.kt + r)
      let only : Prop := q = { p with acc := q.acc } ∧ (∀ r n, (r ≠ d ∨ ¬on n) → accWord q r n = accWord p r n)
      (∀ sg st w wt, p.tile.tag = .int st wt → tagOf e.tags a.toNat = .int sg w → 0 < w → only ∧
        (q.acc.getD d.toNat {}).f32 = false ∧
        ∀ n, on n →
          let sum := ((List.range p.tile.kt).map (fun r =>
            (match routed p e i a r with | some c => valueOf (.int sg w) c | none => 0) * wgt n r)).sum
          accWord q d n = BitVec.ofInt 32 (if sat = 1 then max (-2 ^ 31) (min ((accWord p d n).toInt + sum) (2 ^ 31 - 1))
            else (accWord p d n).toInt + sum)) ∧
      (∀ ma mb, p.tile.tag = .mx mb → tagOf e.tags a.toNat = .mx ma → p.scalePois = 0 → only ∧
        (q.acc.getD d.toNat {}).f32 = true ∧
        ∀ n, on n →
          let view (r : Nat) : Int := (match routed p e i a r with | some c => kview (.mx ma) c | none => 0) * wgt n r
          let nb := (p.tile.kt + 31) / 32
          let sb (b : Nat) : Nat := SMap.get 0 p.tile.sb (n * nb + b)
          let s := (esuFold ((List.range nb).map (fun b =>
            ((between (32 * b) (min (32 * b + 32) p.tile.kt - 1) view).sum,
              ((scaleAt p b : Int) - 127) + ((sb b : Int) - 127) + mxExp ma + mxExp mb,
              scaleAt p b == 255 || sb b == 255)))).1
          accWord q d n = BitVec.ofNat 32
            (finish .f32 .rne 0 (addExact .rne (decodeF .f32 (accWord p d n).toNat) (decodeF .f32 s))).1)

/-- R172-R174: MXQ quantises each block of 32 positions at the scale of its largest magnitude, 0xFF and zeros where it
holds a NaN or an infinity; MXS loads the scale set; MXD writes each element times its block's scale, a quiet NaN for
0xFF, or exports the scales; all in a mode that does not draw, with nothing poisoned; nothing else changes. -/
def Sys2Proof.Spec.LaneMxConversions : Prop :=
  ∀ (p : Pair) (e : VEntry) (d a : BitVec 5), PairShape p → SMap.wf 127 p.scale = true → p.kp = 0 → p.scalePois = 0 →
    let blocks := (e.vl + 31) / 32
    ((laneOf (.mxs a) p e).p = { p with scale := (laneOf (.mxs a) p e).p.scale, scalePois := 0 } ∧
      ∀ b, scaleAt (laneOf (.mxs a) p e).p b = if b < blocks then elemCode p (.int false 8) a.toNat b else scaleAt p b) ∧
    (∀ f m, tagOf e.tags a.toNat = .flt f → tagOf e.tags d.toNat = .mx m → e.rm ≠ .sr →
      let q := (laneOf (.mxq d a) p e).p
      let val (j : Nat) : FVal := decodeF f (elemCode p (.flt f) a.toNat j)
      q = { p with v := q.v, scale := q.scale, scalePois := 0 } ∧
      (∀ r j, (r ≠ d.toNat ∨ e.vl ≤ j) → lane q r j = lane p r j) ∧ (∀ b, blocks ≤ b → scaleAt q b = scaleAt p b) ∧
      ∀ b < blocks,
        ((∃ j, InBlock e.vl b j ∧ isSpecial (val j) = true) →
          scaleAt q b = 255 ∧ ∀ j, InBlock e.vl b j → lane q d.toNat j = 0) ∧
        ((∀ j, InBlock e.vl b j → isSpecial (val j) = false) → ∃ i, InBlock e.vl b i ∧
          (∀ j, InBlock e.vl b j → fracLt (absFrac (val i)) (absFrac (val j)) = false) ∧
          let s : Nat := if (absFrac (val i)).num = 0 then 0
            else (min (max (fracLog2 (absFrac (val i)) - mxEmax m + 127) 0) 254).toNat
          scaleAt q b = s ∧
          ∀ j, InBlock e.vl b j → (lane q d.toNat j).toNat = (mxqElem m e.rm 0 s (val j)).1 % 2 ^ tagWidth (.mx m))) ∧
    (∀ f m, tagOf e.tags d.toNat = .flt f → f ≠ .f32 → tagOf e.tags a.toNat = .mx m → e.rm ≠ .sr →
      OnlyLanes p (laneOf (.mxd d a) p e).p d (fun j => j < e.vl) ∧
      ∀ j < e.vl, (lane (laneOf (.mxd d a) p e).p d.toNat j).toNat =
        (if scaleAt p (j / 32) = 255 then fmtQNaN f
         else (toFloatCode f false e.rm 0
          (scaleVal (mxValue m (elemCode p (.mx m) a.toNat j)) ((scaleAt p (j / 32) : Int) - 127))).1) % 2 ^ fmtWidth f) ∧
    (tagOf e.tags d.toNat = .int false 8 →
      OnlyLanes p (laneOf (.mxd d a) p e).p d (fun b => b < blocks) ∧
      ∀ b < blocks, (lane (laneOf (.mxd d a) p e).p d.toNat b).toNat = scaleAt p b % 256)

/-- R239: VSCAT on a float tag, with every target good and no two alike, makes each container its old value with the
operation applied in round to nearest even; no other byte, no register and not FPST changes (a binding whose stream is
not active counts as none, log entry 42). -/
def Sys2Proof.Spec.VscatUpdatesFloatTargets : Prop :=
  ∀ (s : State) (d a b : BitVec 5) (g k : BitVec 3) (o : BitVec 2) (f : FFmt) (key gen : Nat → Nat),
    (Instr.vscat d a b g k o).wf = true → VecMemReady s → s.cur % 2 = 0 → o.toNat < 3 →
    regOk s.p d.toNat = true → regOk s.p b.toNat = true → tagIsInt (tagOf s.p.tags b.toNat) = true →
    tagOf s.p.tags d.toNat = .flt f → f ≠ .f32 →
    let t : Tag := .flt f
    (∀ j, ActiveNow s k j → ElementAt s (wrap (ux s a + elemInt s.p (tagOf s.p.tags b.toNat) b.toNat j * container t))
      (container t) .rmw (key j) (gen j) ∧ InMemory (key j) ∧ domOf (key j) = 0 ∧ Unseen s (key j)) →
    (∀ j n, ActiveNow s k j → ActiveNow s k n → j ≠ n → key j + container t ≤ key n ∨ key n + container t ≤ key j) →
    (∀ j n, ActiveNow s k j → ActiveNow s k n → sectorOf (key j) = sectorOf (key n) → gen j = gen n) →
      Goes (exec (.vscat d a b g k o) s) (fun m => Goes (exec (.vectorComplete (pairOf s.cur)) m) (fun u =>
        VecMemDone s u ∧ u.p = s.p ∧
        (∀ a, (∀ j, ActiveNow s k j → ¬(key j ≤ a ∧ a < key j + container t)) → readByte u a = readByte s a) ∧
        ∀ j, ActiveNow s k j → bytesValue u (key j) (container t) =
          (fltStage (winOp o) f .rne 0 (bytesValue s (key j) (container t) % 2 ^ fmtWidth f)
            (elemCode s.p t d.toNat j)).1 % 256 ^ container t))

/-- R241: VACC on a float window, every index in range, applies each element, made f32, in order to its entry of its
lane in round to nearest even; FPST alone may take flags (a binding whose stream is not active counts as none, log
entry 42). -/
def Sys2Proof.Spec.VaccAccumulatesFloats : Prop :=
  ∀ (s : State) (d a : BitVec 5) (o : BitVec 2) (sa : Bool) (wa : Nat) (f : FFmt), (Instr.vacc d a o).wf = true →
    VecIdle s → s.p.kp = 0 → s.h.vl ≤ vlmaxOf s.p → PairShape s.p → 0 < windowEntries s.p → s.p.wf = true →
    regOk s.p d.toNat = true → regOk s.p a.toNat = true → tagOf s.p.tags a.toNat = .int sa wa →
    tagOf s.p.tags d.toNat = .flt f → s.p.pairs ≠ 0 →
    let x (j : Nat) : Int := elemInt s.p (.int sa wa) a.toNat j
    (∀ j, s.h.vstart ≤ j → j < s.h.vl → 0 ≤ x j ∧ x j < windowEntries s.p) →
      Goes (exec (.vacc d a o) s) (fun m => Goes (exec (.vectorComplete (pairOf s.cur)) m) (fun u =>
        u = { s with h := u.h, p := { s.p with window := u.p.window }, nextId := s.nextId + 1 } ∧
        (∀ l n, n < windowEntries s.p → l < lanes s.p →
          let mine := (List.range s.h.vl).filter (fun j => decide (s.h.vstart ≤ j) && j % lanes s.p == l && decide (x j = n))
          winEntry u.p l n = mine.foldl (fun c j =>
            BitVec.ofNat 32 (fltStage (winOp o) .f32 .rne 0 c.toNat (vaccCode (.flt f) (elemCode s.p (.flt f) d.toNat j))).1)
            (winEntry s.p l n)) ∧
        OnlyFlow { s.h with vstart := 0, probeFrom := none, fpst := u.h.fpst } u.h ∧ u.h.pc = s.h.pc + 4))

/-- R240, R242: WMERGE of every operation: each memory word takes the operation with the entry's values of all lanes,
of an integer window exactly and wrapped, of a float window by the tree of R116 over the lanes and then the word, in
round to nearest even; the window is filled again, and every other byte and register stands but FPST for floats (a
binding whose stream is not active counts as none, log entry 42). -/
def Sys2Proof.Spec.WmergeMergesWindow : Prop :=
  ∀ (s : State) (a : BitVec 5) (g : BitVec 3) (q o : BitVec 2) (key gen : Nat → Nat), (Instr.wmerge a g q o).wf = true →
    VecMemReady s → s.h.vstart = 0 → s.p.pairs ≠ 0 → s.p.pairs ≤ 8 → o.toNat < 3 →
    (∀ n < windowEntries s.p, ElementAt s (wrap (ux s a + 4 * n)) 4 .rmw (key n) (gen n) ∧ InMemory (key n) ∧ domOf (key n) = 0 ∧
      Unseen s (key n)) →
    (∀ m n, m < n → n < windowEntries s.p → key m + 4 ≤ key n ∨ key n + 4 ≤ key m) →
    (∀ m n, m < windowEntries s.p → n < windowEntries s.p → sectorOf (key m) = sectorOf (key n) → gen m = gen n) →
      Goes (exec (.wmerge a g q o) s) (fun m => Goes (exec (.vectorComplete (pairOf s.cur)) m) (fun u =>
        VecMemDone { s with h := { s.h with fpst := u.h.fpst } } u ∧ (s.p.wf = false → u.h.fpst = s.h.fpst) ∧
        u.p = { s.p with window := u.p.window } ∧
        (∀ b, (∀ n < windowEntries s.p, ¬(key n ≤ b ∧ b < key n + 4)) → readByte u b = readByte s b) ∧
        ∀ n < windowEntries s.p,
          (∀ l < lanes s.p, winEntry u.p l n = fillOf s.p.wf s.p.wop) ∧
          (s.p.wf = false → bytesValue u (key n) 4 = (BitVec.ofInt 32 ((List.range (lanes s.p)).foldl (fun c l =>
            let v := (winEntry s.p l n).toInt
            if o = 0 then c + v else if o = 1 then min c v else max c v) (signed 32 (bytesValue s (key n) 4)))).toNat) ∧
          (∀ c, s.p.wf = true → tree (fun x y => (fltStage (winOp o) .f32 .rne 0 x y).1) (lanes s.p)
              ((List.range (lanes s.p)).map (fun l => (winEntry s.p l n).toNat)) = some c →
            bytesValue u (key n) 4 = (fltStage (winOp o) .f32 .rne 0 (bytesValue s (key n) 4) c).1 % 2 ^ 32)))

namespace Sys2Proof.Spec

/-! ## Engine commands (spec/10_order_instructions.md R246-R251) -/

/-- The engine commands: operation, rd, rs1, SCOPE, AQ, RL (R246). -/
def engineOf : Instr → Option (EngOp × BitVec 5 × BitVec 5 × BitVec 3 × BitVec 1 × BitVec 1)
  | .xcopy d a c q r => some (.xcopy, d, a, c, q, r)
  | .dcopy d a c q r => some (.dcopy, d, a, c, q, r)
  | .dfill d a c q r => some (.dfill, d, a, c, q, r)
  | _ => none

/-- Commands queued at a copy engine. -/
def queuedAt (s : State) (e : Nat) : Nat := (s.cmds.filter (fun m => m.tce == e)).length

/-- The descriptor of the hart in focus lies at `desc`, aligned, readable and good, its completion record at `crec`
(R246 steps 1 and 3). -/
def Described (s : State) (va : Dword) (desc gd crec gr : Nat) : Prop :=
  va.toNat % 64 = 0 ∧ resolveCur s va 64 .read = .ok ⟨desc, gd⟩ ∧ checkSector s desc gd = .good ∧
    resolveCur s (va + 0x38) 8 .write = .ok ⟨crec, gr⟩

/-- The low 19 bits of SEMSPEC (R247). -/
def semSpecOf (s : State) (desc : Nat) : Nat := bytesValue s (desc + 0x28) 4 % 2 ^ 19
/-- BASE + 512 × COUNT of the context's window in the cluster SEMSPEC names (R313). -/
def specWindow (s : State) (desc : Nat) : Nat := SMap.get 0 (ctxOf s s.p.ctx).semwin (semSpecOf s desc / 512)

/-- The semaphore of a descriptor (R246 step 2): none for a package outside the group. -/
def SpecSem (s : State) (desc : Nat) (sem : Option Nat) : Prop :=
  (s.hub.pkgs ≤ semSpecOf s desc / 2 ^ 14 ∧ sem = none) ∨
  (semSpecOf s desc / 2 ^ 14 < s.hub.pkgs ∧ semSpecOf s desc % 512 < specWindow s desc / 512 ∧
    sem = some (semSpecOf s desc / 512 * 512 + specWindow s desc % 512 + semSpecOf s desc % 512))

/-- The engine with the fewest queued commands of the hart's cluster, the lowest of several (R246). -/
def LeastLoaded (s : State) (e : Nat) : Prop :=
  e / 4 = clusOf s.cur ∧ queuedAt s e < 16 ∧
    ∀ f, f / 4 = clusOf s.cur → queuedAt s e < queuedAt s f ∨ (queuedAt s e = queuedAt s f ∧ e ≤ f)

/-- A command that may start now. -/
def Starts (s : State) (m : Cmd) : Prop := s.cmds.find? (fun n => n.id == m.id) = some m ∧ cmdStarts s m = true

/-- A command has its result; nothing else of it or of the others changed (R250). -/
def resultOf (s : State) (m : Cmd) (st cause done : Nat) : List Cmd :=
  s.cmds.map (fun n => if n.id = m.id then { n with status := some (st, cause, done) } else n)

/-- An access of a command passes its probe and its sector is good: it lies at `key` under `gen`, in this package. -/
def CmdAt (s : State) (m : Cmd) (va size : Nat) (kind : AccKind) (key gen : Nat) : Prop :=
  va % size = 0 ∧ cmdResolve s m va size kind = .ok ⟨key, gen⟩ ∧ checkSector s key gen = .good ∧ InMemory key ∧ domOf key = 0

/-- Where the completion record of a command goes, and under which generation: the place found at issue, or, in TCM, the
TCM of its item's pair now, or, while the item is saved, the copy in its record (log entry 21). -/
def RecordAt (s : State) (m : Cmd) (k gen : Nat) : Prop :=
  if spaceOf m.crec ≠ 1 then k = m.crec ∧ gen = m.crecGen
  else if cmdBound s m = true then
    k = tcmKey (2 * cmdPair s m) (((getPair s (cmdPair s m)).getD {}).tcmBase + m.crecVa % 2 ^ 32) ∧ gen = m.crecGen
  else savedTcm s m (m.crecVa % 2 ^ 32) 8 .write = .ok ⟨k, gen⟩

/-- The semaphores after a command's increment: its own of this package one more, which saturates, with the sticky error
bit where STATUS is not 0 (R250). -/
def BumpedBy (s t : State) (m : Cmd) (st : Nat) : Prop :=
  ∀ k, SMap.get 0 t.sems k =
    (let old := SMap.get 0 s.sems k
     if m.sem = some k ∧ k < 2 ^ 14 then
       BitVec.ofNat 33 (min (old.toNat % 2 ^ 32 + 1) (2 ^ 32 - 1) + (if old.getLsbD 32 = true ∨ st ≠ 0 then 2 ^ 32 else 0))
     else old)

/-- The address of byte j of row r of a packed side (R248). -/
def packVa (base stride r j : Nat) : Nat :=
  ((((base : Int) + signed 64 stride * (r : Nat)) % 2 ^ 64).toNat + j) % 2 ^ 64

/-- The bytes that a row of a packed side takes. -/
def rowBytes (m : Cmd) : Nat := (m.rowlen * tagWidth m.tag + 7) / 8

/-- Byte j of row r as a packed XCOPY stores it over `old`: element c at bits c × w, the bits past the row kept
(R248). -/
def packedByte (p : Pair) (m : Cmd) (old r j : Nat) : Nat :=
  let w := tagWidth m.tag
  ((List.range 8).map (fun b =>
    if (if (8 * j + b) / w < m.rowlen then
          (elemCode p m.tag (m.src % 32) (r * m.rowlen + (8 * j + b) / w)).testBit ((8 * j + b) % w)
        else old.testBit b) then 2 ^ b else 0)).sum

/-- The address of byte or element t of a side of a command, `cb` bytes apart (R248, R249). -/
def cmdVa (base stride : Nat) (m : Cmd) (cb t : Nat) : Nat :=
  ((((base : Int) + signed 64 stride * (t / m.rowlen : Nat)) % 2 ^ 64).toNat + t % m.rowlen * cb) % 2 ^ 64

/-- Every byte takes the value that the last place naming it writes, else its old one. -/
def PlacesWritten (n cb : Nat) (key v : Nat → Nat) (s t : State) : Prop :=
  (∀ a, (∀ i < n, ¬(key i ≤ a ∧ a < key i + cb)) → readByte t a = readByte s a) ∧
  ∀ a, ∀ i < n, key i ≤ a → a < key i + cb → (∀ j < n, i < j → ¬(key j ≤ a ∧ a < key j + cb)) →
    readByte t a = BitVec.ofNat 8 (v i / 256 ^ (a - key i))

/-- Only memory and the command's result, this one, changed. -/
def CommandEnds (s t : State) (m : Cmd) (st cause done : Nat) : Prop :=
  t = { s with cmds := resultOf s m st cause done, mem := t.mem, wlog := t.wlog, secGen := t.secGen, poison := t.poison } ∧
    ∀ a, isPois t a = isPois s a

/-- Only memory and the command's result, OK with its count, changed. -/
def OnlyCommand (s t : State) (m : Cmd) (done : Nat) : Prop := CommandEnds s t m 0 0 done

/-- An access of a command fails its probe with a cause (R201, R250). -/
def CmdFails (s : State) (m : Cmd) (va size : Nat) (kind : AccKind) (c : Nat) : Prop :=
  (va % size ≠ 0 ∧ c = 0x06) ∨ (va % size = 0 ∧ cmdResolve s m va size kind = .fault c)

end Sys2Proof.Spec

/-- R43, R246, R247: an access hart's engine command whose checks pass is queued, as its descriptor gives it, at the
least loaded engine of its cluster; rd takes the ticket and nothing else changes. -/
def Sys2Proof.Spec.EngineCommandsAreQueued : Prop :=
  ∀ (s : State) (i : Instr) (op : EngOp) (d a : BitVec 5) (c : BitVec 3) (q r : BitVec 1) (desc gd crec gr e : Nat)
    (sem : Option Nat), engineOf i = some (op, d, a, c, q, r) → i.wf = true → onUser s = true → s.cur % 2 = 0 →
    Described s (xr s a) desc gd crec gr → SpecSem s desc sem → LeastLoaded s e →
      Goes (exec i s) (fun t => ∃ m : Cmd,
        t = { s with h := t.h, cmds := s.cmds ++ [m], nextId := s.nextId + 1 } ∧
        OnlyX { s.h with engCount := s.h.engCount + 1 } t.h d (wrap (s.h.engCount % 2 ^ 16 + e % 4 * 2 ^ 16 : Nat)) ∧
        t.h.pc = s.h.pc + 4 ∧ m.op = op ∧ m.tce = e ∧ m.sem = sem ∧ m.status = none ∧ m.crec = crec ∧ m.hart = s.cur ∧
        m.src = bytesValue s desc 8 ∧ m.dst = bytesValue s (desc + 0x08) 8 ∧ m.rowlen = bytesValue s (desc + 0x10) 4 ∧
        m.rows = bytesValue s (desc + 0x14) 4 ∧ m.sstr = bytesValue s (desc + 0x18) 8 ∧
        m.dstr = bytesValue s (desc + 0x20) 8 ∧ m.xctl = bytesValue s (desc + 0x2C) 4 ∧
        m.acq = (if q = 1 then some c.toNat else none) ∧ m.rel = (if r = 1 then some c.toNat else none))

/-- R43, R201, R246, R344: an engine command off the access harts raises ILL, one at a misaligned descriptor ACCESS,
at a poisoned one POISON, at one whose semaphore number lies outside the window ACCESS with that number; with every
queue full its hart stalls. Nothing is queued. -/
def Sys2Proof.Spec.EngineCommandsTrapOrStall : Prop :=
  ∀ (s : State) (i : Instr) (op : EngOp) (d a : BitVec 5) (c : BitVec 3) (q r : BitVec 1) (desc gd crec gr : Nat),
    engineOf i = some (op, d, a, c, q, r) → i.wf = true →
    ((onUser s = false ∨ s.cur % 2 = 1) →
      exec i s = .next (takeTrap 0x04 0 false (BitVec.ofNat 64 (codeNat (encode i))) s.h.pc s)) ∧
    (onUser s = true → s.cur % 2 = 0 →
      (ux s a % 64 ≠ 0 → exec i s = .next (takeTrap 0x06 0 false (xr s a) s.h.pc s)) ∧
      (ux s a % 64 = 0 → resolveCur s (xr s a) 64 .read = .ok ⟨desc, gd⟩ → isPois s desc = true → s.hub.arm = false →
        exec i s = .next (takeTrap 0x0A 0 false (xr s a) s.h.pc s)) ∧
      (ux s a % 64 = 0 → resolveCur s (xr s a) 64 .read = .ok ⟨desc, gd⟩ → checkSector s desc gd = .good →
        semSpecOf s desc / 2 ^ 14 < s.hub.pkgs → specWindow s desc / 512 ≤ semSpecOf s desc % 512 →
        exec i s = .next (takeTrap 0x06 0 false (wrap (semSpecOf s desc % 512 : Nat)) s.h.pc s)) ∧
      (∀ sem, Described s (xr s a) desc gd crec gr → SpecSem s desc sem →
        (∀ f, f / 4 = clusOf s.cur → 16 ≤ queuedAt s f) →
        exec i s = .next { s with h := { s.h with issue := .stalled .tceFull } }))

/-- R247-R250: TCE_COMMAND_START of a command that may start. A bad descriptor moves nothing and gives BADDESC. With
every access passing its probe, and no wait on a word it writes, DFILL writes its pattern, DCOPY of separate ranges
its source bytes, a container XCOPY the elements from memory into vx or the other way; all give OK and the count.
Where byte or element f is the first that fails, of a DCOPY at its source before its destination, those below it are
moved and it gives FAULT with its cause and the count f. That the step moves the whole command is log entry 47, that a
saved item's XCOPY does not start log entry 21. -/
def Sys2Proof.Spec.EngineCommandsRun : Prop :=
  ∀ (s : State) (m : Cmd), Starts s m → Canonical s →
    let n := m.rows * m.rowlen
    let bad : Prop := m.rowlen = 0 ∨ m.rows = 0 ∨ 65536 < m.rows ∨ m.sem = none ∨
      (m.op = .xcopy ∧ (m.vlmax < n ∨ m.inUse = false))
    (bad → exec (.tceCommandStart m.id) s = .next { s with cmds := resultOf s m 3 0 0 }) ∧
    (∀ key gen : Nat → Nat, ¬bad → m.op = .dfill →
      (∀ t < n, CmdAt s m (cmdVa m.dst m.dstr m 1 t) 1 .write (key t) (gen t) ∧ Unseen s (key t)) →
      Goes (exec (.tceCommandStart m.id) s) (fun t => OnlyCommand s t m n ∧
        PlacesWritten n 1 key (fun t => m.src / 256 ^ (t % m.rowlen % 8) % 256) s t)) ∧
    (∀ src sg key gen : Nat → Nat, ¬bad → m.op = .dcopy →
      (∀ t < n, CmdAt s m (cmdVa m.src m.sstr m 1 t) 1 .read (src t) (sg t) ∧
        CmdAt s m (cmdVa m.dst m.dstr m 1 t) 1 .write (key t) (gen t) ∧ Unseen s (key t)) →
      (∀ t < n, ∀ u < n, src t ≠ key u) →
      Goes (exec (.tceCommandStart m.id) s) (fun t => OnlyCommand s t m n ∧
        PlacesWritten n 1 key (fun t => (readByte s (src t)).toNat) s t)) ∧
    (∀ (key gen : Nat → Nat) (p : Pair), ¬bad → m.op = .xcopy → m.xctl % 4 = 0 → getPair s (cmdPair s m) = some p →
      PairShape p → (∀ t < n, CmdAt s m (cmdVa m.src m.sstr m (container m.tag) t) (container m.tag) .read (key t) (gen t)) →
      Goes (exec (.tceCommandStart m.id) s) (fun t => (∀ a, readByte t a = readByte s a) ∧ t.cmds = resultOf s m 0 0 n ∧
        ∃ p', getPair t (cmdPair s m) = some p' ∧ OnlyLanes p p' (BitVec.ofNat 5 m.dst) (· < n) ∧
          ∀ j < n, lane p' (m.dst % 32) j = BitVec.ofNat 16 (bytesValue s (key j) (container m.tag) % 2 ^ tagWidth m.tag))) ∧
    (∀ (key gen : Nat → Nat) (p : Pair), ¬bad → m.op = .xcopy → m.xctl % 4 = 1 → getPair s (cmdPair s m) = some p →
      p.kp = 0 → (∀ t < n, CmdAt s m (cmdVa m.dst m.dstr m (container m.tag) t) (container m.tag) .write (key t) (gen t) ∧
        Unseen s (key t)) →
      Goes (exec (.tceCommandStart m.id) s) (fun t => OnlyCommand s t m n ∧
        PlacesWritten n (container m.tag) key (fun j => containerValue m.tag (elemCode p m.tag (m.src % 32) j)) s t)) ∧
    (∀ (f c : Nat) (src sg key gen : Nat → Nat) (p : Pair), ¬bad → (m.op = .xcopy → m.xctl % 4 < 2) → f < n → c ≠ 0x09 →
      (c = 0x07 → s.hub.arm = false) →
      (m.op = .xcopy → getPair s (cmdPair s m) = some p ∧ PairShape p ∧ (m.xctl % 4 = 1 → p.kp = 0)) →
      let cb := if m.op = .xcopy then container m.tag else 1
      let reads : Prop := m.op = .dcopy ∨ (m.op = .xcopy ∧ m.xctl % 4 = 0)
      let writes : Prop := m.op = .dcopy ∨ m.op = .dfill ∨ (m.op = .xcopy ∧ m.xctl % 4 = 1)
      let srcVa (t : Nat) : Nat := cmdVa m.src m.sstr m cb t
      let dstVa (t : Nat) : Nat := cmdVa m.dst m.dstr m cb t
      (∀ t < f, (reads → CmdAt s m (srcVa t) cb .read (src t) (sg t)) ∧
        (writes → CmdAt s m (dstVa t) cb .write (key t) (gen t) ∧ Unseen s (key t))) →
      (m.op = .dcopy → ∀ t < f, ∀ u < f, src t ≠ key u) →
      (reads ∧ CmdFails s m (srcVa f) cb .read c ∨
        writes ∧ (reads → ∃ a, cmdResolve s m (srcVa f) cb .read = .ok a) ∧ CmdFails s m (dstVa f) cb .write c) →
      Goes (exec (.tceCommandStart m.id) s) (fun t => t.cmds = resultOf s m 2 c f ∧
        (writes → f = 0 → t = { s with cmds := resultOf s m 2 c 0 }) ∧ (writes → CommandEnds s t m 2 c f ∧ PlacesWritten f cb key (fun j => match m.op with
          | .dfill => m.src / 256 ^ (j % m.rowlen % 8) % 256
          | .dcopy => (readByte s (src j)).toNat
          | .xcopy => containerValue m.tag (elemCode p m.tag (m.src % 32) j)) s t) ∧
        (¬writes → (∀ a, readByte t a = readByte s a) ∧
          ∃ p', getPair t (cmdPair s m) = some p' ∧ OnlyLanes p p' (BitVec.ofNat 5 m.dst) (· < f) ∧
            ∀ j < f, lane p' (m.dst % 32) j = BitVec.ofNat 16 (bytesValue s (src j) cb % 2 ^ tagWidth m.tag))))

/-- R248: TCE_COMMAND_START of a packed XCOPY that may start, its rows whole bytes where it has several, every byte of
its rows passing its probe: from memory element c of a row takes the row's bits c × w to c × w + w - 1, into memory it
writes them, the bits past the row kept; OK with the count. -/
def Sys2Proof.Spec.PackedXcopyMovesBits : Prop :=
  ∀ (s : State) (m : Cmd) (key gen : Nat → Nat → Nat) (p : Pair), Starts s m → Canonical s → m.op = .xcopy →
    let n := m.rows * m.rowlen
    let w := tagWidth m.tag
    let nb := rowBytes m
    m.rowlen ≠ 0 → m.rows ≠ 0 → m.rows ≤ 65536 → m.sem ≠ none → n ≤ m.vlmax → m.inUse = true → 0 < w →
    (1 < m.rows → m.rowlen * w % 8 = 0) → getPair s (cmdPair s m) = some p → PairShape p →
    (m.xctl % 4 = 2 → (∀ r < m.rows, ∀ j < nb, CmdAt s m (packVa m.src m.sstr r j) 1 .read (key r j) (gen r j)) →
      Goes (exec (.tceCommandStart m.id) s) (fun t => (∀ a, readByte t a = readByte s a) ∧ t.cmds = resultOf s m 0 0 n ∧
        ∃ p', getPair t (cmdPair s m) = some p' ∧ OnlyLanes p p' (BitVec.ofNat 5 m.dst) (· < n) ∧
          ∀ r < m.rows, ∀ c < m.rowlen, lane p' (m.dst % 32) (r * m.rowlen + c) = BitVec.ofNat 16
            (((List.range nb).map (fun j => (readByte s (key r j)).toNat * 256 ^ j)).sum / 2 ^ (c * w) % 2 ^ w))) ∧
    (m.xctl % 4 = 3 → p.kp = 0 →
      (∀ r < m.rows, ∀ j < nb, CmdAt s m (packVa m.dst m.dstr r j) 1 .write (key r j) (gen r j) ∧ Unseen s (key r j)) →
      Goes (exec (.tceCommandStart m.id) s) (fun t => OnlyCommand s t m n ∧
        PlacesWritten (m.rows * nb) 1 (fun i => key (i / nb) (i % nb))
          (fun i => packedByte p m (readByte s (key (i / nb) (i % nb))).toNat (i / nb) (i % nb)) s t))

/-- R204, R223, R250, R284: TCE_COMMAND_FINISH writes the completion record, adds one to the semaphore of this
package, which saturates, with its sticky error bit when STATUS is not 0, and the command is gone; a record in TCM
goes to the TCM its item holds now, or to its saved copy, and where that cannot be reached any more the record alone
is left out (log entry 21); a record over a sector of another key ends the context and adds nothing; a command with no
result yet, or whose release still waits for its writes, stays. -/
def Sys2Proof.Spec.EngineCommandsFinish : Prop :=
  ∀ (s : State) (m : Cmd), s.cmds.find? (fun n => n.id == m.id) = some m →
    (∀ st cause done k gen, m.status = some (st, cause, done) → Canonical s →
      (∀ r ∈ s.reqs, r.uid = cmdUid m → meetsScope m.hart r.key (m.rel.getD 3) = false) →
      RecordAt s m k gen → InMemory k → checkSector s k gen = .good →
      Goes (exec (.tceCommandFinish m.id) s) (fun t =>
        t = { s with cmds := s.cmds.filter (fun n => n.id != m.id), sems := t.sems, mem := t.mem, wlog := t.wlog,
                     secGen := t.secGen } ∧
        BytesWritten k 8 (st + cause * 256 + done % 2 ^ 48 * 2 ^ 16) s t ∧ BumpedBy s t m st)) ∧
    (∀ st cause done c, m.status = some (st, cause, done) →
      (∀ r ∈ s.reqs, r.uid = cmdUid m → meetsScope m.hart r.key (m.rel.getD 3) = false) →
      spaceOf m.crec = 1 → cmdBound s m = false → savedTcm s m (m.crecVa % 2 ^ 32) 8 .write = .fault c → c ≠ 0x09 →
      (c = 0x07 → s.hub.arm = false) →
      Goes (exec (.tceCommandFinish m.id) s) (fun t =>
        t = { s with cmds := s.cmds.filter (fun n => n.id != m.id), sems := t.sems } ∧ BumpedBy s t m st)) ∧
    (∀ k gen, m.status ≠ none → (∀ r ∈ s.reqs, r.uid = cmdUid m → meetsScope m.hart r.key (m.rel.getD 3) = false) →
      RecordAt s m k gen → checkSector s k gen = .violation → exec (.tceCommandFinish m.id) s =
        .next (failContext { s with cmds := s.cmds.filter (fun n => n.id != m.id) } m.ctx)) ∧
    (m.status = none → exec (.tceCommandFinish m.id) s = .next s) ∧
    ((∃ r ∈ s.reqs, r.uid = cmdUid m ∧ meetsScope m.hart r.key (m.rel.getD 3) = true) →
      exec (.tceCommandFinish m.id) s = .next s)

namespace Sys2Proof.Spec

/-! ## Launches and items (spec/02_execution.md R28-R40; spec/11_progress_rules.md R279-R290; spec/15_attachment.md
R359-R362) -/

/-- Nothing but the launches changed. -/
def OnlyLaunches (s t : State) : Prop := t = { s with launches := t.launches }

/-- The launches with one changed by its tag. -/
def withLaunch (s : State) (tag : Nat) (f : Launch → Launch) : List Launch :=
  s.launches.map (fun l => if l.ltag = tag then f l else l)

/-- The launches with one item of one launch changed. -/
def withItem (s : State) (tag i : Nat) (f : Item → Item) : List Launch :=
  withLaunch s tag (fun l => { l with items := l.items.map (fun it => if it.idx = i then f it else it) })

/-- A record of the context of slot `c` whose checks are due (R34, R357, R361), with its index and bytes: one read
before, its checks waiting for a page, or else the 256 bytes at QBASE + 256 × (HEAD mod 2^QLOG) of a running queue.
`y` is the context once HEAD has moved past it, `r` the state its checks are made in; no page of it is awaited from
the host. -/
def RecordDue (s r : State) (c : Nat) (y : Ctx) (idx : Nat) (bs : List Byte) : Prop :=
  ∃ x, getCtx s c = some x ∧ (∀ e ∈ x.hubPages, e.2 = false → e.1 ∉ x.pri) ∧
    ((x.record = some (idx, bs) ∧ y = x ∧ r = s) ∨
     (x.record = none ∧ x.run = true ∧ x.head ≠ x.tail ∧ idx = x.head.toNat ∧
       readCtx s x (x.qbase + 256 * (x.head.toNat % 2 ^ x.qlog)) 256 = .ok bs ∧
       y = { x with record := some (idx, bs), head := x.head + 1 } ∧
       r = modCtx s c (fun z => { z with record := some (idx, bs), head := z.head + 1 })))

/-- The hub has done with a record; nothing else of the contexts changed but the pins of this one. -/
def RecordTaken (s t : State) (c : Nat) (y : Ctx) : Prop :=
  (∃ z, getCtx t c = some z ∧ z = { y with record := none, pins := z.pins }) ∧ ∀ d, d ≠ c → getCtx t d = getCtx s d

/-- The pair an instance of a launch goes to: partition index mod PAIRS of its core (R32, R280). -/
def pairFor (l : Launch) (cores : List Nat) (i : Nat) : Nat := cores.getD (i / l.pairs) 0 * 8 + i % l.pairs

/-- A hart at the kernel entry (R19, R39): the PC at the entry, its bit 0 cleared, x10 the argument pointer, x11 the
linear index, x14 the number of instances, every other x register but the two coordinate registers 0, U, the launch's
priority, LDST 0, ready. -/
def EntryHart (l : Launch) (i role : Nat) (h : Hart) : Prop :=
  h.pc = wrap l.entry &&& ~~~1#64 ∧ readX h 10 = l.args ∧ readX h 11 = wrap i ∧ readX h 14 = wrap (instances l.levels) ∧
  (∀ r : BitVec 5, r.toNat < 10 ∨ 14 < r.toNat → readX h r = 0) ∧ h.level = 0 ∧ h.prio = BitVec.ofNat 4 l.prio0 ∧
  h.ldst = 0 ∧ h.vl = 0 ∧ h.vstart = 0 ∧ h.fpst = 0 ∧ h.issue = .ready ∧ h.uid = uidOf l.ltag i role

/-- A pair at the kernel entry (R39): every vector element, mask and accumulator word 0, no tile, the grants of the
launch, its rounding mode RNE, no window. -/
def EntryPair (l : Launch) (i : Nat) (p : Pair) : Prop :=
  p.item = some (l.ltag, i) ∧ p.ctx = l.ctx ∧ p.pairs = l.pairs ∧ p.accrows = l.accrows ∧ p.tcmb = l.tcmb ∧
  (∀ r j, lane p r j = 0) ∧ p.kp = 0 ∧ (∀ r, p.k.getD r 0 = 0) ∧ (∀ a ∈ p.acc, a = {}) ∧ p.tile = {} ∧ p.win = 0 ∧
  p.rm = .rne ∧ (∀ q ∈ p.q, q = []) ∧ p.dq = [] ∧
  p.gw = (List.range 4).map (fun g => l.vgroups / 2 ^ (8 * g) % 16 + 1) ∧
  p.gc = (List.range 4).map (fun g => l.vgroups / 2 ^ (8 * g + 4) % 16)

/-- An item bound to a pair of this package. -/
def OnPair (it : Item) : Prop := (it.st = .bound ∨ it.st = .running ∨ it.st = .resumed) ∧ it.far = false

/-- The event ring has room and no event is held (R358). -/
def RingRoom (s : State) : Prop :=
  s.hub.evOn = true ∧ (s.hub.evtail - s.hub.evhead).toNat < 2 ^ s.hub.evLog ∧ s.hub.evHeld = []

/-- Where the next record of the ring lies in the host's memory (R355, R358). -/
def ringKey (s : State) : Nat :=
  hostKey (s.hub.fwpasid.toNat % 2 ^ 20)
    (s.hub.fwwinb.toNat / 4096 * 4096 + s.hub.evBase + 320 * (s.hub.evtail.toNat % 2 ^ s.hub.evLog))

/-- The next record of the ring lies inside the window that the host gave (R355). -/
def RingInWindow (s : State) : Prop :=
  s.hub.fwpasid.getLsbD 20 = true ∧
    s.hub.evBase + 320 * (s.hub.evtail.toNat % 2 ^ s.hub.evLog) + 320 ≤ 4096 * s.hub.fwwins.toNat

/-- An event of a TYPE has gone into the ring (R358): its record of 320 bytes at the place of EVTAIL, no other byte of
memory, EVTAIL one further, and MSI-X vector 0 where EVTAIL had been EVHEAD. -/
def EventInRing (s t : State) (type : Nat) : Prop :=
  t.hub.evHeld = [] ∧ t.hub.evtail = s.hub.evtail + 1 ∧ t.hub.evlost = s.hub.evlost ∧
    t.hub.msi = (if s.hub.evtail = s.hub.evhead then s.hub.msi + 1 else s.hub.msi) ∧
    readByte t (ringKey s) = BitVec.ofNat 8 type ∧
    ∀ a, (a < ringKey s ∨ ringKey s + 320 ≤ a) → readByte t a = readByte s a

/-- An event of a TYPE is held behind those held already (R358; before the first ring too, log entry 69). -/
def EventHeld (s t : State) (type : Nat) : Prop :=
  ∃ bs, t.hub.evHeld = s.hub.evHeld ++ [bs] ∧ bs.length = 320 ∧ bs.head? = some (BitVec.ofNat 8 type)

/-- The bind record of a pair (R281). -/
def BindRecordIs (w : Dword) (l : Launch) (i : Nat) (res : Bool) : Prop :=
  w.getLsbD 0 = true ∧ (w.extractLsb' 1 6).toNat = l.ctx % 64 ∧ 2 ^ (w.extractLsb' 7 2).toNat = l.pairs ∧
    (w.extractLsb' 9 17).toNat = i % 2 ^ 17 ∧ (w.extractLsb' 26 16).toNat = l.ltag % 2 ^ 16 ∧ w.getLsbD 42 = res ∧
    w.extractLsb' 43 21 = 0

/-- What a save finds to take: a bound item, not halted unless cancelled, with a request pending, on a pair whose harts
have not both ended. -/
def Saveable (s : State) (l : Launch) (it : Item) (a e : Hart) : Prop :=
  getLaunch s l.ltag = some l ∧ getItem l it.idx = some it ∧ OnPair it ∧ it.preq ≠ none ∧
  (it.halted = false ∨ it.cancel = true) ∧
  getHart s (2 * it.pair) = some a ∧ getHart s (2 * it.pair + 1) = some e ∧ ¬(a.issue = .ended ∧ e.issue = .ended) ∧
  pairDrained s it.pair (l.ltag, it.idx) = true

/-- A hart has taken the request: it halted at SETVL or SETTL, or has ended (R285). -/
def Taken (h : Hart) : Prop := h.issue = .halted ∨ h.issue = .ended

/-- The record of an item goes out (R329): memory changed, and what the hub asked the host for or found in it, but no
hart, pair or launch. -/
def RecordGoesOut (s : State) (l : Launch) (it : Item) (kind : Nat) : Prop :=
  let w := writeSave s l.ltag it.idx it.pair kind
  w = { s with mem := w.mem, poison := w.poison, secGen := w.secGen, wlog := w.wlog, ctxs := w.ctxs, hub := w.hub }

/-- An item is off its pair, saved (R281, R286, R287, R312): PRE-EMPTED, the pair and its harts empty, its bind record
not valid, no other hart or pair changed. -/
def SavedOff (s t : State) (l : Launch) (it : Item) : Prop :=
  (∃ l' it', getLaunch t l.ltag = some l' ∧ getItem l' it.idx = some it' ∧ it'.st = .preempted ∧ it'.preq = none) ∧
  (∀ p, getPair s it.pair = some p → getPair t it.pair = some {}) ∧
  (∀ r < 2, getHart t (2 * it.pair + r) = some {}) ∧ SMap.get 0 t.slots it.pair = 0 ∧
  (∀ id, id / 2 ≠ it.pair → getHart t id = getHart s id) ∧ ∀ q, q ≠ it.pair → getPair t q = getPair s q

/-- A status entry written by the hub (R36): the item's code with its cause; one that cannot be written is left out (log
entry 11). -/
def EntryWritten (s t : State) (l : Launch) (it : Item) : Prop :=
  let c := it.icode.getD (0, 0)
  (∀ key gen, ctxAccess s (ctxOf s l.ctx) (l.itemst + 4 * it.idx) .write true = .ok ⟨key, gen⟩ →
    checkSector s key gen = .good → InMemory key → Canonical s →
      t = { s with mem := t.mem, wlog := t.wlog, secGen := t.secGen } ∧ BytesWritten key 4 (c.1 + c.2 % 256 * 256) s t) ∧
  (∀ f, ctxAccess s (ctxOf s l.ctx) (l.itemst + 4 * it.idx) .write true = .fault f → f ≠ 0x09 →
    (f = 0x07 → s.hub.arm = false) → t = s)

/-- The status entries of items, written in order. -/
def EntriesWritten (l : Launch) : List Item → State → State → Prop
  | [], s, t => t = s
  | it :: more, s, t => ∃ u, EntryWritten s u l it ∧ EntriesWritten l more u t

end Sys2Proof.Spec

/-- R361: a TAIL up to 2^QLOG beyond HEAD replaces TAIL and changes nothing else; any other leaves TAIL, clears RUN and
sets ERR with ECODE 1. -/
def Sys2Proof.Spec.KickWritesTail : Prop :=
  ∀ (s : State) (c : Nat) (v : Word) (x : Ctx), getCtx s c = some x →
    ((v - x.head).toNat ≤ 2 ^ x.qlog → Goes (exec (.kickTailWrite c v) s) (fun t => t = { s with ctxs := t.ctxs } ∧
      getCtx t c = some { x with tail := v } ∧ ∀ d, d ≠ c → getCtx t d = getCtx s d)) ∧
    (2 ^ x.qlog < (v - x.head).toNat → Goes (exec (.kickTailWrite c v) s) (fun t =>
      getCtx t c = some { x with run := false, err := true, ecode := 1 } ∧ t.launches = s.launches ∧ t.h = s.h))

/-- R34, R37, R357, R361: LAUNCH_RECORD_READ advances HEAD past the record it reads and checks it; a record that waited
for a page goes on, stopped queue or not.  One that passes puts a launch in QUEUED with one item per instance; one that
fails with a code is refused, with no items, a record whose VERSION is not 1 with BADVERSION; nothing is bound. -/
def Sys2Proof.Spec.RecordReadQueuesOrRefuses : Prop :=
  ∀ (s r : State) (c : Nat) (y : Ctx) (idx : Nat) (bs : List Byte), RecordDue s r c y idx bs →
    let l0 := launchOf s.ltags c idx bs
    (∀ l, checkRecord r c bs l0 = .ok l → Goes (exec (.launchRecordRead c) s) (fun t =>
      RecordTaken s t c y ∧ t = { s with ctxs := t.ctxs, launches := t.launches, ltags := s.ltags + 1 } ∧
      ∃ n, t.launches = s.launches ++ [n] ∧ n.st = .queued ∧ n.items.length = (l.levels.map (·.2.2)).foldl (· * ·) 1 ∧
        ∀ it ∈ n.items, it.st = .queued)) ∧
    (∀ n, checkRecord r c bs l0 = .error (.code n) → Goes (exec (.launchRecordRead c) s) (fun t =>
      RecordTaken s t c y ∧ t = { s with ctxs := t.ctxs, launches := t.launches, ltags := s.ltags + 1 } ∧
      ∃ q, t.launches = s.launches ++ [q] ∧ q.st = .retired ∧ q.code = n ∧ q.items = [])) ∧
    (bs.length = 256 → (∃ a b, bs.take 2 = [a, b] ∧ (a ≠ 1 ∨ b ≠ 0)) → checkRecord r c bs l0 = .error (.code 0x10))

/-- R35, R37, R38: a QUEUED launch with a sticky error bit on a dependence retires with DEPERR and every item NOTRUN,
whatever its values; with every dependence satisfied it and its items become READY; else it stays. A semaphore of a
peer package shows a free value (log entry 12). -/
def Sys2Proof.Spec.DependencesDecide : Prop :=
  ∀ (s : State) (l : Launch), getLaunch s l.ltag = some l → l.st = .queued →
    let shown (k : Nat) : BitVec 33 := if k < 2 ^ 14 then SMap.get 0 s.sems k else semSeen s k
    let err : Prop := ∃ d ∈ l.deps, (shown d.1).getLsbD 32 = true
    let met : Prop := ∀ d ∈ l.deps, d.2 ≤ (shown d.1).toNat % 2 ^ 32
    (err → exec (.launchReady l.ltag) s = .next s ∧
      exec (.launchDeperr l.ltag) s = .next { s with launches := withLaunch s l.ltag (fun m => { m with
        st := .retired, code := 3, items := m.items.map (fun it => { it with st := .retired, icode := some (7, 0) }) }) }) ∧
    (¬err → exec (.launchDeperr l.ltag) s = .next s) ∧
    (¬err → met → exec (.launchReady l.ltag) s = .next { s with launches := withLaunch s l.ltag (fun m => { m with
      st := .ready, readyAt := s.stamp, items := m.items.map (fun it => { it with st := .ready }) }) }) ∧
    (¬met → exec (.launchReady l.ltag) s = .next s)

/-- R32, R37, R39, R189, R280, R281: LAUNCH_PACKET binds the launch the hub serves next whole: every item BOUND, one of
this package on the pair of its index, with its bind record, that pair and its harts in the entry state; the TCM
allocation of a single item is 0 beyond its section's image.  This where its image reads; where reading it meets an
integrity violation (R204) that alone happens and nothing is bound (log entry 32). -/
def Obligations.LaunchesAreBoundWhole : Prop :=
  ∀ (s : State) (l : Launch) (cores : List Nat), bindChoice s = some (l, cores) → getLaunch s l.ltag = some l →
    0 < l.pairs → l.pairs ≤ 8 → cores.Nodup → (l.items.map (·.idx)).Nodup →
    (∀ it ∈ l.items, it.far = false → it.idx / l.pairs < cores.length) → Canonical s →
    ((readImage s l).2 = true → exec (.launchPacket l.ltag) s = .next (readImage s l).1) ∧
    ((∀ sp ∈ imageSpans l, ∀ o < sp.2, ∃ b, readPart s (ctxOf s l.ctx) (sp.1 + o) 1 = .ok b) →
     Goes (exec (.launchPacket l.ltag) s) (fun t =>
      (∃ n, getLaunch t l.ltag = some n ∧ n.st = .running ∧ n.age = 0 ∧
        ∀ it ∈ l.items, ∃ it', getItem n it.idx = some it' ∧ it'.st = .bound ∧
          (it.far = false → it'.pair = pairFor l cores it.idx)) ∧
      (∀ it ∈ l.items, it.far = false →
        (∃ p, getPair t (pairFor l cores it.idx) = some p ∧ EntryPair l it.idx p) ∧
        (l.pairs ∈ [1, 2, 4, 8] → BindRecordIs (SMap.get 0 t.slots (pairFor l cores it.idx)) l it.idx false) ∧
        ∀ r < 2, ∃ h, getHart t (2 * pairFor l cores it.idx + r) = some h ∧ EntryHart l it.idx r h) ∧
      (∀ id, (∀ it ∈ l.items, it.far = false → id / 2 ≠ pairFor l cores it.idx) → getHart t id = getHart s id) ∧
      ∀ it, l.items = [it] → it.far = false → l.scrb = 0 → l.dsrb = 0 → ∀ o < l.tcmb, (l.secs.getD 2 (0, 0)).2 ≤ o →
        readByte t (tcmKey (2 * pairFor l cores it.idx) (it.idx % l.pairs * (2 ^ 19 / l.pairs) + o)) = 0))

/-- R283, R285: PREEMPT_REQUEST reaches the item the Referee cores choose, whose effective priority is below that of a
head launch that cannot be placed; its grace starts at 0 and nothing else changes. Of another item it changes nothing. -/
def Sys2Proof.Spec.PreemptionIsRequested : Prop :=
  ∀ (s : State) (t i : Nat),
    (victim s = some (t, i) →
      (∃ h rest, readyOrder s = h :: rest ∧ placeNow s h [] = none ∧ itemEp s t i < h.prio) ∧
      exec (.preemptRequest t i) s = .next { s with launches := withItem s t i (fun it => { it with preq := some (it.preq.getD 0) }) }) ∧
    (victim s ≠ some (t, i) → exec (.preemptRequest t i) s = .next s)

/-- R38, R285, R286, R287: with both harts having taken the request and the pair drained, COOPERATIVE_SAVE takes the
item off its pair; once the grace has run out FORCED_SAVE does, before that it does nothing; where the record meets an
integrity violation that ends the harts, the item stays with them; a cancelled item's harts end and its code is
CANCELLED (log entry 49). -/
def Sys2Proof.Spec.SavesTakeTheItemOff : Prop :=
  ∀ (s : State) (l : Launch) (it : Item) (a e : Hart), Saveable s l it a e → SMap.wf 0 s.slots = true →
    let all : Prop := Taken a ∧ Taken e
    let past : Prop := ∃ g, it.preq = some g ∧ (ctxOf s l.ctx).pgrace.toNat ≤ g
    let saves (i : Instr) (kind : Nat) : Prop :=
      (RecordGoesOut s l it kind → Goes (exec i s) (fun t => SavedOff s t l it)) ∧
      (pairEnded (writeSave s l.ltag it.idx it.pair kind) it.pair = true →
        exec i s = .next (writeSave s l.ltag it.idx it.pair kind))
    (it.cancel = false → all → saves (.cooperativeSave l.ltag it.idx) 1) ∧
    (it.cancel = false → ¬all → past → saves (.forcedSave l.ltag it.idx) 2) ∧
    (¬all → exec (.cooperativeSave l.ltag it.idx) s = .next s) ∧
    (¬past → exec (.forcedSave l.ltag it.idx) s = .next s) ∧
    (it.cancel = true → all → Goes (exec (.cooperativeSave l.ltag it.idx) s) (fun t =>
      (∃ l' it', getLaunch t l.ltag = some l' ∧ getItem l' it.idx = some it' ∧ it'.preq = none ∧ it'.icode = some (3, 0)) ∧
      (∀ r < 2, ∃ h, getHart t (2 * it.pair + r) = some h ∧ h.issue = .ended) ∧
      ∀ k, readByte t k = readByte s k))

/-- R37, R281, R284, R332: ITEM_REBIND of the saved item that is next, its record passing, puts the restored pair and
harts on the pair found, the item RESUMED, its bind record with RES; a record that fails a check or cannot be read
ends the item with code 2 and cause 0x14 and binds nothing; one read over another key's sector ends the context (R204;
log entry 43). The harts are stated where no wait's registers or word were rewritten in memory; else the wait reads
them again (log entry 74). -/
def Sys2Proof.Spec.RebindRestores : Prop :=
  ∀ (s : State) (l : Launch) (it : Item) (pid : Nat), rebindChoice s = some (l, it, pid) → getLaunch s l.ltag = some l →
    getItem l it.idx = some it → it.st = .preempted →
    let old (r : Nat) : Hart := (lookupKey it.harts r).getD {}
    let base := entryPair l it.idx (pid % 8) (scrBaseOf l (pid / 64)) (l.dsr.headD 0)
    let asSaved (role : Nat) (x : Hart × WaitPart) : Prop := x.2.st = 1 → x.1.x = (old role).x ∧
      ∀ w, it.waits.find? (fun e => e.1 == uidOf l.ltag it.idx role) = some w → w.2.word = x.2.word
    (∀ r, parseRecord s (ctxOf s l.ctx) (it.saveVa.getD 0) base (old 0) (old 1) = .ok r → asSaved 0 r.a → asSaved 1 r.e →
      Goes (exec (.itemRebind l.ltag it.idx) s) (fun t =>
        (∃ l' it', getLaunch t l.ltag = some l' ∧ getItem l' it.idx = some it' ∧ it'.st = .resumed ∧ it'.pair = pid) ∧
        (l.pairs ∈ [1, 2, 4, 8] → SMap.wf 0 s.slots = true → BindRecordIs (SMap.get 0 t.slots pid) l it.idx true) ∧
        getPair t pid = some r.p ∧
        (∃ h, getHart t (2 * pid) = some h ∧ h.pc = r.a.1.pc ∧ h.x = r.a.1.x ∧ h.level = r.a.1.level ∧ h.g = r.a.1.g ∧
          h.uid = uidOf l.ltag it.idx 0) ∧
        ∃ h, getHart t (2 * pid + 1) = some h ∧ h.pc = r.e.1.pc ∧ h.x = r.e.1.x ∧ h.level = r.e.1.level ∧ h.g = r.e.1.g ∧
          h.uid = uidOf l.ltag it.idx 1)) ∧
    (parseRecord s (ctxOf s l.ctx) (it.saveVa.getD 0) base (old 0) (old 1) = .error .violation →
      exec (.itemRebind l.ltag it.idx) s = .next (failContext s l.ctx)) ∧
    (∀ b, parseRecord s (ctxOf s l.ctx) (it.saveVa.getD 0) base (old 0) (old 1) = .error b → b ≠ .violation → s.hub.arm = false →
      Goes (exec (.itemRebind l.ltag it.idx) s) (fun t =>
        (∃ l' it', getLaunch t l.ltag = some l' ∧ getItem l' it.idx = some it' ∧ it'.st = .preempted ∧
          it'.icode = some (2, 0x14)) ∧ t.h = s.h ∧ t.p = s.p ∧ t.harts = s.harts ∧ t.pairs = s.pairs ∧
        ∀ k, readByte t k = readByte s k))

/-- R36, R345, R346: ITEM_RETIRE of an item whose harts have ended and whose commands and accesses are done records
the larger code with its cause, of equal codes that of the hart that ended first; 0 becomes 1 with the escape
indicator set; its pair is empty. Memory stands: the status entries wait for the last instance (R33). That a cancelled
item whose harts had all ended keeps their code is the model's reading (log entry 71). -/
def Sys2Proof.Spec.ItemRetires : Prop :=
  ∀ (s : State) (l : Launch) (it : Item) (a e : Hart) (ca ua ta ce ue te : Nat) (p : Pair),
    getLaunch s l.ltag = some l → getItem l it.idx = some it → OnPair it → it.icode = none →
    getHart s (2 * it.pair) = some a → getHart s (2 * it.pair + 1) = some e → getPair s it.pair = some p → p.dq = [] →
    a.issue = .ended → e.issue = .ended → a.endCode = some (ca, ua, ta) → e.endCode = some (ce, ue, te) →
    (∀ m ∈ s.cmds, m.item ≠ (l.ltag, it.idx)) →
    (∀ r ∈ s.reqs, r.uid ≠ uidOf l.ltag it.idx 0 ∧ r.uid ≠ uidOf l.ltag it.idx 1) →
    let c := if ca < ce ∨ (ca = ce ∧ te < ta) then (ce, ue) else (ca, ua)
    let c := if c.1 = 0 ∧ it.escape = true then (1, 0) else c
    Goes (exec (.itemRetire l.ltag it.idx) s) (fun t =>
      (∃ l' it', getLaunch t l.ltag = some l' ∧ getItem l' it.idx = some it' ∧ it'.st = .retired ∧ it'.icode = some c ∧
        (l'.st = .retired ∨ ∃ o ∈ l.items, o.idx ≠ it.idx ∧ o.st ≠ .retired)) ∧
      t.mem = s.mem ∧ getPair t it.pair = some {} ∧ ∀ id, id / 2 ≠ it.pair → getHart t id = getHart s id)

/-- R33-R36, R358: LAUNCH_COMPLETION_WRITE of a launch whose items have all retired writes every status entry, then
CODE, FAILED, ITEMS and DONE at CWORD, and forgets the launch; where CWORD cannot be written it writes no word and
sends a CWFAIL event, into the ring where it has room, else held, which before the first ring is log entry 69. That a
status entry that cannot be written is left out is log entry 11. -/
def Sys2Proof.Spec.CompletionWordIsWritten : Prop :=
  ∀ (s : State) (l : Launch), getLaunch s l.ltag = some l → l.st = .retired → (∀ it ∈ l.items, it.st = .retired) →
    (∀ va ∈ completionVas l, (∀ e ∈ (ctxOf s l.ctx).hubPages, e.1 ≠ va / 4096) ∧
      ctxAccess s (ctxOf s l.ctx) va .write true ≠ .fault 0x09) →
    let failed := (l.items.filter (fun it => (it.icode.getD (0, 0)).1 != 0)).length
    let code := if l.code ≠ 0 then l.code else if failed = 0 then 0 else 1
    let w := writeStatuses s l
    let fails (v : State) : Prop :=
      (¬RingRoom v → v.hub.evHeld.length < 256 → Goes (exec (.launchCompletionWrite l.ltag) s) (fun t =>
        t = { v with launches := v.launches.filter (fun m => m.ltag != l.ltag), hub := t.hub } ∧ EventHeld v t 9)) ∧
      (RingRoom v → RingInWindow v → Canonical v → Goes (exec (.launchCompletionWrite l.ltag) s) (fun t =>
        t = { v with launches := v.launches.filter (fun m => m.ltag != l.ltag), hub := t.hub, mem := t.mem, wlog := t.wlog } ∧
        EventInRing v t 9))
    (if l.itemst = 0 then w = s else EntriesWritten l l.items s w) ∧
    (∀ key gen, l.cword % 8 = 0 → ctxAccess w (ctxOf w l.ctx) l.cword .write true = .ok ⟨key, gen⟩ →
      (checkSector w key gen = .good → InMemory key → Canonical w →
        Goes (exec (.launchCompletionWrite l.ltag) s) (fun t =>
          t = { w with launches := w.launches.filter (fun m => m.ltag != l.ltag), mem := t.mem, wlog := t.wlog, secGen := t.secGen } ∧
          BytesWritten key 8 (code + failed % 2 ^ 24 * 2 ^ 8 + l.items.length % 2 ^ 31 * 2 ^ 32 + 2 ^ 63) w t)) ∧
      (checkSector w key gen = .violation → fails (failContext w l.ctx))) ∧
    (l.cword % 8 ≠ 0 → fails w) ∧
    (∀ f, l.cword % 8 = 0 → ctxAccess w (ctxOf w l.ctx) l.cword .write true = .fault f → (f = 0x07 → w.hub.arm = false) → fails w) ∧
    (l.cword % 8 = 0 → ctxAccess w (ctxOf w l.ctx) l.cword .write true = .violation → fails (failContext w l.ctx))

namespace Sys2Proof.Spec

/-! ## The hub (spec/15_attachment.md R353-R377; spec/13_isolation.md R334, R336; spec/14_recovery.md R337, R348) -/

/-- The state with another mailbox. -/
def withMb (s : State) (m : Mailbox) : State := { s with hub := { s.hub with mb := m } }

/-- Argument n of the running command. -/
def cmdArg (s : State) (n : Nat) : Nat := (s.hub.mb.cmdArg.getD n 0).toNat
/-- The context slot of MBARG0 (R356). -/
def cmdSlot (s : State) : Nat := cmdArg s 0 / 32 % 64

/-- A command accepted and not begun, on this package, after a boot that succeeded (R356, R368). -/
def Runs (s : State) (op : Nat) : Prop :=
  s.hub.mb.busy = true ∧ s.hub.mb.stage = 0 ∧ s.hub.mb.cmdOp = op ∧ s.hub.bootResult = 1 ∧ cmdArg s 0 % 32 = 0 ∧
    0 < s.hub.pkgs ∧ s.hub.reach.testBit 0 = true

/-- The command has ended with a result and what it returns; its other effects are those of `e`. -/
def ended (code : Nat) (vals : List Dword) (e : State) : State :=
  withMb e { e.hub.mb with stage := 2, rcode := code, rvals := vals }

/-- A context after a change of one slot. -/
def CtxIs (s t : State) (c : Nat) (x : Ctx) : Prop := getCtx t c = some x ∧ ∀ d, d ≠ c → getCtx t d = getCtx s d

/-- The one launch of a context with a queue index that has not retired. -/
def LaunchAt (s : State) (c q : Nat) (l : Launch) : Prop :=
  getLaunch s l.ltag = some l ∧ l.ctx = c ∧ l.qidx = q ∧ l.st ≠ .retired ∧
    ∀ m ∈ s.launches, m.ctx = c → m.qidx = q → m.st ≠ .retired → m = l

/-- The item HALT or RESUME names, live on its pair (R334). -/
def ItemAt (s : State) (l : Launch) (it : Item) (a e : Hart) : Prop :=
  LaunchAt s (cmdSlot s) (cmdArg s 1 % 2 ^ 32) l ∧ it.idx = cmdArg s 2 ∧ getItem l it.idx = some it ∧ OnPair it ∧
    getHart s (2 * it.pair) = some a ∧ getHart s (2 * it.pair + 1) = some e ∧ (a.issue ≠ .ended ∨ e.issue ≠ .ended)

/-- The mailbox after a command is submitted (R356). -/
def submitted (m : Mailbox) : Mailbox :=
  if m.busy then { m with drop := true }
  else { m with busy := true, stage := 0, cmdOp := m.op.toNat, cmdArg := m.arg.toList }

/-- A firmware write of `n` bytes at a window offset that leaves the window: of its pieces of 64 bytes those inside are
written, those outside not (R355; log entry 64). -/
def PiecesWritten (s t : State) (inside : Nat → Nat → Prop) (at_ : Nat → Nat) (off n : Nat) (v : Nat → Byte) : Prop :=
  let len (i : Nat) : Nat := min 64 (n - 64 * i)
  let on (i : Nat) : Prop := 64 * i < n ∧ inside (off + 64 * i) (len i)
  (∀ k, (∀ i, on i → ¬(at_ (off + 64 * i) ≤ k ∧ k < at_ (off + 64 * i) + len i)) → readByte t k = readByte s k) ∧
  ∀ i, on i → ∀ o < len i, readByte t (at_ (off + 64 * i) + o) = v (64 * i + o)

end Sys2Proof.Spec

/-- R355, R356, R358, R368: an aligned write of 8 or 4 bytes of a BAR0 register sets its fields, four bytes those of
their half; MBDOOR.GO submits the command with its arguments, or sets DROP while one runs; a write where no register
is written (the capability region, the gaps, MBRES, EVTAIL and what follows) and an unaligned one change nothing, nor,
after a boot that failed, one outside the mailbox. -/
def Sys2Proof.Spec.HostWritesRegisters : Prop :=
  ∀ (s : State) (v : Dword) (off size : Nat),
    let m := s.hub.mb
    let go (o : Nat) : Out := exec (.mmioRegisterWrite o 8 v) s
    go 0x10000 = .next (withMb s { m with op := v.extractLsb' 0 16 }) ∧
    go 0x10008 = .next (withMb s { m with drop := m.drop && !v.getLsbD 1 }) ∧
    go 0x10010 = .next (withMb s (if v.getLsbD 0 then submitted m else m)) ∧
    (∀ n : Fin 12, go (0x10040 + 8 * n.val) = .next (withMb s { m with arg := m.arg.set n.val v })) ∧
    (s.hub.bootResult ≠ 2 →
      go 0x10100 = .next { s with hub := { s.hub with fwwinb := wrap (v.toNat / 4096 * 4096 : Nat) } } ∧
      go 0x10108 = .next { s with hub := { s.hub with fwwins := v.extractLsb' 0 32 } } ∧
      go 0x10110 = .next { s with hub := { s.hub with fwpasid := v.extractLsb' 0 21 } } ∧
      go 0x10118 = exec (.evheadWrite (v.extractLsb' 0 32)) s) ∧
    let four (o : Nat) : Out := exec (.mmioRegisterWrite o 4 v) s
    let low (old : Nat) : Dword := wrap (old / 2 ^ 32 * 2 ^ 32 + v.toNat % 2 ^ 32 : Nat)
    let high (old : Nat) : Dword := wrap (old % 2 ^ 32 + v.toNat % 2 ^ 32 * 2 ^ 32 : Nat)
    (∀ o ∈ [0x10000, 0x10008, 0x10010], four o = go o ∧ four (o + 4) = .next s) ∧
    (∀ n : Fin 12, four (0x10040 + 8 * n.val) = .next (withMb s { m with arg := m.arg.set n.val (low m.arg[n].toNat) }) ∧
      four (0x10044 + 8 * n.val) = .next (withMb s { m with arg := m.arg.set n.val (high m.arg[n].toNat) })) ∧
    (s.hub.bootResult ≠ 2 →
      (∀ o ∈ [0x10108, 0x10110, 0x10118], four o = go o ∧ four (o + 4) = .next s) ∧
      four 0x10100 = .next { s with hub := { s.hub with
        fwwinb := wrap ((low s.hub.fwwinb.toNat).toNat / 4096 * 4096 : Nat) } } ∧
      four 0x10104 = .next { s with hub := { s.hub with
        fwwinb := wrap ((high s.hub.fwwinb.toNat).toNat / 4096 * 4096 : Nat) } }) ∧
    (s.hub.bootResult = 2 → 0x10100 ≤ off → exec (.mmioRegisterWrite off size v) s = .next s) ∧
    ((off < 0x10000 ∨ (0x10018 ≤ off ∧ off < 0x10040) ∨ (0x100A0 ≤ off ∧ off < 0x10100) ∨ 0x10120 ≤ off ∨ off % size ≠ 0 ∨
        (size ≠ 4 ∧ size ≠ 8)) →
      exec (.mmioRegisterWrite off size v) s = .next s)

/-- R358, R368: a write of EVHEAD takes its value and moves held events into the room it makes: with none held nothing
else changes; after a boot that failed it changes nothing. -/
def Sys2Proof.Spec.EvheadMakesRoom : Prop :=
  ∀ (s : State) (v : Word),
    (s.hub.bootResult = 2 → exec (.evheadWrite v) s = .next s) ∧
    (s.hub.bootResult ≠ 2 → s.hub.evHeld = [] → exec (.evheadWrite v) s = .next { s with hub := { s.hub with evhead := v } }) ∧
    (s.hub.bootResult ≠ 2 → Goes (exec (.evheadWrite v) s) (fun t => t.hub.evhead = v ∧
      (t.hub.evHeld = [] ∨ s.hub.evOn = false ∨ 2 ^ s.hub.evLog ≤ (t.hub.evtail - v).toNat ∨ 256 < s.hub.evHeld.length) ∧
      ∃ n, t.hub.evHeld = s.hub.evHeld.drop n ∧ t.hub.evtail = s.hub.evtail + BitVec.ofNat 32 n))

/-- R356, R357: a command on a package that does not exist or is not reached returns NOPKG, one on a context that does
not exist NOTFOUND, whatever its other arguments (that order is log entry 33); neither changes anything else. An
unlisted OP, or any after a boot that failed, returns BADOP. MAILBOX_COMPLETE writes MBRES and RESULT and clears BUSY. -/
def Sys2Proof.Spec.CommandsReportTheirResult : Prop :=
  ∀ (s : State) (op : Nat),
    (Runs s op → getCtx s (cmdSlot s) = none → ∀ i, ((i, op) ∈ [(Instr.ctxend, 2), (.qset, 3), (.qstop, 4), (.semwin, 5),
        (.cancel, 6), (.halt, 7), (.resume, 8), (.ceil, 0x0D), (.quota, 0x0E)]) →
      exec i s = .next (ended 5 [] s)) ∧
    (s.hub.mb.busy = true → s.hub.mb.stage = 0 → s.hub.mb.cmdOp = op → s.hub.bootResult = 1 →
      (s.hub.pkgs ≤ cmdArg s 0 % 32 ∨ s.hub.reach.testBit (cmdArg s 0 % 32) = false) →
        ∀ i, ((i, op) ∈ [(Instr.ctxnew, 1), (.ctxend, 2), (.halt, 7), (.qset, 3), (.qstop, 4), (.semwin, 5), (.cancel, 6),
        (.resume, 8), (.attest, 9), (.evring, 0x0A), (.linkrate, 0x0B), (.pkgcfg, 0x0C), (.ceil, 0x0D), (.quota, 0x0E),
        (.snapread, 0x0F)]) → exec i s = .next (ended 6 [] s)) ∧
    (s.hub.mb.busy = true → s.hub.mb.stage = 0 → (s.hub.bootResult = 2 ∨ (s.hub.bootResult = 1 ∧ (s.hub.mb.cmdOp = 0 ∨
        0x0F < s.hub.mb.cmdOp))) → exec .mailboxBadop s = .next (ended 1 [] s)) ∧
    (s.hub.mb.busy = true → s.hub.mb.stage = 2 → Goes (exec .mailboxComplete s) (fun t => t = withMb s t.hub.mb ∧
      t.hub.mb = { s.hub.mb with busy := false, stage := 0, result := s.hub.mb.rcode, rcode := 0, rvals := [],
                                 res := t.hub.mb.res } ∧
      ∀ n : Fin 4, t.hub.mb.res[n] = (s.hub.mb.rvals[n.val]?).getD s.hub.mb.res[n]))

/-- R206, R357: CTXNEW makes a context of its arguments with a fresh key and no semaphores, and the memory it gives
reads as zeros (which memory that is, is free: log entry 41), a PASID in use taken too (log entry 50); or it returns
SLOTBUSY, before BADARG (log entry 33), or BADARG. -/
def Sys2Proof.Spec.CtxnewMakesContext : Prop :=
  ∀ s : State, Runs s 1 →
    let c := cmdSlot s
    let a := cmdArg s
    let bad : Prop := 16384 < a 7 % 2 ^ 16 ∨ 256 < a 7 / 2 ^ 16 % 2 ^ 9 + 1 ∨ a 8 % 64 ≠ 0
    (∀ x, getCtx s c = some x → exec .ctxnew s = .next (ended 3 [] s)) ∧
    (getCtx s c = none → bad → exec .ctxnew s = .next (ended 2 [] s)) ∧
    (getCtx s c = none → ¬bad → Canonical s → Goes (exec .ctxnew s) (fun t => ∃ x,
      t = ended 0 [] { s with ctxs := t.ctxs, genSeq := s.genSeq + 1, mem := t.mem, poison := t.poison, secGen := t.secGen,
                              wlog := t.wlog, hub := { s.hub with shotCopies := t.hub.shotCopies } } ∧ CtxIs s t c x ∧
      (∀ k, (readByte t k = readByte s k ∧ isPois t k = isPois s k) ∨ (k < 2 ^ 52 ∧ readByte t k = 0 ∧ isPois t k = false)) ∧
      x.pasid = a 0 / 2 ^ 11 % 2 ^ 20 ∧ x.pgroot = wrap (a 1 % 2 ^ 52 / 2 ^ 16 * 2 ^ 16 : Nat) ∧ x.gen = s.genSeq ∧
      x.part = a 3 + a 4 * 2 ^ 64 + a 5 * 2 ^ 128 + a 6 * 2 ^ 192 ∧ x.quota = a 7 % 2 ^ 16 ∧
      x.bound = a 7 / 2 ^ 16 % 2 ^ 9 + 1 ∧ x.shw = (a 7).testBit 25 ∧ x.tvec = wrap (a 2 / 4 * 4 : Nat) ∧
      x.poolVa = a 8 ∧ x.poolLen = a 9 ∧ x.run = false ∧ ∀ k, SMap.get 0 x.semwin k = 0))

/-- R342, R357: QSET, QSTOP, SEMWIN, CEIL and QUOTA write their registers of the context or return BADARG, CTXEND
stops the queue, cancels a record whose checks wait, and, once no launch of the context is left, frees the slot, with
the lane counts of the context. -/
def Sys2Proof.Spec.ContextCommandsWrite : Prop :=
  ∀ (s : State) (x : Ctx), getCtx s (cmdSlot s) = some x →
    let c := cmdSlot s
    let a := cmdArg s
    let makes (i : Instr) (y : Ctx) : Prop := Goes (exec i s) (fun t => t = ended 0 [] { s with ctxs := t.ctxs } ∧ CtxIs s t c y)
    let start := BitVec.ofNat 32 (a 3)
    let die := a 1 % 4
    let clus := die * 8 + a 1 / 4 % 8
    let base := a 1 / 2 ^ 5 % 512
    let count := a 1 / 2 ^ 14 % 1024
    let shares (w : Nat) : Prop := 0 < w / 512 ∧ 0 < count ∧ base < w % 512 + w / 512 ∧ w % 512 < base + min count (512 - base)
    (Runs s 3 → (if a 1 % 256 ≠ 0 ∨ a 2 % 32 = 0 ∨ 16 < a 2 % 32 then exec .qset s = .next (ended 2 [] s)
      else makes .qset { x with qbase := a 1, qlog := a 2 % 32, head := start, tail := start, run := true, err := false, ecode := 0 })) ∧
    (Runs s 4 → makes .qstop { x with run := false }) ∧
    (Runs s 5 → 512 < count → exec .semwin s = .next (ended 2 [] s)) ∧
    (Runs s 5 → count ≤ 512 → (if ∃ e ∈ s.ctxs, e.1 ≠ c ∧ shares (SMap.get 0 e.2.semwin clus) then
        exec .semwin s = .next (ended 2 [] s)
      else makes .semwin { x with semwin := SMap.set 0 x.semwin clus (base + 512 * min count (512 - base)) })) ∧
    (Runs s 0x0D → makes .ceil { x with mceil := a 1 % 2 ^ 64, wceil := min x.wceil (a 1 % 2 ^ 64) }) ∧
    (Runs s 0x0E → (if 16384 < a 1 % 2 ^ 16 then exec .quota s = .next (ended 2 [] s) else makes .quota { x with quota := a 1 % 2 ^ 16 })) ∧
    (Runs s 2 → ∀ i bs, x.record = some (i, bs) → (∀ l ∈ s.launches, l.ctx ≠ c) → Goes (exec .ctxend s) (fun t =>
      CtxIs s t c { x with run := false, record := none } ∧ t.hub.mb.stage = 1 ∧
      ∃ n, t.launches = s.launches ++ [n] ∧ n.ctx = c ∧ n.st = .retired ∧ n.code = 2 ∧ ∀ it ∈ n.items, it.icode = some (7, 0))) ∧
    (Runs s 2 → x.record = none → (∀ l ∈ s.launches, l.ctx ≠ c) → Goes (exec .ctxend s) (fun t => CtxIs s t c { x with run := false } ∧
      t = withMb { s with ctxs := t.ctxs } { s.hub.mb with stage := 1 } ∧
      Goes (exec .ctxend t) (fun u => u = ended 0 [] { s with ctxs := u.ctxs, hub := { s.hub with laneErr := u.hub.laneErr } } ∧
        getCtx u c = none ∧ (∀ d, d ≠ c → getCtx u d = getCtx s d) ∧
        ∀ k, SMap.get 0 u.hub.laneErr k = if k / 2 ^ 21 = c then 0 else SMap.get 0 s.hub.laneErr k)))

/-- R38, R357: CTXEND of a context with launches left clears RUN and cancels each: one not yet bound retires, every
item NOTRUN, a running one takes the code CANCELLED and each of its bound items a pre-emption request that is never
resumed; the command stays in hand while a launch of the context is left. -/
def Sys2Proof.Spec.CtxendCancelsLaunches : Prop :=
  ∀ (s : State) (x : Ctx), Runs s 2 → getCtx s (cmdSlot s) = some x → x.record = none → (s.launches.map (·.ltag)).Nodup →
    Goes (exec .ctxend s) (fun t => t.hub.mb.stage = 1 ∧ t.hub.mb.busy = true ∧
      (∃ y, getCtx t (cmdSlot s) = some y ∧ y.run = false) ∧
      ((∀ l ∈ s.launches, l.ctx = cmdSlot s → l.st = .queued ∨ l.st = .ready ∨ l.st = .retired) → t.launches =
        s.launches.map (fun l => if l.ctx = cmdSlot s ∧ l.st ≠ .retired then { l with
          st := .retired, code := 2, items := l.items.map (fun it => { it with st := .retired, icode := some (7, 0) }) } else l)) ∧
      (∀ l ∈ s.launches, l.ctx = cmdSlot s → l.st = .running → (l.items.map (·.idx)).Nodup →
        ∃ n, getLaunch t l.ltag = some n ∧ n.code = 2 ∧
          ∀ it ∈ l.items, OnPair it → ∃ it', getItem n it.idx = some it' ∧ it'.st = it.st ∧ it'.cancel = true ∧ it'.preq ≠ none) ∧
      ((∃ l ∈ s.launches, l.ctx = cmdSlot s) → exec .ctxend t = .next t))

/-- R38, R357: CANCEL retires a launch not yet bound, every item NOTRUN, a record whose checks wait for a page
included; a running one takes the code CANCELLED and each of its bound items a pre-emption request that is never
resumed; with no such launch it returns NOTFOUND. -/
def Sys2Proof.Spec.CancelEndsLaunch : Prop :=
  ∀ (s : State) (x : Ctx), Runs s 6 → getCtx s (cmdSlot s) = some x →
    let q := cmdArg s 1 % 2 ^ 32
    let read : Prop := ∃ bs, x.record = some (q, bs)
    (read → Goes (exec .cancel s) (fun t => CtxIs s t (cmdSlot s) { x with record := none } ∧ t.hub.mb.stage = 2 ∧
      t.hub.mb.rcode = 0 ∧ ∃ n, t.launches = s.launches ++ [n] ∧ n.ctx = cmdSlot s ∧ n.qidx = q ∧ n.st = .retired ∧ n.code = 2 ∧
        ∀ it ∈ n.items, it.icode = some (7, 0))) ∧
    (¬read → (∀ l ∈ s.launches, l.ctx = cmdSlot s → l.qidx = q → l.st = .retired) → exec .cancel s = .next (ended 5 [] s)) ∧
    (∀ l, ¬read → LaunchAt s (cmdSlot s) q l → (l.st = .queued ∨ l.st = .ready) →
      exec .cancel s = .next (ended 0 [] { s with launches := withLaunch s l.ltag (fun m => { m with
        st := .retired, code := 2, items := m.items.map (fun it => { it with st := .retired, icode := some (7, 0) }) }) })) ∧
    (∀ l, ¬read → LaunchAt s (cmdSlot s) q l → l.st = .running → (l.items.map (·.idx)).Nodup →
      Goes (exec .cancel s) (fun t => t.hub.mb.stage = 2 ∧ t.hub.mb.rcode = 0 ∧
        ∃ n, getLaunch t l.ltag = some n ∧ n.code = 2 ∧
          ∀ it ∈ l.items, OnPair it → ∃ it', getItem n it.idx = some it' ∧ it'.st = it.st ∧ it'.cancel = true ∧ it'.preq ≠ none))

/-- R332, R334, R375: HALT first asks for the halt, then, the pair drained, stops both harts and returns the record's
address; the pair stays bound; an item of a cluster that is not ON returns SLOTBUSY. RESUME puts back what the record
holds, or, where the record fails a check or cannot be read, ends both harts with code 2 and cause 0x14, or the
context where it lies over another key's sector (R204; log entry 43); of an item not halted it returns NOTFOUND (log
entry 33). -/
def Obligations.HaltedHartsAreReadAndWritten : Prop :=
  ∀ (s : State) (x : Ctx) (l : Launch) (it : Item) (a e : Hart) (p : Pair), getCtx s (cmdSlot s) = some x →
    ItemAt s l it a e → getPair s it.pair = some p →
    (Runs s 7 → it.halted = false → it.cancel = false → (cpcOf s (it.pair / 64)).st = 0 → (cpcOf s (it.pair / 64)).busy = false →
      exec .halt s = .next (withMb { s with launches := withItem s l.ltag it.idx (fun i => { i with haltReq := true }) }
        { s.hub.mb with stage := 1 })) ∧
    (Runs s 7 → it.cancel = false → ((cpcOf s (it.pair / 64)).st ≠ 0 ∨ (cpcOf s (it.pair / 64)).busy = true) →
      exec .halt s = .next (ended 3 [] s)) ∧
    (s.hub.mb.busy = true → s.hub.mb.stage = 1 → s.hub.mb.cmdOp = 7 → s.hub.bootResult = 1 → it.haltReq = true →
      (pairDrained s it.pair (l.ltag, it.idx) = true → RecordGoesOut s l it 3 → Goes (exec .halt s) (fun t =>
        (∃ l' i', getLaunch t l.ltag = some l' ∧ getItem l' it.idx = some i' ∧ i'.halted = true ∧ i'.haltReq = false) ∧
        getHart t (2 * it.pair) = some (if a.issue = .ended then a else { a with issue := .halted }) ∧
        getHart t (2 * it.pair + 1) = some (if e.issue = .ended then e else { e with issue := .halted }) ∧
        getPair t it.pair = some p ∧ t.hub.mb.stage = 2 ∧ t.hub.mb.rcode = 0 ∧ t.hub.mb.rvals = [wrap (it.saveVa.getD 0 : Nat)])) ∧
      (pairDrained s it.pair (l.ltag, it.idx) = false → exec .halt s = .next s)) ∧
    (Runs s 8 → it.halted = false → exec .resume s = .next (ended 5 [] s)) ∧
    (Runs s 8 → it.halted = true →
      let base := entryPair l it.idx (it.pair % 8) (scrBaseOf l (it.pair / 64)) (l.dsr.headD 0)
      (∀ r, parseRecord s (ctxOf s l.ctx) (it.saveVa.getD 0) base a e = .ok r → a.wait = none → e.wait = none →
        r.a.2.st ≠ 1 → r.e.2.st ≠ 1 →
        Goes (exec .resume s) (fun t => t.hub.mb.rcode = 0 ∧ getPair t it.pair = some r.p ∧
          (∃ h, getHart t (2 * it.pair) = some h ∧ h.pc = r.a.1.pc ∧ h.x = r.a.1.x ∧ h.issue = (if r.a.2.st = 2 then .ended else .ready)) ∧
          ∃ h, getHart t (2 * it.pair + 1) = some h ∧ h.pc = r.e.1.pc ∧ h.x = r.e.1.x ∧ h.issue = (if r.e.2.st = 2 then .ended else .ready))) ∧
      (∀ b, parseRecord s (ctxOf s l.ctx) (it.saveVa.getD 0) base a e = .error b → b ≠ .violation →
        Goes (exec .resume s) (fun t =>
          (∃ h, getHart t (2 * it.pair) = some h ∧ h.issue = .ended ∧ h.endCode = some (a.endCode.getD (2, 0x14, s.now))) ∧
          ∃ h, getHart t (2 * it.pair + 1) = some h ∧ h.issue = .ended ∧ h.endCode = some (e.endCode.getD (2, 0x14, s.now)))) ∧
      (parseRecord s (ctxOf s l.ctx) (it.saveVa.getD 0) base a e = .error .violation → exec .resume s =
        .next (ended 0 [] (failContext
          { s with launches := withItem s l.ltag it.idx (fun i => { i with halted := false }) } l.ctx))))

/-- R27, R336, R355, R357, R358, R370, R377: EVRING, LINKRATE, PKGCFG, ATTEST and SNAPREAD write their settings or the
host's buffer; an argument out of range returns BADARG, SNAPREAD with no snapshot NOTFOUND; of a buffer that leaves
the window the pieces of 64 bytes inside are written and the command returns WINDOW, a snapshot then still held (log
entry 64). The signatures and identity in the report are free (log entry 3). -/
def Obligations.PackageCommands : Prop :=
  ∀ s : State,
    let a := cmdArg s
    let inside (off n : Nat) : Prop := s.hub.fwpasid.getLsbD 20 = true ∧ off + n ≤ 4096 * s.hub.fwwins.toNat
    let at_ (off : Nat) : Nat := hostKey (s.hub.fwpasid.toNat % 2 ^ 20) (s.hub.fwwinb.toNat / 4096 * 4096 + off)
    let rate := a 1 / 16 % 256
    (Runs s 0x0A → (a 1 % 512 ≠ 0 ∨ a 2 % 32 < 4 ∨ 16 < a 2 % 32) → exec .evring s = .next (ended 2 [] s)) ∧
    (Runs s 0x0A → ¬(a 1 % 512 ≠ 0 ∨ a 2 % 32 < 4 ∨ 16 < a 2 % 32) → s.hub.evHeld = [] → exec .evring s =
      .next (ended 0 [] { s with hub := { s.hub with evBase := a 1, evLog := a 2 % 32, evOn := true, evhead := 0, evtail := 0 } })) ∧
    (Runs s 0x0B → exec .linkrate s = .next (if rate = 0 ∨ 224 < rate then ended 2 [] s
      else ended 0 [] { s with hub := { s.hub with linkRate := s.hub.linkRate.set (a 1 % 16) rate } })) ∧
    (Runs s 0x0C → (8 < a 1 / 2 ^ 8 % 16 ∨ a 1 / 2 ^ 12 % 2 ^ 20 ≠ 0) → exec .pkgcfg s = .next (ended 2 [] s)) ∧
    (Runs s 0x0C → ¬(8 < a 1 / 2 ^ 8 % 16 ∨ a 1 / 2 ^ 12 % 2 ^ 20 ≠ 0) → Goes (exec .pkgcfg s) (fun t =>
      t = ended 0 [] { s with hub := { s.hub with agestep := max 1 (a 1 % 256), dsrWant := a 1 / 2 ^ 8 % 16, dsrSteps := t.hub.dsrSteps } } ∧
      ∀ d < s.hub.dsrSteps.length, t.hub.dsrSteps.getD d 0 = if dieBusy s d then s.hub.dsrSteps.getD d 0 else a 1 / 2 ^ 8 % 16)) ∧
    let left (t : State) : State :=
      ended 7 [] { s with mem := t.mem, wlog := t.wlog, hub := { s.hub with accessLog := t.hub.accessLog } }
    (Runs s 9 → ¬inside (a 5) 30304 → Canonical s → Goes (exec .attest s) (fun t =>
      t = left t ∧ PiecesWritten s t inside at_ (a 5) 30304 (fun o => (reportBytes s).getD o 0))) ∧
    (Runs s 9 → inside (a 5) 30304 → Canonical s → Goes (exec .attest s) (fun t =>
      t = ended 0 [] { s with mem := t.mem, wlog := t.wlog } ∧
      (∀ k, (k < at_ (a 5) ∨ at_ (a 5) + 30304 ≤ k) → readByte t k = readByte s k) ∧
      bytesValue t (at_ (a 5)) 4 = 1 ∧ ∀ n < 4, bytesValue t (at_ (a 5) + 88 + 8 * n) 8 = a (1 + n) % 2 ^ 64)) ∧
    (Runs s 0x0F → s.hub.snapHeld = false → exec .snapread s = .next (ended 5 [] s)) ∧
    (Runs s 0x0F → s.hub.snapHeld = true → ¬inside (a 1) (2 ^ 18) → Canonical s → Goes (exec .snapread s) (fun t =>
      t = left t ∧ PiecesWritten s t inside at_ (a 1) (2 ^ 18) (fun o => snapByte s.hub o))) ∧
    (Runs s 0x0F → s.hub.snapHeld = true → inside (a 1) (2 ^ 18) → Canonical s → Goes (exec .snapread s) (fun t =>
      t.hub.snapHeld = false ∧ t.hub.snap = [] ∧ t.hub.mb.rcode = 0 ∧
      (∀ k, (k < at_ (a 1) ∨ at_ (a 1) + 2 ^ 18 ≤ k) → readByte t k = readByte s k) ∧
      ∀ o < 2 ^ 18, 8 ≤ o → readByte t (at_ (a 1) + o) = SMap.get 0 s.hub.snap o))

/-- R9, R10, R355, R360, R363, R368: what a host reads of BAR0 and BAR2: registers at their values, MBDOOR and
everything not listed as 0, as after a boot that failed every register outside the mailbox and BOOTST, any access but
4 or 8 aligned bytes as 0, four bytes as their half of a doubleword; the kick page of a slot; the capability list,
each entry with its ID, LENGTH and NEXT and its words in order (stepping and VERSION are free: log entry 3; the MEMORY
word counts the fewest die-shared steps of any die, the model's choice: log entry 61). A write of TAIL through BAR2 is
KICK_TAIL_WRITE. -/
def Obligations.HostReadsItsRegisters : Prop :=
  ∀ (s : State),
    let u := s.hub
    let m := u.mb
    let at_ (o : Nat) : Nat := bar0Read s (0x10000 + o) 8
    at_ 0 = m.op.toNat ∧
    at_ 8 = (if m.busy = true then 1 else 0) + (if m.drop = true then 2 else 0) + m.result % 2 ^ 8 * 2 ^ 8 ∧ at_ 0x10 = 0 ∧
    (∀ n : Fin 12, at_ (0x40 + 8 * n.val) = m.arg[n].toNat) ∧ (∀ n : Fin 4, at_ (0xC0 + 8 * n.val) = m.res[n].toNat) ∧
    (u.bootResult ≠ 2 → at_ 0x100 = u.fwwinb.toNat ∧ at_ 0x108 = u.fwwins.toNat ∧ at_ 0x110 = u.fwpasid.toNat ∧
      at_ 0x118 = u.evhead.toNat ∧ at_ 0x120 = u.evtail.toNat ∧ at_ 0x128 = u.evlost.toNat) ∧
    at_ 0x130 = u.bootStage % 16 + u.bootResult % 16 * 16 + u.bootBank % 2 * 2 ^ 8 + u.bootSvn % 2 ^ 32 * 2 ^ 32 ∧
    (∀ o, (0x10018 ≤ o ∧ o < 0x10040) ∨ (0x100A0 ≤ o ∧ o < 0x100C0) ∨ (0x100E0 ≤ o ∧ o < 0x10100) ∨ 0x10138 ≤ o →
      bar0Read s o 8 = 0) ∧
    (u.bootResult = 2 → ∀ o, 0x10100 ≤ o → o ≠ 0x10130 → bar0Read s o 8 = 0) ∧
    (∀ o n, (n ≠ 4 ∧ n ≠ 8) ∨ o % n ≠ 0 → bar0Read s o n = 0 ∧ bar2Read s o n = 0) ∧
    (∀ o, 0x10000 ≤ o → o % 8 = 0 → bar0Read s o 4 = bar0Read s o 8 % 2 ^ 32 ∧
      bar0Read s (o + 4) 4 = bar0Read s o 8 / 2 ^ 32 % 2 ^ 32) ∧
    (∀ e ∈ [(0, 1, 32, 32, [0x0480, 3]), (32, 2, 56, 88, [4, 8, 8, 4096, 8192, 4096, 32, 32, 512, 4096, 1400]),
        (88, 3, 40, 128, [8, 64, 96, u.dsrSteps.foldl min 8, 55, 52, 128, 64]),
        (128, 4, 32, 160, [u.pkgs, 0, u.reach, 16, 8, 224]), (160, 5, 32, 192, [1, 64, 4096, 256, 16, 16384]),
        (192, 6, 16, 0, [])],
      bar0Read s e.1 4 % 2 ^ 16 = e.2.1 ∧ bar0Read s e.1 4 / 2 ^ 24 = 0 ∧
        bar0Read s (e.1 + 4) 4 = e.2.2.1 + e.2.2.2.1 * 2 ^ 16 ∧
        ∀ n w, e.2.2.2.2[n]? = some w → bar0Read s (e.1 + 8 + 4 * n) 4 = w % 2 ^ 32) ∧
    bar0Read s 20 4 = u.bootSvn % 2 ^ 32 ∧ bar0Read s 24 4 = 0 ∧ (∀ o, 208 ≤ o → o < 0x10000 → bar0Read s o 8 = 0) ∧
    (∀ (c : Nat) (x : Ctx), c < 64 → getCtx s c = some x →
      bar2Read s (4096 * c) 8 = x.tail.toNat ∧ bar2Read s (4096 * c + 8) 8 = x.head.toNat ∧
      bar2Read s (4096 * c + 0x10) 8 = (if x.run = true then 1 else 0) + (if x.err = true then 2 else 0) + x.ecode % 16 * 16 ∧
      ∀ o, 0x18 ≤ o → o < 4096 → bar2Read s (4096 * c + o) 8 = 0) ∧
    (∀ (c : Nat) (v : Dword), c < 64 → exec (.kickTailWrite c (v.extractLsb' 0 32)) s = .next (bar2Write s (4096 * c) 8 v)) ∧
    ∀ o v, o % 4096 ≠ 0 → bar2Write s o 8 v = s

namespace Sys2Proof.Spec

/-- The power controller of a cluster changed, and no other. -/
def CpcIs (s t : State) (c : Nat) (x : Cpc) : Prop := cpcOf t c = x ∧ ∀ d, d ≠ c → cpcOf t d = cpcOf s d

/-- CYC of a core, by its number in the package. -/
def cyc (s : State) (core : Nat) : Nat := cycOf s (core * 16)

/-- The state after `n` more cycles of the package count. -/
def later (s : State) (n : Nat) : State := { s with now := s.now + n }

/-- A command of a power controller accepted and not begun (R373). -/
def PowerCmd (s : State) (c cmd : Nat) : Prop :=
  (cpcOf s c).busy = true ∧ (cpcOf s c).cmd = cmd ∧ (cpcOf s c).running = false

/-- Items bound in a cluster. -/
def BoundIn (s : State) (c t i : Nat) : Prop := ∃ e ∈ allPairs s, e.1 / 64 = c ∧ e.2.item = some (t, i)

/-- What QUIESCE waits for in a cluster: an item bound there, a command of its copy engines, an access (R373). -/
def ClusterBusy (s : State) (c : Nat) : Prop :=
  (∃ t i, BoundIn s c t i) ∨ (∃ m ∈ s.cmds, m.tce / 4 = c) ∨ ∃ r ∈ s.reqs, r.hart / 128 = c

/-- A wake that has come to its third step, where the scratchpad is checked (R374). -/
def ChecksScratch (s : State) (x : Cpc) : Prop :=
  ∃ n, x.wakeFrom = some n ∧ 2 ≤ n ∧ n < 5 ∧ x.running = true ∧ (n = 2 ∨ 50 ≤ (s.hub.refNow - x.began) / 14)

/-- A package that working cables join to the bridging one, as a path of them (R354); 31 cables pass every package. -/
def Joined (cs : List (Nat × Nat)) (k : Nat) : Prop :=
  ∃ path : List Nat, path.head? = some 0 ∧ path.getLast? = some k ∧ path.length ≤ 32 ∧
    ∀ n a b, path[n]? = some a → path[n + 1]? = some b → ∃ c ∈ cs, c.1 / 16 = a ∧ c.2 / 16 = b

/-- The dies that traffic between two passes on its way, itself and its end included (R14): 0 is the hub die, n + 1
die Cn. -/
def dieRoute (a b : Nat) : List Nat :=
  match (b + 5 - a) % 5 with
  | 0 => [a]
  | 1 => [a, b]
  | 2 => [a, (a + 1) % 5, b]
  | 3 => [a, (a + 4) % 5, b]
  | _ => [a, b]

/-- Traffic between two dies passes the link that joins die l and the next round the ring. -/
def PassesLink (a b l : Nat) : Prop :=
  ∃ n x y, (dieRoute a b)[n]? = some x ∧ (dieRoute a b)[n + 1]? = some y ∧
    ((x = l ∧ y = (l + 1) % 5) ∨ (y = l ∧ x = (l + 1) % 5))

/-- A hart ends with MEDIA, or with what had ended it before (R337). -/
def EndsMedia (s t : State) (hart : Nat) : Prop :=
  ∀ h, getHart s hart = some h →
    ∃ h', getHart t hart = some h' ∧ h'.issue = .ended ∧ h'.endCode = some (h.endCode.getD (4, 0, s.now))

end Sys2Proof.Spec

/-- R372, R373: a write of CMD 1 to 4 that is the next step after STATE, nothing running, is accepted; another sets
ERR with ECODE 1; 0 and 5 to 7 change nothing. A 1 in WAKE is ignored in ON and during a wake, else accepted, and
follows a command that runs. A 1 in DONE or ERR of STATE clears it and changes nothing else there; bit 0 of a write of
SCRRET is its new value; both registers read as their fields, their reserved bits 0. -/
def Sys2Proof.Spec.CpcRegistersTakeWrites : Prop :=
  ∀ (s : State) (c v : Nat), c < 32 →
    let x := cpcOf s c
    let cmd := v % 8
    CpcIs s (writeLoc s (cpcKey c 0) v 8) c
      (if cmd = 0 ∨ 4 < cmd then x
       else if x.busy = false ∧ cmd = x.st + 1 then
         { x with busy := true, done := false, err := false, ecode := 0, cmd := cmd, began := s.hub.refNow, running := false }
       else { x with err := true, ecode := 1 }) ∧
    (v % 2 = 0 ∨ x.wakeFrom ≠ none ∨ x.st = 0 → CpcIs s (writeLoc s (cpcKey c 0x10) v 8) c x) ∧
    (v % 2 = 1 → x.wakeFrom = none → x.cmd = 0 → x.st ≠ 0 → CpcIs s (writeLoc s (cpcKey c 0x10) v 8) c
      { x with done := false, err := false, ecode := 0, busy := true, wakeFrom := some x.st, began := s.hub.refNow }) ∧
    (v % 2 = 1 → x.wakeFrom = none → x.cmd ≠ 0 → x.st ≠ 0 → CpcIs s (writeLoc s (cpcKey c 0x10) v 8) c
      { x with done := false, err := false, ecode := 0, busy := true, wakeFrom := some 5 }) ∧
    CpcIs s (writeLoc s (cpcKey c 0x08) v 8) c { x with done := x.done && !v.testBit 4, err := x.err && !v.testBit 5 } ∧
    CpcIs s (writeLoc s (cpcKey c 0x18) v 8) c { x with scrret := v.testBit 0 } ∧
    readLoc s (cpcKey c 0x08) 8 = x.st + 8 * (if x.busy then 1 else 0) + 16 * (if x.done then 1 else 0) +
      32 * (if x.err then 1 else 0) + 256 * x.ecode ∧
    readLoc s (cpcKey c 0x18) 8 = (if x.scrret then 1 else 0)

/-- R24, R373: the first step of each power command: QUIESCE fails with ECODE 2 for a halted item, else asks every
item bound in the cluster to leave; RETAIN fails with ECODE 3 for a scratchpad held with SCRRET 0, else holds CYC of
the cluster's cores and loses their TCMs, and the scratchpad where SCRRET is 0; CLKGATE holds CYC; RAILOFF runs. A
command not accepted does nothing. LAST counts the reference clock, 14 core cycles to one of it, and of a QUIESCE is
the table's where it finds nothing to wait for (log entry 16). -/
def Sys2Proof.Spec.PowerCommandsBegin : Prop :=
  ∀ (s : State) (c : Nat),
    let x := cpcOf s c
    let halted : Prop := ∃ t i l it, BoundIn s c t i ∧ getLaunch s t = some l ∧ getItem l i = some it ∧ it.halted = true
    let failed (n : Nat) : Cpc := { x with err := true, ecode := n, cmd := 0, running := false, busy := false,
                                           last := (s.hub.refNow - x.began) / 14 }
    (PowerCmd s c 1 → halted → x.wakeFrom = none → Goes (exec (.cpcQuiesce c) s) (fun t =>
      t = { s with cpcs := t.cpcs } ∧ CpcIs s t c (failed 2))) ∧
    (PowerCmd s c 1 → ¬halted → Goes (exec (.cpcQuiesce c) s) (fun t =>
      t = { s with cpcs := t.cpcs, launches := t.launches } ∧ (∃ b : Bool, (b = true ↔ ClusterBusy s c) ∧
        CpcIs s t c { x with running := true, loaded := b }) ∧
      ∀ tag i l it, BoundIn s c tag i → getLaunch s tag = some l → getItem l i = some it →
        ∃ l' it', getLaunch t tag = some l' ∧ getItem l' i = some it' ∧ it'.preq = some (it.preq.getD 0))) ∧
    (PowerCmd s c 2 → x.scrret = false → scrUsed s c ≠ [] → x.wakeFrom = none → Goes (exec (.cpcRetain c) s) (fun t =>
      t = { s with cpcs := t.cpcs } ∧ CpcIs s t c (failed 3))) ∧
    let held (t : State) : Prop := (∀ k < 8, ∀ n, cyc (later t n) (8 * c + k) = cyc s (8 * c + k)) ∧
      ∀ g n, g / 8 ≠ c → cyc (later t n) g = cyc (later s n) g
    (PowerCmd s c 2 → (x.scrret = true ∨ scrUsed s c = []) → Canonical s → Goes (exec (.cpcRetain c) s) (fun t =>
      t = { s with cpcs := t.cpcs, cyc := t.cyc, mem := t.mem, poison := t.poison, wlog := t.wlog } ∧
      CpcIs s t c { x with running := true } ∧ held t ∧
      ∀ a, (∀ k < 8, ¬(tcmKey (c * 128 + k * 16) 0 ≤ a ∧ a < tcmKey (c * 128 + k * 16) 0 + 2 ^ 19)) →
        (x.scrret = true ∨ ¬(scrKey (c * 128) 0 ≤ a ∧ a < scrKey (c * 128) 0 + 2 ^ 22)) → readByte t a = readByte s a)) ∧
    (PowerCmd s c 3 → Canonical s → Goes (exec (.cpcClkgate c) s) (fun t =>
      t = { s with cpcs := t.cpcs, cyc := t.cyc } ∧ CpcIs s t c { x with running := true } ∧ held t)) ∧
    (PowerCmd s c 4 → Goes (exec (.cpcRailoff c) s) (fun t =>
      t = { s with cpcs := t.cpcs } ∧ CpcIs s t c { x with running := true })) ∧
    (∀ n i, ((i, n) ∈ [(Instr.cpcQuiesce c, 1), (.cpcRetain c, 2), (.cpcClkgate c, 3), (.cpcRailoff c, 4)]) →
      ¬PowerCmd s c n → exec i s = .next s)

/-- R24, R372, R373, R374, R398: times count the 100 MHz reference clock, which every 14 core cycles are one of and
which no trip stops (log entry 16). A command ends by setting STATE, LAST and DONE and clearing BUSY in one step once
its stated cycles have passed, QUIESCE once nothing of the cluster is left; LAST is the table's figure, of a QUIESCE
that had something to wait for the cycles it took (R398); a wake ends in ON once the steps its state requires have
taken their cycles, LAST counting those steps and the rail's time, with ECODE 4 where the scratchpad's check failed,
every CYC going on from what it held; a rail that is not up after 2,000 cycles ends it in RAILOFF with ECODE 5 and no
DONE, logged. -/
def Sys2Proof.Spec.PowerCommandsEnd : Prop :=
  ∀ (s : State) (c : Nat),
    let x := cpcOf s c
    let figure : Nat := match x.cmd with | 1 => 200 | 2 => 400 | 3 => 10 | 4 => 500 | _ => 0
    let steps (st : Nat) : Nat := match st with | 2 => 1000 | 3 => 1050 | 4 => 1050 | _ => 0
    (x.busy = true → x.running = true → x.cmd ≠ 0 → x.wakeFrom = none →
      figure ≤ (s.hub.refNow - x.began) / 14 →
      (x.cmd = 1 → ¬ClusterBusy s c) →
      Goes (exec (.cpcCommandDone c) s) (fun t => t = { s with cpcs := t.cpcs } ∧ CpcIs s t c
        { x with st := x.cmd, cmd := 0, running := false, busy := false, done := true,
                 last := if x.cmd = 1 ∧ x.loaded = true then (s.hub.refNow - x.began) / 14 else figure })) ∧
    (∀ n, x.wakeFrom = some n → n < 5 → x.running = false → x.cmd = 0 → Goes (exec (.cpcWake c) s) (fun t =>
      t = { s with cpcs := t.cpcs } ∧ CpcIs s t c { x with running := true })) ∧
    (∀ n, x.wakeFrom = some n → x.running = true → x.cmd = 0 → steps n ≤ (s.hub.refNow - x.began) / 14 → Canonical s →
        (∀ k < 8, SMap.get 0 s.cyc (8 * c + k) / 2 ≤ s.now) →
      Goes (exec (.cpcWakeDone c) s) (fun t => t = { s with cpcs := t.cpcs, cyc := t.cyc } ∧
        CpcIs s t c { x with st := 0, busy := false, done := true, running := false, wakeFrom := none, lost := false,
                             ecode := if x.lost = true then 4 else x.ecode,
                             last := if n = 4 then 1050 + min 2000 ((s.hub.refNow - x.began) / 14 - 1050) else steps n } ∧
        ∀ k < 8, ∀ m, cyc (later t m) (8 * c + k) = cyc s (8 * c + k) + m)) ∧
    (x.wakeFrom = some 4 → x.running = true → x.cmd = 0 → x.lost = false → 2000 ≤ (s.hub.refNow - x.began) / 14 → Goes (exec (.cpcRailTimeout c) s) (fun t =>
      CpcIs s t c { x with err := true, ecode := 5, st := 4, busy := false, running := false, wakeFrom := none,
                           last := 2000 } ∧ t.hub.logSeq = s.hub.logSeq + 1 ∧ t.h = s.h)) ∧
    (x.busy = false → exec (.cpcCommandDone c) s = .next s) ∧
    (x.running = false → exec (.cpcWakeDone c) s = .next s ∧ exec (.cpcRailTimeout c) s = .next s)

/-- R336, R353, R358, R368, R371: package reset leaves HBM and host memory and clears every other byte, contexts,
launches, requests, engine commands, semaphores, holds and bind records; the first bank whose checks pass boots, its
cores starting in their private firmware memory (where, is free: log entry 5), and with none RESULT is 2; the fused
counter never falls, the power clamp stays at most 1,400 W, the numbering and the cables of the group stay; group
reset numbers the packages too, the bridging one first, each that cables join to one numbered (log entry 12). On-die
bytes read 0 then (log entry 4; that HBM and host memory outlast it is log entry 41). The watchdog restarts the hub
core and sends its event, into the ring where it has room, else held, which before the first ring is log entry 69; the
thermal trip stops every core's clock. -/
def Obligations.ResetsAndTripsClear : Prop :=
  ∀ (s : State) (n : Nat), Canonical s →
    let goes (b : Nat) : Prop := Config.bankGood b = true ∧ max s.hub.fused (Config.bankSvn 2) ≤ Config.bankSvn b
    let booted (t : State) : Prop :=
      (goes 0 → t.hub.bootBank = 0 ∧ t.hub.bootResult = 1) ∧
      (¬goes 0 → goes 1 → t.hub.bootBank = 1 ∧ t.hub.bootResult = 1) ∧
      (¬goes 0 → ¬goes 1 → t.hub.bootResult = 2) ∧ s.hub.fused ≤ t.hub.fused ∧ t.hub.clamp ≤ 1400 ∧
      t.ctxs = [] ∧ t.launches = [] ∧ t.reqs = [] ∧ t.cmds = [] ∧ t.sems = [] ∧ t.holds = [] ∧ t.pairs = [] ∧ t.slots = [] ∧
      (∀ a, readByte t a = if isHbm a = true ∨ isHost a = true then readByte s a else 0) ∧
      ∀ id h, getHart t id = some h → h.level = 2 ∧ h.wait = none ∧ (t.hub.bootResult = 1 → h.issue = .ready ∧
        ∃ off < 2 ^ 20, h.pc = BitVec.ofNat 64 ((2 ^ 15 - 1) * 2 ^ 40 + off) ∧ off % 2 = 0)
    Goes (exec .packageReset s) (fun t => booted t ∧ t.hub.pkgs = s.hub.pkgs ∧ t.hub.reach = s.hub.reach ∧ t.hub.cables = s.hub.cables ∧
      (t.hub.bootResult = 1 → t.hub.bootStage = 2)) ∧
    (1 ≤ n → n ≤ 32 → Goes (exec (.groupReset n) s) (fun t => booted t ∧
      (t.hub.bootResult = 1 → t.hub.bootStage = 3 ∧
        let l := numbering n
        t.hub.pkgs = l.length ∧ (∀ k, t.hub.reach.testBit k = decide (k < l.length)) ∧ t.hub.cables = groupCables n ∧
          l.head? = some 0 ∧ l.Nodup ∧ (∀ x ∈ l, x < n) ∧
          ∀ x ∈ l, ∀ p < 16, ∀ e, cableTo n (16 * x + p) = some e → e / 16 ∈ l))) ∧
    ((n = 0 ∨ 32 < n) → exec (.groupReset n) s = .next s) ∧
    (∀ h, getHart s hubId = some h → (RingRoom s ∧ RingInWindow s ∨ ¬RingRoom s ∧ s.hub.evHeld.length < 256) →
      Goes (exec .watchdogExpiry s) (fun t => (∃ g, getHart t hubId = some g ∧ g.level = 2 ∧ g.issue = .ready ∧ g.wait = none) ∧
        (RingRoom s → EventInRing s t 4) ∧ (¬RingRoom s → EventHeld s t 4) ∧
        ∀ id, id ≠ hubId → getHart t id = getHart s id)) ∧
    Goes (exec .thermalTrip s) (fun t => t = { s with hub := { s.hub with tripped := true } } ∧ ∀ id h, canIssue t id h = false)

/-- R376, R377: SNAPTRG_N starts a snapshot event with SRC 2, ignored while one is held and until it has been high
since it last went low, also while one was held (log entry 40); of the hub only the snapshot and the event ring
change; writing REL releases a held one; SNAPOUT_N rises at the end of its pulse. That SRC and the latched bytes read
0 after a release is log entry 86. -/
def Sys2Proof.Spec.SnapshotTriggers : Prop :=
  ∀ s : State,
    (s.hub.snapHeld = true ∨ s.hub.snapLow = true →
      exec .snaptrgN s = .next { s with hub := { s.hub with snapLow := true } }) ∧
    (s.hub.snapHeld = false → s.hub.snapLow = false → Canonical s → Goes (exec .snaptrgN s) (fun t =>
      t = { s with hub := t.hub, mem := t.mem, wlog := t.wlog } ∧ SnapHub s t ∧
      (∀ a, isHost a = false → readByte t a = readByte s a) ∧ t.hub.snapHeld = true ∧ t.hub.snapSrc = 2 ∧
      t.hub.snapSeq = s.hub.snapSeq + 1 ∧ t.hub.snapOut = true ∧ t.hub.snapLow = true ∧ t.hub.snap = snapshotBytes s none)) ∧
    exec .snapctlRel s = .next (if s.hub.snapHeld = true then
      { s with hub := { s.hub with snapHeld := false, snapSrc := 0, snap := [] } } else s) ∧
    exec .snapoutNPulseEnd s = .next { s with hub := { s.hub with snapOut := false } }

/-- R14, R337, R348, R349, R350, R354: a failed cable is gone, an Oceno port of this package down, and the packages
that no path joins are no longer reached; the item of an access in flight to one ends with MEDIA, an engine command's
wherever it is bound now, and so does that of an access whose fixed route, no link of it down before, passes a link of
the ring that fails and is down from then on (what goes round a link that is down is log entry 78). An error detected
is logged; corrected it changes no value; uncorrected it poisons a memory sector or an accumulator word, ends the item
of unit 10, the waiting or saved item of unit 14, sets ERR of a semaphore or takes a port down, and fails the check of
a waking cluster's scratchpad; of units 6 and 8 it falls to the checked or matrix instruction at the head of the
pair's queue (log entry 29). Under REPMASK the report has REPSEV's severity. An event of units 0 to 4 that an engine
command met raises its notice on the access hart of the command's item, saved with it while the item is off its pair
(R349). What the operands name are log entries 34 and 88. -/
def Sys2Proof.Spec.ErrorsHaveTheirOutcome : Prop :=
  ∀ (s : State),
    (∀ port pkg, port < 21 → pkg < 32 → Goes (exec (.linkFailure port pkg) s) (fun t =>
      let end_ := 16 * pkg + port
      (∀ c, c ∈ t.hub.cables ↔ c ∈ s.hub.cables ∧ (port < 16 → ∀ f, s.hub.cables.find? (fun c => c.1 == end_) = some (end_, f) →
        c ≠ (end_, f) ∧ c ≠ (f, end_))) ∧
      t.hub.linkUp = (if port < 16 ∧ pkg = 0 then s.hub.linkUp.set port false else s.hub.linkUp) ∧
      (∀ k < 32, t.hub.reach.testBit k = true ↔
        if port < 16 then k = 0 ∨ (s.hub.reach.testBit k = true ∧ Joined t.hub.cables k) else s.hub.reach.testBit k = true) ∧
      (∀ e, e ∈ t.hub.ringDown ↔ e ∈ s.hub.ringDown ∨ (16 ≤ port ∧ e = (pkg, port - 16))) ∧
      t.hub.logSeq = s.hub.logSeq + 1 ∧
      ∀ r ∈ s.reqs, domOf r.key = r.dom →
        let ends : Prop :=
          (r.cmd = none → ∀ p, getPair s (r.hart / 2) = some p → p.item ≠ none → EndsMedia s t r.hart) ∧
          (∀ tag i l it, r.cmd = some (tag, i) → getLaunch s tag = some l → getItem l i = some it → OnPair it →
            EndsMedia s t (2 * it.pair) ∧ EndsMedia s t (2 * it.pair + 1))
        (r.dom < 32 → s.hub.reach.testBit r.dom = true → t.hub.reach.testBit r.dom = false → ends ∧ r ∉ t.reqs) ∧
        (16 ≤ port → pkg = 0 → (∀ k, PassesLink (ringPos r.hart) (homePos r.key) k → (0, k) ∉ s.hub.ringDown) →
          PassesLink (ringPos r.hart) (homePos r.key) (port - 16) → ends))) ∧
    (∀ port pkg, (21 ≤ port ∨ 32 ≤ pkg) → exec (.linkFailure port pkg) s = .next s) ∧
    (∀ unit inst addr unc hart, 16 ≤ unit → exec (.hwErrorDetected unit inst addr unc hart) s = .next s) ∧
    (∀ unit inst addr flag hart, unit < 16 → unit ≠ 6 → unit ≠ 8 → Canonical s →
      let unc := if s.hub.repmask.getLsbD unit = true then s.hub.repsev else flag
      Goes (exec (.hwErrorDetected unit inst addr flag hart) s) (fun t => t.hub.logSeq = s.hub.logSeq + 1 ∧
        t.hub.repmask.getLsbD unit = false ∧ (unit = 13 → unc = true →
          t.hub.linkUp = if inst < 16 then s.hub.linkUp.set inst false else s.hub.linkUp) ∧
        ((unc = false ∨ unit = 11) → (hart < 2 ^ 20 ∨ 4 < unit) → t = { s with h := t.h, harts := t.harts, hub := t.hub, mem := t.mem, wlog := t.wlog } ∧
          (∀ a, isHost a = false → readByte t a = readByte s a) ∧ ∀ id h, getHart s id = some h →
            ∃ g, getHart t id = some g ∧ g = { h with errNote := g.errNote }) ∧
        (unc = true → (unit = 3 → ∀ c, (c = addr / 2 ^ 32 % 2 ^ 19 / 128 ∧ ChecksScratch s (cpcOf s c) →
            cpcOf t c = { cpcOf s c with lost := true }) ∧
            (¬(c = addr / 2 ^ 32 % 2 ^ 19 / 128 ∧ ChecksScratch s (cpcOf s c)) → cpcOf t c = cpcOf s c)) ∧
          (unit ≤ 4 → isPois t addr = true ∧ ∀ a, a / 64 ≠ addr / 64 → isPois t a = isPois s a) ∧
          ((unit = 7 ∨ unit = 9) → ∀ p, getPair s (hart / 2) = some p → addr / lanesOf p < p.acc.length →
            ∃ q, getPair t (hart / 2) = some q ∧ (q.acc.getD (addr / lanesOf p) {}).pois.testBit (addr % lanesOf p) = true) ∧
          (let saved : Prop := ∃ l it, getLaunch s (addr / 2 ^ 40) = some l ∧ getItem l (addr % 2 ^ 40) = some it ∧ it.st = .preempted
           ((unit = 10 ∨ (unit = 14 ∧ ¬saved)) → ∀ p h, getPair s (hart / 2) = some p → p.item ≠ none → getHart s hart = some h →
             ∃ h', getHart t hart = some h' ∧ h'.issue = .ended ∧ h'.endCode = some (h.endCode.getD (4, 0, s.now))) ∧
           (unit = 14 → saved → ∃ l it, getLaunch t (addr / 2 ^ 40) = some l ∧ getItem l (addr % 2 ^ 40) = some it ∧
             it.st = .preempted ∧ it.icode = some (4, 0))) ∧
          (unit = 12 → (SMap.get 0 t.sems addr).getLsbD 32 = true ∧
            (SMap.get 0 t.sems addr).toNat % 2 ^ 32 = (SMap.get 0 s.sems addr).toNat % 2 ^ 32)))) ∧
    (∀ (unit inst addr : Nat) (flag : Bool) (m : Cmd) (l : Launch) (it : Item), unit ≤ 4 →
      s.cmds.find? (fun c => c.id == m.id) = some m → getLaunch s m.item.1 = some l → getItem l m.item.2 = some it →
      let unc := if s.hub.repmask.getLsbD unit = true then s.hub.repsev else flag
      let chk := (ctxOf s m.ctx).chkctl
      let told : Bool := if unc = true then chk.getLsbD 17 else chk.getLsbD 16
      let noted (h : Hart) : Hart := if told = true then
        { h with errNote := some (h.errNote.getD (wrap (unit + if unc = true then 16 else 0 : Nat))) } else h
      Goes (exec (.hwErrorDetected unit inst addr flag (2 ^ 20 + m.id)) s) (fun t => t.hub.logSeq = s.hub.logSeq + 1 ∧
        (OnPair it → ∀ h, getHart s (2 * it.pair) = some h → getHart t (2 * it.pair) = some (noted h)) ∧
        (it.st = .preempted → ∃ l' it', getLaunch t m.item.1 = some l' ∧ getItem l' m.item.2 = some it' ∧
          it' = { it with harts := it'.harts } ∧
          ∀ h, lookupKey it.harts 0 = some h → lookupKey it'.harts 0 = some (noted h)))) ∧
    (∀ unit inst addr flag hart p, unit = 6 ∨ unit = 8 → getPair s (hart / 2) = some p →
      (p.dq = [] → exec (.hwErrorDetected unit inst addr flag hart) s = .next s) ∧
      ∀ e rest, p.dq = e :: rest →
        let meets : Prop := e.role = hart % 2 ∧ (if unit = 6 then e.checked = true ∧ addr ∈ votePlaces p e
          else (cimRow e.instr).isSome = true ∧ addr < p.tile.nt)
        (¬meets → exec (.hwErrorDetected unit inst addr flag hart) s = .next s) ∧ (meets →
        let rep := s.hub.repmask.getLsbD unit
        let unc := if rep = true then s.hub.repsev else flag
        Goes (exec (.hwErrorDetected unit inst addr flag hart) s) (fun t => t.hub.logSeq = s.hub.logSeq + 1 ∧
          ∃ more, getPair t (hart / 2) = some { p with dq := { e with votes := e.votes ++ more } :: rest } ∧
            (unc = true → more = [{ elem := addr, kind := if unit = 6 ∧ rep = false then .differ else .report }]) ∧
            (unc = false → more = [] ∨ (unit = 6 ∧ rep = false ∧ more = [{ elem := addr, kind := .wrong }])))))

/-- R119, R184, R340, R344: what an instruction leaves whose check failed at a position, beside the run that met no
fault: a checked instruction's position, one it writes, is poisoned, its bits there free, every other position and kp
bit as that run left them, FPST changing, where it may raise flags, by the flags of the free value kept alone (R119);
a scalar result is not written and POISON taken (of VSETVF that or a position: log entry 29); a matrix row's words of
that column's macro are poisoned, all words kept (log entry 29). -/
def Sys2Proof.Spec.FailedVotesPoison : Prop :=
  ∀ (e : VEntry) (before : State) (d : Done) (j : Nat) (k : VoteKind), e.votes = [{ elem := j, kind := k }] →
    let r := voteLoss e before d
    (cimRow e.instr = none → d.res = none → d.trap = none → k = .differ → j ∈ writesOf before.p e → PairShape d.s.p →
      r.res = none ∧ r.trap = none ∧ r.s = { d.s with p := r.s.p, h := { d.s.h with fpst := r.s.h.fpst } } ∧
      (mayFlag before.p e = false → r.s.h = d.s.h) ∧
      (r.s.h.fpst = d.s.h.fpst ∨ ∀ n, before.h.fpst.getLsbD n = true → r.s.h.fpst.getLsbD n = true) ∧ r.s.p.kp.testBit j = true ∧
      (∀ i, i ≠ j → r.s.p.kp.testBit i = d.s.p.kp.testBit i) ∧
      ∀ n i, (i ≠ j ∨ e.dest ≠ some n) → lane r.s.p n i = lane d.s.p n i) ∧
    (cimRow e.instr = none → d.res = none → d.trap = none → j ∉ writesOf before.p e → r = d) ∧
    (cimRow e.instr = none → d.res ≠ none → k ≠ .wrong → (∀ x f g n, e.instr ≠ .vsetvf x f g n) → r.s = before ∧ r.res = none ∧ ∃ x, r.trap = some x ∧ x.cause = 0x0A) ∧
    (∀ n, cimRow e.instr = some n → n < d.s.p.acc.length →
      r.s = { d.s with p := { d.s.p with acc := r.s.p.acc } } ∧
      (∀ m, (r.s.p.acc.getD m {}).w = (d.s.p.acc.getD m {}).w) ∧
      ∀ m i, (r.s.p.acc.getD m {}).pois.testBit i = ((d.s.p.acc.getD m {}).pois.testBit i ||
        (decide (m = n) && decide (i < d.s.p.tile.nt) && decide (i / colsOf d.s.p.tile.tag = j / colsOf d.s.p.tile.tag))))

namespace Sys2Proof.Spec

/-! ## The step (spec/03_encoding.md R57-R59; spec/13_isolation.md R322, R326, R327) -/

/-- The address a halfword is fetched from: at its offset from the PC, in an out-of-line run from TXOL (R326). -/
def fetchedFrom (h : Hart) (off : Dword) : Dword :=
  match h.xol with
  | some (a, b) => b + (h.pc + off - a)
  | none => h.pc + off

/-- A halfword that the hart in focus fetches at an offset from its PC lies at `key`, its sector good; FLUSHI has
followed every change of it (R327). -/
def FetchAt (s : State) (off : Dword) (key gen : Nat) : Prop :=
  resolve s s.p s.cur (ctxOf s s.p.ctx) (s.h.level == 0 && s.h.xol.isNone) (fetchedFrom s.h off).toNat 2 .fetch = .ok ⟨key, gen⟩ ∧
    checkSector s key gen = .good ∧ ∀ e ∈ s.wlog, s.h.flushAt ≤ e.1 → e.2.1 ≠ key ∧ e.2.1 ≠ key + 1

/-- The two bytes of a halfword; in an M core's private memory the verified image gives what nothing has written (log
entry 5). -/
def halfAt (s : State) (key : Nat) : List Byte :=
  if spaceOf key = 8 then [BitVec.ofNat 8 (locValue s key 2), BitVec.ofNat 8 (locValue s key 2 / 256)]
  else [readByte s key, readByte s (key + 1)]

/-- The bytes of the instruction at the PC (R57): one halfword, or two when bit 0 of the first is 1. -/
def InstructionAt (s : State) (bs : List Byte) : Prop :=
  ∃ k g, FetchAt s 0 k g ∧
    ((((halfAt s k).headD 0).toNat % 2 = 0 ∧ bs = halfAt s k) ∨
     (((halfAt s k).headD 0).toNat % 2 = 1 ∧ ∃ k' g', FetchAt s 2 k' g' ∧ bs = halfAt s k ++ halfAt s k'))

/-- The hart issues an instruction next: no STEP is pending and no execute breakpoint matches (R322), nor, on a core
of M, is an integrity violation that an earlier write met still to be taken (log entry 68). -/
def Issues (s : State) : Prop := s.h.integrity = false ∧ s.h.stepDue = false ∧ bpExec s.h s.h.pc.toNat = none

/-- Every hart runs at a level its core has (R310): U or S on a user core, M on a core of M; items lie on user cores. -/
def LevelsLegal (s : State) : Prop :=
  (∀ e ∈ allHarts s, if kindOf e.1 = 0 then e.2.level ≤ 1 else e.2.level = 2) ∧
  (∀ l ∈ s.launches, ∀ it ∈ l.items, it.pair < 2048 ∧ ∀ e ∈ it.harts, e.2.level ≤ 1)

/-- Every pair of the machine has its lists in shape. -/
def PairsShaped (s : State) : Prop := ∀ e ∈ allPairs s, PairShape e.2

/-- The words of an instruction's encoding, in memory order. -/
def codeBytes : Code → List Byte
  | .word w => [w.extractLsb' 0 8, w.extractLsb' 8 8, w.extractLsb' 16 8, w.extractLsb' 24 8]
  | .half w => [w.extractLsb' 0 8, w.extractLsb' 8 8]
  | .event => []

/-- Worked words of the spec, each with the instruction its text says it is. -/
def exampleWords : List (Word × Instr) :=
  [(0x04CE6283, .div 5 6 7), (0x00060287, .addi 5 0 3), (0x017E9413, .srai 8 9 63), (0x12345315, .lih 6 0x12345),
   (0xFF0C5E19, .bltu 5 6 (-4)), (0x01803319, .bse 3 6), (0x40CE6285, .fma 5 6 7 0 8), (0xF812A49F, .ldbu 9 10 0 0 (-3)),
   (0xF80E2F21, .std 2 7 0 0 (-1)), (0xA64E62AB, .amoMinuD 5 6 7 1 3 0 1), (0x560E62AF, .casD 5 6 7 0 3 1 0),
   (0x000062B7, .setvl 5 6), (0x030062B7, .setvt 5 6 4), (0x2C420247, .vtag 4 0x21), (0x140044C5, .kpopc 9 4)] ++
  [(0x1C009547, .vpair 10 9 0), (0x08008249, .vred 4 8 0 2), (0x0A1212CB, .vsplit 5 1 9 0), (0x008613CB, .vsetvf 7 1 3 2),
   (0x0C041143, .vmul 2 1 2 0 0), (0x0400CA37, .settl 20 12), (0x02130057, .tload 16 9), (0x0C0001D7, .accz 3 0),
   (0x048081D7, .mmrow 3 8 0 2), (0x044A61D1, .vscat 3 6 5 1 2 0), (0x000062D3, .accwin 5 6), (0x60C00653, .vbind 12 3),
   (0x6A0062D5, .dcopy 5 6 5 0 1), (0x000002B5, .trap 5), (0x03645033, .setc 0 5 0x036)] ++
  [(0x010002B3, .getc 5 0x010), (0x00400035, .rett), (0x060E62B1, .qrecv 5 6 7 0 4), (0x080210C5, .kxor 1 1 1),
   (0x001C003D, .semset 0 0 0 1 3 0), (0x19AF42BF, .baraw 5 20 23 0 3), (0x598C02C1, .fence 5 6 0 6 0 1)]

end Sys2Proof.Spec

/-- R37, R41, R42, R56, R57, R58, R59, R322: when the step's act is the issue of a hart, nothing comes before its
instruction, and the bytes at its PC decode to an instruction, the step is exec of that instruction at the hart in
focus, which has then issued (an item's first instruction makes it RUNNING; one that only stalled at issue has not
issued), with the cycle noted in which its result, or the data of its load, is there and a further cycle where it
changes the flow, followed by what every step ends with; while a register it reads is still to be written it stalls
instead (log entry 15); bytes that decode to none raise ILL with their bits in TVAL, a PC that cannot be fetched the
fetch fault. -/
def Sys2Proof.Spec.IssueRunsTheDecodedInstruction : Prop :=
  ∀ (s : State) (id : Nat), chooseAct s = .issue id →
    let f := endYield (focus s id)
    Issues f →
      (∀ bs i n, InstructionAt f bs → decodeBytes bs = .instr i n →
        (∀ t, operandWait f i = some t →
          step s = .next (settleStep s { f with h := { f.h with issue := .stalled (.interlock t) } })) ∧
        (operandWait f i = none → step s = match exec i (noteIssue f) with
          | .next t => .next (settleStep s (noteLatency i f (keepIssue f t)))
          | .fault r => .fault r
          | .refused r => .refused r) ∧
        ∀ t, ∃ l w, noteLatency i f t = { t with h := { t.h with avail := l, issue := w } } ∧
          (changesFlow f i = false → w = t.h.issue)) ∧
      (∀ bs why, InstructionAt f bs → decodeBytes bs = .reject why →
        step s = .next (settleStep s (takeTrap 0x04 0 false (wrap (ofBytesLE bs : Nat)) f.h.pc (noteIssue f)))) ∧
      (∀ c, f.hub.arm = false → c ≠ 0x09 →
        resolve f f.p f.cur (ctxOf f f.p.ctx) (f.h.level == 0 && f.h.xol.isNone) (fetchedFrom f.h 0).toNat 2 .fetch = .fault c →
        step s = .next (settleStep s (takeTrap 0x03 0 false (fetchedFrom f.h 0) f.h.pc f)))

/-- Log entry 6: a step whose act is an input of the outside world is exec of its row without it; with nothing enabled
only time passes. -/
def Sys2Proof.Spec.InputsAndIdleSteps : Prop :=
  ∀ s : State,
    (∀ i rest, chooseAct s = .input i rest → s.inputs = i :: rest ∧
      step s = match exec i { s with inputs := rest } with
        | .next t => .next (settleStep s t)
        | .fault r => .fault r
        | .refused r => .refused r) ∧
    (enabled s = [] → step s = .next (settleStep s s)) ∧
    (∀ a, enabled s = [a] → chooseAct s = a)

/-- Every step goes on and keeps memory, poison, the semaphores and the held cycle counts in canonical form. -/
def Obligations.StepKeepsMemoryCanonical : Prop := ∀ s : State, Canonical s → Goes (step s) Canonical

/-- R232, R265: every step goes on, gives out request numbers below the next one, and leaves at most 256 entries in each
of the four shares. -/
def Obligations.StepKeepsNumbersAndShares : Prop :=
  ∀ s : State, (RequestsNumbered s → Goes (step s) RequestsNumbered) ∧ (SharesBounded s → Goes (step s) SharesBounded)

/-- R19: every step goes on and keeps each pair's 32 vector registers, 8 masks, 32 tags, 8 queues and 32 rows. -/
def Obligations.StepKeepsPairsShaped : Prop := ∀ s : State, PairsShaped s → Goes (step s) PairsShaped

/-- R310, R320: every step goes on and leaves each hart of a user core at U or S and each hart of a core of M at M. -/
def Obligations.StepKeepsLevelsLegal : Prop := ∀ s : State, LevelsLegal s → Goes (step s) LevelsLegal

/-- R265, R320, R368: the state after reset satisfies each invariant; the cores of M alone stand, at M with PP 1,
their PC register 0 and every x register 0 (log entry 5), the shares hold 256 entries, no context, launch, request or
hold exists, and every byte reads 0 (log entry 4). -/
def Obligations.ResetIsAsStated : Prop :=
  let s := State.reset
  Canonical s ∧ RequestsNumbered s ∧ SharesBounded s ∧ PairsShaped s ∧ LevelsLegal s ∧
  (∀ id h, getHart s id = some h → (id = hubId ∨ ∃ d < 4, id = refereeId d) ∧ h.level = 2 ∧ h.tstat = 1 ∧ h.pc = 0 ∧
    (∀ r, readX h r = 0) ∧ h.fpst = 0 ∧ h.issue = .halted) ∧
  s.shares = [256, 256, 256, 256] ∧ s.pool = 15360 ∧ s.ctxs = [] ∧ s.launches = [] ∧ s.reqs = [] ∧ s.holds = [] ∧ s.rwaits = [] ∧ s.slots = [] ∧
  (∀ a, readByte s a = 0) ∧ s.hub.agestep = 16 ∧ s.hub.bootStage = 0 ∧ s.hub.mb.busy = false ∧ s.hub.evhead = 0 ∧
  s.hub.evtail = 0 ∧ (∀ c, (cpcOf s c).st = 0 ∧ (cpcOf s c).scrret = true ∧ (cpcOf s c).busy = false)

/-- R6, R57, R59-R88: the bytes of the encoding of every well-formed instruction that has one decode to that
instruction, with every operand at every value, and to its length. -/
def Obligations.EncodingsDecodeToTheirInstruction : Prop :=
  ∀ i : Instr, i.wf = true → encode i ≠ .event →
    decodeBytes (codeBytes (encode i)) = .instr i (match encode i with
      | .half _ => 2
      | _ => 4)

/-- R57, R59, R87: worked words of the spec decode to the instructions they stand for, the one of VSETVF with the sum of
its terms (log entry 44); the all-zero halfword decodes to none. -/
def Obligations.ExampleWordsDecode : Prop :=
  (∀ e ∈ exampleWords, decodeTableWord 32 e.1.toNat = some e.2) ∧
  decodeTableWord 16 0xF94C = some (.cAddi 5 (-1)) ∧ decodeTableWord 16 0xFFE2 = some (.cBnez (-1)) ∧
  decodeTableWord 16 0x0000 = none

/-! ## The statements made of several of the above -/

/-- Branches and jumps go to target (R128, R129, R131, R139): BranchesGoToTarget, JumpsLinkAndGo and
BseBranchesOnEndFlag, each as its own text above says. -/
def Obligations.BranchesAndJumpsGoToTarget : Prop :=
  Sys2Proof.Spec.BranchesGoToTarget ∧
  Sys2Proof.Spec.JumpsLinkAndGo ∧
  Sys2Proof.Spec.BseBranchesOnEndFlag

/-- Accesses trap stall and keep order (R68, R187, R188, R201, R205, R209, R212, R213, R218, R232, R235, R322):
PoisonedReadsTrap, AccessesTrapBeforeAnyEffect, AtomicScopeSevenIsIllegal, ScalarAccessesStallInOrder,
RequestsAreNotPerformedEarly, PeerCompletionEndsPerformedRequests and LocalWindowIsBounded, each as its own text above
says. -/
def Obligations.AccessesTrapStallAndKeepOrder : Prop :=
  Sys2Proof.Spec.PoisonedReadsTrap ∧
  Sys2Proof.Spec.AccessesTrapBeforeAnyEffect ∧
  Sys2Proof.Spec.AtomicScopeSevenIsIllegal ∧
  Sys2Proof.Spec.ScalarAccessesStallInOrder ∧
  Sys2Proof.Spec.RequestsAreNotPerformedEarly ∧
  Sys2Proof.Spec.PeerCompletionEndsPerformedRequests ∧
  Sys2Proof.Spec.LocalWindowIsBounded

/-- Control register access (R70, R316, R317, R318): ControlRegisterAccessRules, ControlRegisterDrain,
GetcReadsRegister and GetcReadsContextRegister, each as its own text above says. -/
def Obligations.ControlRegisterAccess : Prop :=
  Sys2Proof.Spec.ControlRegisterAccessRules ∧
  Sys2Proof.Spec.ControlRegisterDrain ∧
  Sys2Proof.Spec.GetcReadsRegister ∧
  Sys2Proof.Spec.GetcReadsContextRegister

/-- Reductions shares and float compares (R116, R117, R119, R153, R161, R164): LaneReductions, LaneShares and
LaneFloatCompares, each as its own text above says. -/
def Obligations.ReductionsSharesAndFloatCompares : Prop :=
  Sys2Proof.Spec.LaneReductions ∧
  Sys2Proof.Spec.LaneShares ∧
  Sys2Proof.Spec.LaneFloatCompares

/-- Matrix rows and mx (R172, R173, R174, R175, R178, R180, R181): LaneAccumulatorReads, LaneMatrixRows and
LaneMxConversions, each as its own text above says. -/
def Obligations.MatrixRowsAndMx : Prop :=
  Sys2Proof.Spec.LaneAccumulatorReads ∧
  Sys2Proof.Spec.LaneMatrixRows ∧
  Sys2Proof.Spec.LaneMxConversions

/-- Control register writes (R87, R113, R202, R259, R270, R313, R314, R316, R317, R318, R319, R338, R351):
SetcWritesRegister, SetcOfChkctl, SetcOfDrainingRegisters, RegisterWriteRows and KeyAndInjectionRows, each as its own
text above says. -/
def Obligations.ControlRegisterWrites : Prop :=
  Sys2Proof.Spec.SetcWritesRegister ∧
  Sys2Proof.Spec.SetcOfChkctl ∧
  Sys2Proof.Spec.SetcOfDrainingRegisters ∧
  Sys2Proof.Spec.RegisterWriteRows ∧
  Sys2Proof.Spec.KeyAndInjectionRows

/-- Traps enter the handler (R323, R324, R326): TrapAndBreakTakeTheirTrap and RettReturns, each as its own text above
says. -/
def Obligations.TrapsEnterTheHandler : Prop :=
  Sys2Proof.Spec.TrapAndBreakTakeTheirTrap ∧
  Sys2Proof.Spec.RettReturns

/-- Debug and asynchronous traps (R277, R321, R322, R323, R333, R349): TrapEntryWritesTrapRegisters,
StepAndBreakpointComeFirst and AsyncTrapIsTakenWhenAllowed, each as its own text above says. -/
def Obligations.DebugAndAsynchronousTraps : Prop :=
  Sys2Proof.Spec.TrapEntryWritesTrapRegisters ∧
  Sys2Proof.Spec.StepAndBreakpointComeFirst ∧
  Sys2Proof.Spec.AsyncTrapIsTakenWhenAllowed

/-- Drains and endings (R36, R41, R44, R45, R70, R87, R107, R121, R131, R202, R213, R229, R232, R265, R318, R319,
R327, R345): FlushiDrainsAndRefetches, XlinvCompleteReturns, StallReleaseWhenOver and HartEndAfterDrain, each as its
own text above says. -/
def Obligations.DrainsAndEndings : Prop :=
  Sys2Proof.Spec.FlushiDrainsAndRefetches ∧
  Sys2Proof.Spec.XlinvCompleteReturns ∧
  Sys2Proof.Spec.StallReleaseWhenOver ∧
  Sys2Proof.Spec.HartEndAfterDrain

/-- Snapshots latch (R328, R352, R376, R377): SnapLatchesCounters and SnapshotTriggers, each as its own text above
says. -/
def Obligations.SnapshotsLatch : Prop :=
  Sys2Proof.Spec.SnapLatchesCounters ∧
  Sys2Proof.Spec.SnapshotTriggers

/-- Queue operations (R15, R59, R60, R69, R87, R256, R262, R295, R296, R297): QueuesMoveDoublewords,
WrongSyncFormsAreIllegal and QueueWaitsWhenItMust, each as its own text above says. -/
def Obligations.QueueOperations : Prop :=
  Sys2Proof.Spec.QueuesMoveDoublewords ∧
  Sys2Proof.Spec.WrongSyncFormsAreIllegal ∧
  Sys2Proof.Spec.QueueWaitsWhenItMust

/-- Waits begin (R226, R227, R256, R260, R261, R262, R265, R277, R298, R301, R302, R304, R305, R306):
SatisfiedWaitsComplete, UnsatisfiedWaitsWait, ZeroBudgetTestsOnce and NoEntryMeansTableFull, each as its own text
above says. -/
def Obligations.WaitsBegin : Prop :=
  Sys2Proof.Spec.SatisfiedWaitsComplete ∧
  Sys2Proof.Spec.UnsatisfiedWaitsWait ∧
  Sys2Proof.Spec.ZeroBudgetTestsOnce ∧
  Sys2Proof.Spec.NoEntryMeansTableFull

/-- Waits end (R257, R260, R261, R262, R263, R271, R272, R295, R301): WaitSatisfiedWritesStatus, WaitTimeoutEndsWait,
WithdrawalAnswers and UmpireAnswersRegistration, each as its own text above says. -/
def Obligations.WaitsEnd : Prop :=
  Sys2Proof.Spec.WaitSatisfiedWritesStatus ∧
  Sys2Proof.Spec.WaitTimeoutEndsWait ∧
  Sys2Proof.Spec.WithdrawalAnswers ∧
  Sys2Proof.Spec.UmpireAnswersRegistration

/-- Barriers join arrive complete (R299, R300, R301, R402): BarjoinJoins, ArrivalsCount and
LastArrivalCompletesBarrier, each as its own text above says. -/
def Obligations.BarriersJoinArriveComplete : Prop :=
  Sys2Proof.Spec.BarjoinJoins ∧
  Sys2Proof.Spec.ArrivalsCount ∧
  Sys2Proof.Spec.LastArrivalCompletesBarrier

/-- Locks take release and hand over (R267, R302, R303, R402): LockAndUnlock and UnlockHandsOver, each as its own text
above says. -/
def Obligations.LocksTakeReleaseAndHandOver : Prop :=
  Sys2Proof.Spec.LockAndUnlock ∧
  Sys2Proof.Spec.UnlockHandsOver

/-- Ordering instructions (R224, R264, R307, R308, R309, R313, R333): YieldAndDirectionalFences and WriteOwes, each as
its own text above says. -/
def Obligations.OrderingInstructions : Prop :=
  Sys2Proof.Spec.YieldAndDirectionalFences ∧
  Sys2Proof.Spec.WriteOwes

/-- Messages of umpire and host (R197, R198, R265, R267): UmpireMessages and PageResponsesAndInvalidation, each as its
own text above says. -/
def Obligations.MessagesOfUmpireAndHost : Prop :=
  Sys2Proof.Spec.UmpireMessages ∧
  Sys2Proof.Spec.PageResponsesAndInvalidation

/-- Vector instructions issue and complete (R15, R43, R44, R45, R46, R53, R59, R76, R87, R104, R107, R108, R119, R143,
R144): VectorInstructionsComplete, IllegalVectorInstructionsTrap and VectorIssueStalls, each as its own text above
says. -/
def Obligations.VectorInstructionsIssueAndComplete : Prop :=
  Sys2Proof.Spec.VectorInstructionsComplete ∧
  Sys2Proof.Spec.IllegalVectorInstructionsTrap ∧
  Sys2Proof.Spec.VectorIssueStalls

/-- Lane integers (R143, R150, R151, R152): LaneIntegerArithmetic and LaneBitOperations, each as its own text above
says. -/
def Obligations.LaneIntegers : Prop :=
  Sys2Proof.Spec.LaneIntegerArithmetic ∧
  Sys2Proof.Spec.LaneBitOperations

/-- Lane floats (R113, R119, R143, R145, R153, R154, R155, R156): LaneFloatArithmetic, LaneConversions and
LaneCompares, each as its own text above says. -/
def Obligations.LaneFloats : Prop :=
  Sys2Proof.Spec.LaneFloatArithmetic ∧
  Sys2Proof.Spec.LaneConversions ∧
  Sys2Proof.Spec.LaneCompares

/-- Lane masks and movements (R78, R145, R157, R158, R159, R160): LaneMasks and LaneMovements, each as its own text
above says. -/
def Obligations.LaneMasksAndMovements : Prop :=
  Sys2Proof.Spec.LaneMasks ∧
  Sys2Proof.Spec.LaneMovements

/-- Lane sums and sparse (R116, R117, R160, R161, R162, R163): LaneIntegerSums and LaneSparse, each as its own text
above says. -/
def Obligations.LaneSumsAndSparse : Prop :=
  Sys2Proof.Spec.LaneIntegerSums ∧
  Sys2Proof.Spec.LaneSparse

/-- Vector type and bindings (R44, R76, R86, R104, R105, R107, R113, R140, R142, R200, R236, R240, R243, R244, R245):
VtagRereads, VbindAndVunbind, BoundRegistersMoveChunks, SetvtChangesType and AccwinAndSeedChange, each as its own text
above says. -/
def Obligations.VectorTypeAndBindings : Prop :=
  Sys2Proof.Spec.VtagRereads ∧
  Sys2Proof.Spec.VbindAndVunbind ∧
  Sys2Proof.Spec.BoundRegistersMoveChunks ∧
  Sys2Proof.Spec.SetvtChangesType ∧
  Sys2Proof.Spec.AccwinAndSeedChange

/-- Windowed gather and scatter (R82, R83, R238, R239): VldwServesFromWindow, VscatUpdatesTargets and
VscatUpdatesFloatTargets, each as its own text above says. -/
def Obligations.WindowedGatherAndScatter : Prop :=
  Sys2Proof.Spec.VldwServesFromWindow ∧
  Sys2Proof.Spec.VscatUpdatesTargets ∧
  Sys2Proof.Spec.VscatUpdatesFloatTargets

/-- Accumulation window (R116, R240, R241, R242): VaccAccumulates, WmergeAddsWindow, VaccAccumulatesFloats and
WmergeMergesWindow, each as its own text above says. -/
def Obligations.AccumulationWindow : Prop :=
  Sys2Proof.Spec.VaccAccumulates ∧
  Sys2Proof.Spec.WmergeAddsWindow ∧
  Sys2Proof.Spec.VaccAccumulatesFloats ∧
  Sys2Proof.Spec.WmergeMergesWindow

/-- Engine commands issue (R43, R201, R246, R247, R344): EngineCommandsAreQueued and EngineCommandsTrapOrStall, each
as its own text above says. -/
def Obligations.EngineCommandsIssue : Prop :=
  Sys2Proof.Spec.EngineCommandsAreQueued ∧
  Sys2Proof.Spec.EngineCommandsTrapOrStall

/-- Engine commands run and finish (R204, R223, R247, R248, R249, R250, R284): EngineCommandsRun, PackedXcopyMovesBits
and EngineCommandsFinish, each as its own text above says. -/
def Obligations.EngineCommandsRunAndFinish : Prop :=
  Sys2Proof.Spec.EngineCommandsRun ∧
  Sys2Proof.Spec.PackedXcopyMovesBits ∧
  Sys2Proof.Spec.EngineCommandsFinish

/-- Launches come in (R34, R35, R37, R38, R357, R361): KickWritesTail, RecordReadQueuesOrRefuses and
DependencesDecide, each as its own text above says. -/
def Obligations.LaunchesComeIn : Prop :=
  Sys2Proof.Spec.KickWritesTail ∧
  Sys2Proof.Spec.RecordReadQueuesOrRefuses ∧
  Sys2Proof.Spec.DependencesDecide

/-- Items are saved and rebound (R37, R38, R204, R281, R283, R284, R285, R286, R287, R332): PreemptionIsRequested,
SavesTakeTheItemOff and RebindRestores, each as its own text above says. -/
def Obligations.ItemsAreSavedAndRebound : Prop :=
  Sys2Proof.Spec.PreemptionIsRequested ∧
  Sys2Proof.Spec.SavesTakeTheItemOff ∧
  Sys2Proof.Spec.RebindRestores

/-- Items retire and report (R33, R34, R35, R36, R345, R346, R358): ItemRetires and CompletionWordIsWritten, each as
its own text above says. -/
def Obligations.ItemsRetireAndReport : Prop :=
  Sys2Proof.Spec.ItemRetires ∧
  Sys2Proof.Spec.CompletionWordIsWritten

/-- Host registers and events (R355, R356, R357, R358, R368): HostWritesRegisters, EvheadMakesRoom and
CommandsReportTheirResult, each as its own text above says. -/
def Obligations.HostRegistersAndEvents : Prop :=
  Sys2Proof.Spec.HostWritesRegisters ∧
  Sys2Proof.Spec.EvheadMakesRoom ∧
  Sys2Proof.Spec.CommandsReportTheirResult

/-- Contexts are made and ended (R38, R206, R342, R357): CtxnewMakesContext, ContextCommandsWrite,
CtxendCancelsLaunches and CancelEndsLaunch, each as its own text above says. -/
def Obligations.ContextsAreMadeAndEnded : Prop :=
  Sys2Proof.Spec.CtxnewMakesContext ∧
  Sys2Proof.Spec.ContextCommandsWrite ∧
  Sys2Proof.Spec.CtxendCancelsLaunches ∧
  Sys2Proof.Spec.CancelEndsLaunch

/-- Cluster power (R24, R372, R373, R374, R398): CpcRegistersTakeWrites, PowerCommandsBegin and PowerCommandsEnd, each
as its own text above says. -/
def Obligations.ClusterPower : Prop :=
  Sys2Proof.Spec.CpcRegistersTakeWrites ∧
  Sys2Proof.Spec.PowerCommandsBegin ∧
  Sys2Proof.Spec.PowerCommandsEnd

/-- Hardware errors (R14, R119, R184, R337, R340, R344, R348, R349, R350, R354): ErrorsHaveTheirOutcome and
FailedVotesPoison, each as its own text above says. -/
def Obligations.HardwareErrors : Prop :=
  Sys2Proof.Spec.ErrorsHaveTheirOutcome ∧
  Sys2Proof.Spec.FailedVotesPoison

/-- Step runs the decoded instruction (R37, R41, R42, R56, R57, R58, R59, R322): IssueRunsTheDecodedInstruction and
InputsAndIdleSteps, each as its own text above says. -/
def Obligations.StepRunsTheDecodedInstruction : Prop :=
  Sys2Proof.Spec.IssueRunsTheDecodedInstruction ∧
  Sys2Proof.Spec.InputsAndIdleSteps
end

