-- ==== Sys2Proof/Laws/Map.lean ====
section
/-! SUPPORT. What the operations on sparse maps and keyed lists can do: a read after a write, the canonical form kept,
equal reads of canonical maps mean equal maps. -/
namespace Sys2Proof.Machine

/-! ## The canonical form -/

theorem SMap.wfFrom_mono {α : Type} [DecidableEq α] {d : α} {m : SMap α} {lo n : Nat} (h : n ≤ lo)
    (hm : SMap.wfFrom d lo m = true) : SMap.wfFrom d n m = true := by
  cases m with
  | nil => rfl
  | cons e m =>
    obtain ⟨k, v⟩ := e
    simp only [SMap.wfFrom, Bool.and_eq_true, decide_eq_true_eq] at hm ⊢
    exact ⟨⟨by omega, hm.1.2⟩, hm.2⟩

/-- Below the least key a canonical map holds the default. -/
theorem SMap.get_below {α : Type} [DecidableEq α] {d : α} {m : SMap α} {lo i : Nat} (hm : SMap.wfFrom d lo m = true)
    (h : i < lo) : SMap.get d m i = d := by
  cases m with
  | nil => rfl
  | cons e m =>
    obtain ⟨k, v⟩ := e
    simp only [SMap.wfFrom, Bool.and_eq_true, decide_eq_true_eq] at hm
    rw [SMap.get, if_neg (by omega), if_pos (by omega)]

theorem SMap.set_wfFrom {α : Type} [DecidableEq α] {d : α} (m : SMap α) (lo i : Nat) (v : α) (h : lo ≤ i)
    (hm : SMap.wfFrom d lo m = true) : SMap.wfFrom d lo (SMap.set d m i v) = true := by
  induction m generalizing lo with
  | nil =>
    unfold SMap.set
    split
    · rfl
    · simp [SMap.wfFrom, *]
  | cons e m ih =>
    obtain ⟨k, w⟩ := e
    simp only [SMap.wfFrom, Bool.and_eq_true, decide_eq_true_eq] at hm
    unfold SMap.set
    split
    · subst i
      split
      · exact SMap.wfFrom_mono (by omega) hm.2
      · simp [SMap.wfFrom, *]
    · split
      · split
        · simp [SMap.wfFrom, hm]
        · have h1 : i + 1 ≤ k := by omega
          simp [SMap.wfFrom, *]
      · have := ih (k + 1) (by omega) hm.2
        simp [SMap.wfFrom, hm, this]

/-- A write keeps the canonical form. -/
theorem SMap.set_wf {α : Type} [DecidableEq α] {d : α} (m : SMap α) (i : Nat) (v : α) (hm : SMap.wf d m = true) :
    SMap.wf d (SMap.set d m i v) = true := SMap.set_wfFrom m 0 i v (Nat.zero_le i) hm

theorem SMap.setRange_wf {α : Type} [DecidableEq α] {d : α} (l : List α) (m : SMap α) (i : Nat) (hm : SMap.wf d m = true) :
    SMap.wf d (SMap.setRange d m i l) = true := by
  induction l generalizing m i with
  | nil => exact hm
  | cons v l ih => exact ih _ _ (SMap.set_wf m i v hm)

theorem SMap.clearWhere_wfFrom {α : Type} [DecidableEq α] {d : α} (p : Nat → Bool) (m : SMap α) (lo : Nat)
    (hm : SMap.wfFrom d lo m = true) : SMap.wfFrom d lo (SMap.clearWhere p m) = true := by
  induction m generalizing lo with
  | nil => rfl
  | cons e m ih =>
    obtain ⟨k, v⟩ := e
    simp only [SMap.wfFrom, Bool.and_eq_true, decide_eq_true_eq] at hm
    have h := ih (k + 1) hm.2
    unfold SMap.clearWhere at h ⊢
    rw [List.filter_cons]
    split
    · simp [SMap.wfFrom, hm, h]
    · exact SMap.wfFrom_mono (by omega) h

/-- Clearing keys keeps the canonical form. -/
theorem SMap.clearWhere_wf {α : Type} [DecidableEq α] {d : α} (p : Nat → Bool) (m : SMap α) (hm : SMap.wf d m = true) :
    SMap.wf d (SMap.clearWhere p m) = true := SMap.clearWhere_wfFrom p m 0 hm

/-! ## Reading after writing -/

theorem SMap.get_set_from {α : Type} [DecidableEq α] {d : α} (m : SMap α) (lo i j : Nat) (v : α)
    (hm : SMap.wfFrom d lo m = true) : SMap.get d (SMap.set d m i v) j = if j = i then v else SMap.get d m j := by
  induction m generalizing lo with
  | nil =>
    unfold SMap.set
    by_cases hv : v = d <;> by_cases hj : j = i <;> simp [SMap.get, hv, hj]
  | cons e m ih =>
    obtain ⟨k, w⟩ := e
    simp only [SMap.wfFrom, Bool.and_eq_true, decide_eq_true_eq] at hm
    unfold SMap.set
    by_cases hik : i = k
    · subst hik
      rw [if_pos rfl]
      by_cases hj : j = i
      · subst hj
        by_cases hv : v = d
        · rw [if_pos hv, if_pos rfl, hv, SMap.get_below hm.2 (by omega)]
        · rw [if_neg hv, SMap.get, if_pos rfl, if_pos rfl]
      · rw [if_neg hj]
        by_cases hv : v = d
        · rw [if_pos hv, SMap.get, if_neg hj]
          split
          · exact SMap.get_below hm.2 (by omega)
          · rfl
        · rw [if_neg hv, SMap.get, SMap.get, if_neg hj, if_neg hj]
    · rw [if_neg hik]
      by_cases hlt : i < k
      · rw [if_pos hlt]
        by_cases hv : v = d
        · rw [if_pos hv]
          by_cases hj : j = i
          · subst hj; rw [if_pos rfl, SMap.get, if_neg hik, if_pos hlt, hv]
          · rw [if_neg hj]
        · rw [if_neg hv, SMap.get]
          by_cases hj : j = i
          · rw [if_pos hj, if_pos hj]
          · rw [if_neg hj, if_neg hj]
            split
            · rw [SMap.get, if_neg (by omega), if_pos (by omega)]
            · rfl
      · rw [if_neg hlt, SMap.get, SMap.get, ih (k + 1) hm.2]
        by_cases hj : j = i
        · subst hj; rw [if_neg hik, if_neg hlt, if_pos rfl, if_pos rfl]
        · rw [if_neg hj, if_neg hj]

/-- A read after a write: the value at the key written, every other key as before. -/
theorem SMap.get_set {α : Type} [DecidableEq α] {d : α} (m : SMap α) (i j : Nat) (v : α) (hm : SMap.wf d m = true) :
    SMap.get d (SMap.set d m i v) j = if j = i then v else SMap.get d m j := SMap.get_set_from m 0 i j v hm

/-- A read after consecutive writes. -/
theorem SMap.get_setRange {α : Type} [DecidableEq α] {d : α} (l : List α) (m : SMap α) (i j : Nat) (hm : SMap.wf d m = true) :
    SMap.get d (SMap.setRange d m i l) j = if i ≤ j then (l[j - i]?).getD (SMap.get d m j) else SMap.get d m j := by
  induction l generalizing m i with
  | nil => simp [SMap.setRange]
  | cons v l ih =>
    rw [SMap.setRange, ih _ _ (SMap.set_wf m i v hm), SMap.get_set m i j v hm]
    by_cases hj : j = i
    · subst hj; rw [if_neg (by omega)]; simp
    · rw [if_neg hj]
      by_cases h : i ≤ j
      · rw [if_pos (by omega), if_pos h, show j - i = (j - (i + 1)) + 1 by omega, List.getElem?_cons_succ]
      · rw [if_neg (by omega), if_neg h]

/-- Clearing gives the default at the keys it names and leaves every other. -/
theorem SMap.get_clearWhere {α : Type} [DecidableEq α] {d : α} (p : Nat → Bool) (m : SMap α) (i : Nat) (hm : SMap.wf d m = true) :
    SMap.get d (SMap.clearWhere p m) i = if p i then d else SMap.get d m i := by
  suffices h : ∀ lo, SMap.wfFrom d lo m = true → SMap.get d (SMap.clearWhere p m) i = if p i then d else SMap.get d m i from h 0 hm
  clear hm
  induction m with
  | nil => intro _ _; simp [SMap.clearWhere, SMap.get]
  | cons e m ih =>
    intro lo hm
    obtain ⟨k, v⟩ := e
    simp only [SMap.wfFrom, Bool.and_eq_true, decide_eq_true_eq] at hm
    have h := ih (k + 1) hm.2
    unfold SMap.clearWhere at h ⊢
    rw [List.filter_cons, SMap.get]
    by_cases hi : i = k
    · subst hi
      rw [if_pos rfl]
      cases hp : p i
      · simp [SMap.get]
      · simp [h, hp]
    · rw [if_neg hi]
      split
      · rw [SMap.get, if_neg hi, h]
        split
        · simp
        · rfl
      · rw [h]
        split
        · rfl
        · split
          · exact SMap.get_below hm.2 (by omega)
          · rfl

/-! ## Equal reads, equal maps -/

theorem SMap.ext_from {α : Type} [DecidableEq α] {d : α} (m n : SMap α) (lo : Nat) (hm : SMap.wfFrom d lo m = true)
    (hn : SMap.wfFrom d lo n = true) (h : ∀ i, SMap.get d m i = SMap.get d n i) : m = n := by
  induction m generalizing n lo with
  | nil =>
    cases n with
    | nil => rfl
    | cons e n =>
      obtain ⟨k, v⟩ := e
      simp only [SMap.wfFrom, Bool.and_eq_true, decide_eq_true_eq] at hn
      have := h k
      rw [SMap.get, SMap.get, if_pos rfl] at this
      exact absurd this.symm hn.1.2
  | cons e m ih =>
    obtain ⟨k, v⟩ := e
    simp only [SMap.wfFrom, Bool.and_eq_true, decide_eq_true_eq] at hm
    cases n with
    | nil =>
      have := h k
      rw [SMap.get, SMap.get, if_pos rfl] at this
      exact absurd this hm.1.2
    | cons f n =>
      obtain ⟨l, w⟩ := f
      simp only [SMap.wfFrom, Bool.and_eq_true, decide_eq_true_eq] at hn
      have hkl : k = l := by
        rcases Nat.lt_trichotomy k l with hlt | heq | hgt
        · have := h k
          rw [SMap.get, if_pos rfl, SMap.get, if_neg (by omega), if_pos hlt] at this
          exact absurd this hm.1.2
        · exact heq
        · have := h l
          rw [SMap.get, if_neg (by omega), if_pos hgt, SMap.get, if_pos rfl] at this
          exact absurd this.symm hn.1.2
      subst hkl
      have hv : v = w := by have := h k; rwa [SMap.get, if_pos rfl, SMap.get, if_pos rfl] at this
      subst hv
      congr 1
      refine ih n (k + 1) hm.2 hn.2 fun i => ?_
      have := h i
      rw [SMap.get, SMap.get] at this
      by_cases hi : i = k
      · subst hi; rw [SMap.get_below hm.2 (by omega), SMap.get_below hn.2 (by omega)]
      · rw [if_neg hi, if_neg hi] at this
        by_cases hlt : i < k
        · rw [SMap.get_below hm.2 (by omega), SMap.get_below hn.2 (by omega)]
        · rwa [if_neg hlt, if_neg hlt] at this

/-- Canonical maps that read alike at every key are the same map. -/
theorem SMap.ext {α : Type} [DecidableEq α] {d : α} (m n : SMap α) (hm : SMap.wf d m = true) (hn : SMap.wf d n = true)
    (h : ∀ i, SMap.get d m i = SMap.get d n i) : m = n := SMap.ext_from m n 0 hm hn h

/-! ## Keyed lists -/

/-- Changing one record: its change at its key, every other as before. -/
theorem lookupKey_adjustKey {α : Type} (m : List (Nat × α)) (i j : Nat) (f : α → α) :
    lookupKey (adjustKey m i f) j = if j = i then (lookupKey m j).map f else lookupKey m j := by
  unfold lookupKey adjustKey
  induction m with
  | nil => simp
  | cons e m ih =>
    rw [List.map_cons, List.find?_cons, List.find?_cons]
    have h1 : (if e.1 == i then (e.1, f e.2) else e).1 = e.1 := by split <;> rfl
    rw [h1]
    cases he : e.1 == j with
    | false => exact ih
    | true =>
      rw [beq_iff_eq] at he
      subst he
      by_cases hi : e.1 = i
      · simp [hi]
      · simp [hi]

/-- Inserting a record: it at its key, every other as before. -/
theorem lookupKey_insertKey {α : Type} (m : List (Nat × α)) (i j : Nat) (v : α) :
    lookupKey (insertKey m i v) j = if j = i then some v else lookupKey m j := by
  unfold lookupKey
  induction m with
  | nil => by_cases h : j = i <;> simp [insertKey, h]; omega
  | cons e m ih =>
    obtain ⟨k, w⟩ := e
    unfold insertKey
    split
    · subst i
      by_cases h : j = k
      · subst h; simp
      · rw [List.find?_cons, show (k == j) = false by simp; omega, if_neg h, List.find?_cons, show (k == j) = false by simp; omega]
    · split
      · by_cases h : j = i
        · subst h; simp
        · rw [List.find?_cons, show (i == j) = false by simp; omega, if_neg h]
      · by_cases h : j = k
        · subst h; rw [if_neg (by omega)]; simp
        · rw [List.find?_cons, show (k == j) = false by simp; omega, ih, List.find?_cons, show (k == j) = false by simp; omega]

/-- Erasing a record: none at its key, every other as before. -/
theorem lookupKey_eraseKey {α : Type} (m : List (Nat × α)) (i j : Nat) :
    lookupKey (eraseKey m i) j = if j = i then none else lookupKey m j := by
  unfold lookupKey eraseKey
  induction m with
  | nil => simp
  | cons e m ih =>
    rw [List.filter_cons]
    by_cases he : e.1 = i
    · rw [if_neg (by simp [he]), ih]
      by_cases hj : j = i
      · rw [if_pos hj, if_pos hj]
      · rw [if_neg hj, if_neg hj, List.find?_cons, show (e.1 == j) = false by simp; omega]
    · rw [if_pos (by simp [he]), List.find?_cons, List.find?_cons]
      by_cases hj : e.1 = j
      · subst hj; simp [he]
      · rw [show (e.1 == j) = false by simp [hj]]; exact ih

end Sys2Proof.Machine
end

