-- ==== Sys2Proof/Laws/Memory.lean ====
section
/-! SUPPORT. What the memory operations can do: the canonical form kept, a read after a write, what else stands. -/
namespace Sys2Proof.Machine
open Sys2Proof

/-! ## The canonical form (log entry 4) -/

theorem reset_mem_wf : Memory.wf State.reset.mem = true := by decide +kernel

theorem writeByte_wf (s : State) (k : Nat) (v : Byte) (h : Memory.wf s.mem = true) : Memory.wf (writeByte s k v).mem = true := by
  unfold writeByte
  simp only
  split
  · exact h
  · exact SMap.set_wf _ _ _ h

theorem writeBytes_wf (bs : List Byte) (s : State) (k : Nat) (h : Memory.wf s.mem = true) :
    Memory.wf (writeBytes s k bs).mem = true := by
  induction bs generalizing s k with
  | nil => exact h
  | cons b bs ih => exact ih _ _ (writeByte_wf s k b h)

theorem writeNat_wf (s : State) (k v n : Nat) (h : Memory.wf s.mem = true) : Memory.wf (writeNat s k v n).mem = true :=
  writeBytes_wf _ s k h

/-! ## What a write leaves -/

/-- A write of a byte changes memory and the log of old bytes, nothing else. -/
theorem writeByte_eq (s : State) (k : Nat) (v : Byte) :
    writeByte s k v = { s with mem := (writeByte s k v).mem, wlog := (writeByte s k v).wlog } := by
  unfold writeByte
  simp only
  split <;> rfl

theorem writeBytes_eq (bs : List Byte) (s : State) (k : Nat) :
    writeBytes s k bs = { s with mem := (writeBytes s k bs).mem, wlog := (writeBytes s k bs).wlog } := by
  induction bs generalizing s k with
  | nil => rfl
  | cons b bs ih => rw [writeBytes, ih, writeByte_eq]

theorem writeNat_eq (s : State) (k v n : Nat) :
    writeNat s k v n = { s with mem := (writeNat s k v n).mem, wlog := (writeNat s k v n).wlog } := writeBytes_eq _ s k

/-- Marking a sector changes the key generations alone. -/
theorem stampGen_eq (s : State) (k g : Nat) : stampGen s k g = { s with secGen := (stampGen s k g).secGen, wlog := (stampGen s k g).wlog } := by
  unfold stampGen
  split <;> rfl

@[simp] theorem stampGen_mem (s : State) (k g : Nat) : (stampGen s k g).mem = s.mem := by rw [stampGen_eq]
@[simp] theorem stampGen_poison (s : State) (k g : Nat) : (stampGen s k g).poison = s.poison := by rw [stampGen_eq]
@[simp] theorem readByte_stampGen (s : State) (k g j : Nat) : readByte (stampGen s k g) j = readByte s j := by
  rw [stampGen_eq]; rfl
@[simp] theorem readByte_setPois (s : State) (k j : Nat) (b : Bool) : readByte (setPois s k b) j = readByte s j := rfl

/-! ## A read after a write -/

theorem readByte_writeByte (s : State) (k j : Nat) (v : Byte) (h : Memory.wf s.mem = true) :
    readByte (writeByte s k v) j = if j = k then v else readByte s j := by
  unfold writeByte
  simp only
  split
  · rename_i he
    by_cases hj : j = k
    · rw [if_pos hj, hj, he]
    · rw [if_neg hj]
  · exact SMap.get_set _ _ _ _ h

/-- Bytes written read back at their addresses, and every other byte stands. -/
theorem readByte_writeBytes (bs : List Byte) (s : State) (k j : Nat) (h : Memory.wf s.mem = true) :
    readByte (writeBytes s k bs) j = if k ≤ j then (bs[j - k]?).getD (readByte s j) else readByte s j := by
  induction bs generalizing s k with
  | nil => simp [writeBytes]
  | cons b bs ih =>
    rw [writeBytes, ih _ _ (writeByte_wf s k b h), readByte_writeByte _ _ _ _ h]
    by_cases hj : j = k
    · subst hj; rw [if_neg (by omega)]; simp
    · rw [if_neg hj]
      by_cases hk : k ≤ j
      · rw [if_pos (by omega), if_pos hk, show j - k = (j - (k + 1)) + 1 by omega, List.getElem?_cons_succ]
      · rw [if_neg (by omega), if_neg hk]

theorem natBytes_length (v n : Nat) : (natBytes v n).length = n := by
  induction n generalizing v with
  | zero => rfl
  | succ n ih => simp [natBytes, ih]

/-- A byte outside what a value was written to stands. -/
theorem readByte_writeNat_other (s : State) (k v n j : Nat) (h : Memory.wf s.mem = true) (hj : j < k ∨ k + n ≤ j) :
    readByte (writeNat s k v n) j = readByte s j := by
  unfold writeNat
  rw [readByte_writeBytes _ _ _ _ h]
  split
  · rw [List.getElem?_eq_none (by rw [natBytes_length]; omega)]; rfl
  · rfl

theorem readBytes_length (s : State) (k n : Nat) : (readBytes s k n).length = n := by
  induction n generalizing k with
  | zero => rfl
  | succ n ih => simp [readBytes, ih]

/-- A read of bytes none of which a value was written to. -/
theorem readBytes_writeNat_other (s : State) (k v n j m : Nat) (h : Memory.wf s.mem = true) (hj : j + m ≤ k ∨ k + n ≤ j) :
    readBytes (writeNat s k v n) j m = readBytes s j m := by
  induction m generalizing j with
  | zero => rfl
  | succ m ih => rw [readBytes, readBytes, readByte_writeNat_other s k v n j h (by omega), ih (j + 1) (by omega)]

theorem ofBytesLE_natBytes (v n : Nat) : ofBytesLE (natBytes v n) = v % 256 ^ n := by
  induction n generalizing v with
  | zero => simp [natBytes, ofBytesLE, Nat.mod_one]
  | succ n ih =>
    rw [natBytes, ofBytesLE, ih, BitVec.toNat_ofNat, Nat.pow_succ (m := n) (n := 256), Nat.mul_comm (256 ^ n) 256, Nat.mod_mul]

theorem readBytes_writeBytes (bs : List Byte) (s : State) (k : Nat) (h : Memory.wf s.mem = true) :
    readBytes (writeBytes s k bs) k bs.length = bs := by
  have key (l : List Byte) (n : Nat) (hl : ∀ i < l.length, l[i]? = bs[n + i]?) :
      readBytes (writeBytes s k bs) (k + n) l.length = l := by
    induction l generalizing n with
    | nil => rfl
    | cons b l ih =>
      have h0 := hl 0 (by simp)
      rw [List.length_cons, readBytes, readByte_writeBytes _ _ _ _ h, if_pos (by omega), show k + n - k = n + 0 by omega, ← h0]
      rw [show k + n + 1 = k + (n + 1) by omega, ih (n + 1) fun i hi => by
        have := hl (i + 1) (by simp; omega)
        rw [List.getElem?_cons_succ] at this
        rw [this, show n + (i + 1) = n + 1 + i by omega]]
      rfl
  simpa using key bs 0 fun i _ => by simp

/-- A value written reads back, cut to the bytes it was written to (R6). -/
theorem readNat_writeNat (s : State) (k v n : Nat) (h : Memory.wf s.mem = true) :
    readNat (writeNat s k v n) k n = v % 256 ^ n := by
  have := readBytes_writeBytes (natBytes v n) s k h
  rw [natBytes_length] at this
  unfold readNat writeNat
  rw [this, ofBytesLE_natBytes]

/-! ## Poison (R204, R337) -/

/-- Poisoning or clearing one sector. -/
theorem isPois_setPois (s : State) (k j : Nat) (b : Bool) (h : SMap.wf false s.poison = true) :
    isPois (setPois s k b) j = if sectorOf j = sectorOf k then b else isPois s j := SMap.get_set _ _ _ _ h

theorem setPois_wf (s : State) (k : Nat) (b : Bool) (h : SMap.wf false s.poison = true) :
    SMap.wf false (setPois s k b).poison = true := SMap.set_wf _ _ _ h

end Sys2Proof.Machine
end

