-- ==== Sys2Proof/Laws/State.lean ====
section
/-! SUPPORT. What each update of State leaves in each field: for an update that changes one field, every other field
stands; what the changed field holds is said once, in its own words. -/
namespace Sys2Proof.Machine
open Sys2Proof

/-! ## Fields that an update leaves -/

@[simp] theorem advance_cur (len : Nat) (s : State) : (advance len s).cur = s.cur := rfl
@[simp] theorem advance_p (len : Nat) (s : State) : (advance len s).p = s.p := rfl
@[simp] theorem advance_harts (len : Nat) (s : State) : (advance len s).harts = s.harts := rfl
@[simp] theorem advance_pairs (len : Nat) (s : State) : (advance len s).pairs = s.pairs := rfl
@[simp] theorem advance_mem (len : Nat) (s : State) : (advance len s).mem = s.mem := rfl
@[simp] theorem advance_poison (len : Nat) (s : State) : (advance len s).poison = s.poison := rfl
@[simp] theorem advance_secGen (len : Nat) (s : State) : (advance len s).secGen = s.secGen := rfl
@[simp] theorem advance_wlog (len : Nat) (s : State) : (advance len s).wlog = s.wlog := rfl
@[simp] theorem advance_genSeq (len : Nat) (s : State) : (advance len s).genSeq = s.genSeq := rfl
@[simp] theorem advance_reqs (len : Nat) (s : State) : (advance len s).reqs = s.reqs := rfl
@[simp] theorem advance_cmds (len : Nat) (s : State) : (advance len s).cmds = s.cmds := rfl
@[simp] theorem advance_sems (len : Nat) (s : State) : (advance len s).sems = s.sems := rfl
@[simp] theorem advance_holds (len : Nat) (s : State) : (advance len s).holds = s.holds := rfl
@[simp] theorem advance_rwaits (len : Nat) (s : State) : (advance len s).rwaits = s.rwaits := rfl
@[simp] theorem advance_pool (len : Nat) (s : State) : (advance len s).pool = s.pool := rfl
@[simp] theorem advance_shares (len : Nat) (s : State) : (advance len s).shares = s.shares := rfl
@[simp] theorem advance_ctxs (len : Nat) (s : State) : (advance len s).ctxs = s.ctxs := rfl
@[simp] theorem advance_launches (len : Nat) (s : State) : (advance len s).launches = s.launches := rfl
@[simp] theorem advance_cpcs (len : Nat) (s : State) : (advance len s).cpcs = s.cpcs := rfl
@[simp] theorem advance_slots (len : Nat) (s : State) : (advance len s).slots = s.slots := rfl
@[simp] theorem advance_hub (len : Nat) (s : State) : (advance len s).hub = s.hub := rfl
@[simp] theorem advance_cyc (len : Nat) (s : State) : (advance len s).cyc = s.cyc := rfl
@[simp] theorem advance_now (len : Nat) (s : State) : (advance len s).now = s.now := rfl
@[simp] theorem advance_stamp (len : Nat) (s : State) : (advance len s).stamp = s.stamp := rfl
@[simp] theorem advance_free (len : Nat) (s : State) : (advance len s).free = s.free := rfl
@[simp] theorem advance_nextId (len : Nat) (s : State) : (advance len s).nextId = s.nextId := rfl
@[simp] theorem advance_ltags (len : Nat) (s : State) : (advance len s).ltags = s.ltags := rfl
@[simp] theorem advance_inputs (len : Nat) (s : State) : (advance len s).inputs = s.inputs := rfl
@[simp] theorem advance_yielded (len : Nat) (s : State) : (advance len s).yielded = s.yielded := rfl

@[simp] theorem jumpTo_cur (t : Dword) (s : State) : (jumpTo t s).cur = s.cur := rfl
@[simp] theorem jumpTo_p (t : Dword) (s : State) : (jumpTo t s).p = s.p := rfl
@[simp] theorem jumpTo_harts (t : Dword) (s : State) : (jumpTo t s).harts = s.harts := rfl
@[simp] theorem jumpTo_pairs (t : Dword) (s : State) : (jumpTo t s).pairs = s.pairs := rfl
@[simp] theorem jumpTo_mem (t : Dword) (s : State) : (jumpTo t s).mem = s.mem := rfl
@[simp] theorem jumpTo_poison (t : Dword) (s : State) : (jumpTo t s).poison = s.poison := rfl
@[simp] theorem jumpTo_secGen (t : Dword) (s : State) : (jumpTo t s).secGen = s.secGen := rfl
@[simp] theorem jumpTo_wlog (t : Dword) (s : State) : (jumpTo t s).wlog = s.wlog := rfl
@[simp] theorem jumpTo_genSeq (t : Dword) (s : State) : (jumpTo t s).genSeq = s.genSeq := rfl
@[simp] theorem jumpTo_reqs (t : Dword) (s : State) : (jumpTo t s).reqs = s.reqs := rfl
@[simp] theorem jumpTo_cmds (t : Dword) (s : State) : (jumpTo t s).cmds = s.cmds := rfl
@[simp] theorem jumpTo_sems (t : Dword) (s : State) : (jumpTo t s).sems = s.sems := rfl
@[simp] theorem jumpTo_holds (t : Dword) (s : State) : (jumpTo t s).holds = s.holds := rfl
@[simp] theorem jumpTo_rwaits (t : Dword) (s : State) : (jumpTo t s).rwaits = s.rwaits := rfl
@[simp] theorem jumpTo_pool (t : Dword) (s : State) : (jumpTo t s).pool = s.pool := rfl
@[simp] theorem jumpTo_shares (t : Dword) (s : State) : (jumpTo t s).shares = s.shares := rfl
@[simp] theorem jumpTo_ctxs (t : Dword) (s : State) : (jumpTo t s).ctxs = s.ctxs := rfl
@[simp] theorem jumpTo_launches (t : Dword) (s : State) : (jumpTo t s).launches = s.launches := rfl
@[simp] theorem jumpTo_cpcs (t : Dword) (s : State) : (jumpTo t s).cpcs = s.cpcs := rfl
@[simp] theorem jumpTo_slots (t : Dword) (s : State) : (jumpTo t s).slots = s.slots := rfl
@[simp] theorem jumpTo_hub (t : Dword) (s : State) : (jumpTo t s).hub = s.hub := rfl
@[simp] theorem jumpTo_cyc (t : Dword) (s : State) : (jumpTo t s).cyc = s.cyc := rfl
@[simp] theorem jumpTo_now (t : Dword) (s : State) : (jumpTo t s).now = s.now := rfl
@[simp] theorem jumpTo_stamp (t : Dword) (s : State) : (jumpTo t s).stamp = s.stamp := rfl
@[simp] theorem jumpTo_free (t : Dword) (s : State) : (jumpTo t s).free = s.free := rfl
@[simp] theorem jumpTo_nextId (t : Dword) (s : State) : (jumpTo t s).nextId = s.nextId := rfl
@[simp] theorem jumpTo_ltags (t : Dword) (s : State) : (jumpTo t s).ltags = s.ltags := rfl
@[simp] theorem jumpTo_inputs (t : Dword) (s : State) : (jumpTo t s).inputs = s.inputs := rfl
@[simp] theorem jumpTo_yielded (t : Dword) (s : State) : (jumpTo t s).yielded = s.yielded := rfl

@[simp] theorem putX_cur (d : BitVec 5) (v : Dword) (s : State) : (putX d v s).cur = s.cur := rfl
@[simp] theorem putX_p (d : BitVec 5) (v : Dword) (s : State) : (putX d v s).p = s.p := rfl
@[simp] theorem putX_harts (d : BitVec 5) (v : Dword) (s : State) : (putX d v s).harts = s.harts := rfl
@[simp] theorem putX_pairs (d : BitVec 5) (v : Dword) (s : State) : (putX d v s).pairs = s.pairs := rfl
@[simp] theorem putX_mem (d : BitVec 5) (v : Dword) (s : State) : (putX d v s).mem = s.mem := rfl
@[simp] theorem putX_poison (d : BitVec 5) (v : Dword) (s : State) : (putX d v s).poison = s.poison := rfl
@[simp] theorem putX_secGen (d : BitVec 5) (v : Dword) (s : State) : (putX d v s).secGen = s.secGen := rfl
@[simp] theorem putX_wlog (d : BitVec 5) (v : Dword) (s : State) : (putX d v s).wlog = s.wlog := rfl
@[simp] theorem putX_genSeq (d : BitVec 5) (v : Dword) (s : State) : (putX d v s).genSeq = s.genSeq := rfl
@[simp] theorem putX_reqs (d : BitVec 5) (v : Dword) (s : State) : (putX d v s).reqs = s.reqs := rfl
@[simp] theorem putX_cmds (d : BitVec 5) (v : Dword) (s : State) : (putX d v s).cmds = s.cmds := rfl
@[simp] theorem putX_sems (d : BitVec 5) (v : Dword) (s : State) : (putX d v s).sems = s.sems := rfl
@[simp] theorem putX_holds (d : BitVec 5) (v : Dword) (s : State) : (putX d v s).holds = s.holds := rfl
@[simp] theorem putX_rwaits (d : BitVec 5) (v : Dword) (s : State) : (putX d v s).rwaits = s.rwaits := rfl
@[simp] theorem putX_pool (d : BitVec 5) (v : Dword) (s : State) : (putX d v s).pool = s.pool := rfl
@[simp] theorem putX_shares (d : BitVec 5) (v : Dword) (s : State) : (putX d v s).shares = s.shares := rfl
@[simp] theorem putX_ctxs (d : BitVec 5) (v : Dword) (s : State) : (putX d v s).ctxs = s.ctxs := rfl
@[simp] theorem putX_launches (d : BitVec 5) (v : Dword) (s : State) : (putX d v s).launches = s.launches := rfl
@[simp] theorem putX_cpcs (d : BitVec 5) (v : Dword) (s : State) : (putX d v s).cpcs = s.cpcs := rfl
@[simp] theorem putX_slots (d : BitVec 5) (v : Dword) (s : State) : (putX d v s).slots = s.slots := rfl
@[simp] theorem putX_hub (d : BitVec 5) (v : Dword) (s : State) : (putX d v s).hub = s.hub := rfl
@[simp] theorem putX_cyc (d : BitVec 5) (v : Dword) (s : State) : (putX d v s).cyc = s.cyc := rfl
@[simp] theorem putX_now (d : BitVec 5) (v : Dword) (s : State) : (putX d v s).now = s.now := rfl
@[simp] theorem putX_stamp (d : BitVec 5) (v : Dword) (s : State) : (putX d v s).stamp = s.stamp := rfl
@[simp] theorem putX_free (d : BitVec 5) (v : Dword) (s : State) : (putX d v s).free = s.free := rfl
@[simp] theorem putX_nextId (d : BitVec 5) (v : Dword) (s : State) : (putX d v s).nextId = s.nextId := rfl
@[simp] theorem putX_ltags (d : BitVec 5) (v : Dword) (s : State) : (putX d v s).ltags = s.ltags := rfl
@[simp] theorem putX_inputs (d : BitVec 5) (v : Dword) (s : State) : (putX d v s).inputs = s.inputs := rfl
@[simp] theorem putX_yielded (d : BitVec 5) (v : Dword) (s : State) : (putX d v s).yielded = s.yielded := rfl

@[simp] theorem resultX_cur (len : Nat) (d : BitVec 5) (v : Dword) (s : State) : (resultX len d v s).cur = s.cur := rfl
@[simp] theorem resultX_p (len : Nat) (d : BitVec 5) (v : Dword) (s : State) : (resultX len d v s).p = s.p := rfl
@[simp] theorem resultX_harts (len : Nat) (d : BitVec 5) (v : Dword) (s : State) : (resultX len d v s).harts = s.harts := rfl
@[simp] theorem resultX_pairs (len : Nat) (d : BitVec 5) (v : Dword) (s : State) : (resultX len d v s).pairs = s.pairs := rfl
@[simp] theorem resultX_mem (len : Nat) (d : BitVec 5) (v : Dword) (s : State) : (resultX len d v s).mem = s.mem := rfl
@[simp] theorem resultX_poison (len : Nat) (d : BitVec 5) (v : Dword) (s : State) : (resultX len d v s).poison = s.poison := rfl
@[simp] theorem resultX_secGen (len : Nat) (d : BitVec 5) (v : Dword) (s : State) : (resultX len d v s).secGen = s.secGen := rfl
@[simp] theorem resultX_wlog (len : Nat) (d : BitVec 5) (v : Dword) (s : State) : (resultX len d v s).wlog = s.wlog := rfl
@[simp] theorem resultX_genSeq (len : Nat) (d : BitVec 5) (v : Dword) (s : State) : (resultX len d v s).genSeq = s.genSeq := rfl
@[simp] theorem resultX_reqs (len : Nat) (d : BitVec 5) (v : Dword) (s : State) : (resultX len d v s).reqs = s.reqs := rfl
@[simp] theorem resultX_cmds (len : Nat) (d : BitVec 5) (v : Dword) (s : State) : (resultX len d v s).cmds = s.cmds := rfl
@[simp] theorem resultX_sems (len : Nat) (d : BitVec 5) (v : Dword) (s : State) : (resultX len d v s).sems = s.sems := rfl
@[simp] theorem resultX_holds (len : Nat) (d : BitVec 5) (v : Dword) (s : State) : (resultX len d v s).holds = s.holds := rfl
@[simp] theorem resultX_rwaits (len : Nat) (d : BitVec 5) (v : Dword) (s : State) : (resultX len d v s).rwaits = s.rwaits := rfl
@[simp] theorem resultX_pool (len : Nat) (d : BitVec 5) (v : Dword) (s : State) : (resultX len d v s).pool = s.pool := rfl
@[simp] theorem resultX_shares (len : Nat) (d : BitVec 5) (v : Dword) (s : State) : (resultX len d v s).shares = s.shares := rfl
@[simp] theorem resultX_ctxs (len : Nat) (d : BitVec 5) (v : Dword) (s : State) : (resultX len d v s).ctxs = s.ctxs := rfl
@[simp] theorem resultX_launches (len : Nat) (d : BitVec 5) (v : Dword) (s : State) : (resultX len d v s).launches = s.launches := rfl
@[simp] theorem resultX_cpcs (len : Nat) (d : BitVec 5) (v : Dword) (s : State) : (resultX len d v s).cpcs = s.cpcs := rfl
@[simp] theorem resultX_slots (len : Nat) (d : BitVec 5) (v : Dword) (s : State) : (resultX len d v s).slots = s.slots := rfl
@[simp] theorem resultX_hub (len : Nat) (d : BitVec 5) (v : Dword) (s : State) : (resultX len d v s).hub = s.hub := rfl
@[simp] theorem resultX_cyc (len : Nat) (d : BitVec 5) (v : Dword) (s : State) : (resultX len d v s).cyc = s.cyc := rfl
@[simp] theorem resultX_now (len : Nat) (d : BitVec 5) (v : Dword) (s : State) : (resultX len d v s).now = s.now := rfl
@[simp] theorem resultX_stamp (len : Nat) (d : BitVec 5) (v : Dword) (s : State) : (resultX len d v s).stamp = s.stamp := rfl
@[simp] theorem resultX_free (len : Nat) (d : BitVec 5) (v : Dword) (s : State) : (resultX len d v s).free = s.free := rfl
@[simp] theorem resultX_nextId (len : Nat) (d : BitVec 5) (v : Dword) (s : State) : (resultX len d v s).nextId = s.nextId := rfl
@[simp] theorem resultX_ltags (len : Nat) (d : BitVec 5) (v : Dword) (s : State) : (resultX len d v s).ltags = s.ltags := rfl
@[simp] theorem resultX_inputs (len : Nat) (d : BitVec 5) (v : Dword) (s : State) : (resultX len d v s).inputs = s.inputs := rfl
@[simp] theorem resultX_yielded (len : Nat) (d : BitVec 5) (v : Dword) (s : State) : (resultX len d v s).yielded = s.yielded := rfl

@[simp] theorem stall_cur (w : Stall) (s : State) : (stall w s).cur = s.cur := rfl
@[simp] theorem stall_p (w : Stall) (s : State) : (stall w s).p = s.p := rfl
@[simp] theorem stall_harts (w : Stall) (s : State) : (stall w s).harts = s.harts := rfl
@[simp] theorem stall_pairs (w : Stall) (s : State) : (stall w s).pairs = s.pairs := rfl
@[simp] theorem stall_mem (w : Stall) (s : State) : (stall w s).mem = s.mem := rfl
@[simp] theorem stall_poison (w : Stall) (s : State) : (stall w s).poison = s.poison := rfl
@[simp] theorem stall_secGen (w : Stall) (s : State) : (stall w s).secGen = s.secGen := rfl
@[simp] theorem stall_wlog (w : Stall) (s : State) : (stall w s).wlog = s.wlog := rfl
@[simp] theorem stall_genSeq (w : Stall) (s : State) : (stall w s).genSeq = s.genSeq := rfl
@[simp] theorem stall_reqs (w : Stall) (s : State) : (stall w s).reqs = s.reqs := rfl
@[simp] theorem stall_cmds (w : Stall) (s : State) : (stall w s).cmds = s.cmds := rfl
@[simp] theorem stall_sems (w : Stall) (s : State) : (stall w s).sems = s.sems := rfl
@[simp] theorem stall_holds (w : Stall) (s : State) : (stall w s).holds = s.holds := rfl
@[simp] theorem stall_rwaits (w : Stall) (s : State) : (stall w s).rwaits = s.rwaits := rfl
@[simp] theorem stall_pool (w : Stall) (s : State) : (stall w s).pool = s.pool := rfl
@[simp] theorem stall_shares (w : Stall) (s : State) : (stall w s).shares = s.shares := rfl
@[simp] theorem stall_ctxs (w : Stall) (s : State) : (stall w s).ctxs = s.ctxs := rfl
@[simp] theorem stall_launches (w : Stall) (s : State) : (stall w s).launches = s.launches := rfl
@[simp] theorem stall_cpcs (w : Stall) (s : State) : (stall w s).cpcs = s.cpcs := rfl
@[simp] theorem stall_slots (w : Stall) (s : State) : (stall w s).slots = s.slots := rfl
@[simp] theorem stall_hub (w : Stall) (s : State) : (stall w s).hub = s.hub := rfl
@[simp] theorem stall_cyc (w : Stall) (s : State) : (stall w s).cyc = s.cyc := rfl
@[simp] theorem stall_now (w : Stall) (s : State) : (stall w s).now = s.now := rfl
@[simp] theorem stall_stamp (w : Stall) (s : State) : (stall w s).stamp = s.stamp := rfl
@[simp] theorem stall_free (w : Stall) (s : State) : (stall w s).free = s.free := rfl
@[simp] theorem stall_nextId (w : Stall) (s : State) : (stall w s).nextId = s.nextId := rfl
@[simp] theorem stall_ltags (w : Stall) (s : State) : (stall w s).ltags = s.ltags := rfl
@[simp] theorem stall_inputs (w : Stall) (s : State) : (stall w s).inputs = s.inputs := rfl
@[simp] theorem stall_yielded (w : Stall) (s : State) : (stall w s).yielded = s.yielded := rfl

@[simp] theorem orFpst_cur (fl : Flags) (s : State) : (orFpst fl s).cur = s.cur := rfl
@[simp] theorem orFpst_p (fl : Flags) (s : State) : (orFpst fl s).p = s.p := rfl
@[simp] theorem orFpst_harts (fl : Flags) (s : State) : (orFpst fl s).harts = s.harts := rfl
@[simp] theorem orFpst_pairs (fl : Flags) (s : State) : (orFpst fl s).pairs = s.pairs := rfl
@[simp] theorem orFpst_mem (fl : Flags) (s : State) : (orFpst fl s).mem = s.mem := rfl
@[simp] theorem orFpst_poison (fl : Flags) (s : State) : (orFpst fl s).poison = s.poison := rfl
@[simp] theorem orFpst_secGen (fl : Flags) (s : State) : (orFpst fl s).secGen = s.secGen := rfl
@[simp] theorem orFpst_wlog (fl : Flags) (s : State) : (orFpst fl s).wlog = s.wlog := rfl
@[simp] theorem orFpst_genSeq (fl : Flags) (s : State) : (orFpst fl s).genSeq = s.genSeq := rfl
@[simp] theorem orFpst_reqs (fl : Flags) (s : State) : (orFpst fl s).reqs = s.reqs := rfl
@[simp] theorem orFpst_cmds (fl : Flags) (s : State) : (orFpst fl s).cmds = s.cmds := rfl
@[simp] theorem orFpst_sems (fl : Flags) (s : State) : (orFpst fl s).sems = s.sems := rfl
@[simp] theorem orFpst_holds (fl : Flags) (s : State) : (orFpst fl s).holds = s.holds := rfl
@[simp] theorem orFpst_rwaits (fl : Flags) (s : State) : (orFpst fl s).rwaits = s.rwaits := rfl
@[simp] theorem orFpst_pool (fl : Flags) (s : State) : (orFpst fl s).pool = s.pool := rfl
@[simp] theorem orFpst_shares (fl : Flags) (s : State) : (orFpst fl s).shares = s.shares := rfl
@[simp] theorem orFpst_ctxs (fl : Flags) (s : State) : (orFpst fl s).ctxs = s.ctxs := rfl
@[simp] theorem orFpst_launches (fl : Flags) (s : State) : (orFpst fl s).launches = s.launches := rfl
@[simp] theorem orFpst_cpcs (fl : Flags) (s : State) : (orFpst fl s).cpcs = s.cpcs := rfl
@[simp] theorem orFpst_slots (fl : Flags) (s : State) : (orFpst fl s).slots = s.slots := rfl
@[simp] theorem orFpst_hub (fl : Flags) (s : State) : (orFpst fl s).hub = s.hub := rfl
@[simp] theorem orFpst_cyc (fl : Flags) (s : State) : (orFpst fl s).cyc = s.cyc := rfl
@[simp] theorem orFpst_now (fl : Flags) (s : State) : (orFpst fl s).now = s.now := rfl
@[simp] theorem orFpst_stamp (fl : Flags) (s : State) : (orFpst fl s).stamp = s.stamp := rfl
@[simp] theorem orFpst_free (fl : Flags) (s : State) : (orFpst fl s).free = s.free := rfl
@[simp] theorem orFpst_nextId (fl : Flags) (s : State) : (orFpst fl s).nextId = s.nextId := rfl
@[simp] theorem orFpst_ltags (fl : Flags) (s : State) : (orFpst fl s).ltags = s.ltags := rfl
@[simp] theorem orFpst_inputs (fl : Flags) (s : State) : (orFpst fl s).inputs = s.inputs := rfl
@[simp] theorem orFpst_yielded (fl : Flags) (s : State) : (orFpst fl s).yielded = s.yielded := rfl

@[simp] theorem modCtx_cur (s : State) (c : Nat) (f : Ctx → Ctx) : (modCtx s c f).cur = s.cur := rfl
@[simp] theorem modCtx_h (s : State) (c : Nat) (f : Ctx → Ctx) : (modCtx s c f).h = s.h := rfl
@[simp] theorem modCtx_p (s : State) (c : Nat) (f : Ctx → Ctx) : (modCtx s c f).p = s.p := rfl
@[simp] theorem modCtx_harts (s : State) (c : Nat) (f : Ctx → Ctx) : (modCtx s c f).harts = s.harts := rfl
@[simp] theorem modCtx_pairs (s : State) (c : Nat) (f : Ctx → Ctx) : (modCtx s c f).pairs = s.pairs := rfl
@[simp] theorem modCtx_mem (s : State) (c : Nat) (f : Ctx → Ctx) : (modCtx s c f).mem = s.mem := rfl
@[simp] theorem modCtx_poison (s : State) (c : Nat) (f : Ctx → Ctx) : (modCtx s c f).poison = s.poison := rfl
@[simp] theorem modCtx_secGen (s : State) (c : Nat) (f : Ctx → Ctx) : (modCtx s c f).secGen = s.secGen := rfl
@[simp] theorem modCtx_wlog (s : State) (c : Nat) (f : Ctx → Ctx) : (modCtx s c f).wlog = s.wlog := rfl
@[simp] theorem modCtx_genSeq (s : State) (c : Nat) (f : Ctx → Ctx) : (modCtx s c f).genSeq = s.genSeq := rfl
@[simp] theorem modCtx_reqs (s : State) (c : Nat) (f : Ctx → Ctx) : (modCtx s c f).reqs = s.reqs := rfl
@[simp] theorem modCtx_cmds (s : State) (c : Nat) (f : Ctx → Ctx) : (modCtx s c f).cmds = s.cmds := rfl
@[simp] theorem modCtx_sems (s : State) (c : Nat) (f : Ctx → Ctx) : (modCtx s c f).sems = s.sems := rfl
@[simp] theorem modCtx_holds (s : State) (c : Nat) (f : Ctx → Ctx) : (modCtx s c f).holds = s.holds := rfl
@[simp] theorem modCtx_rwaits (s : State) (c : Nat) (f : Ctx → Ctx) : (modCtx s c f).rwaits = s.rwaits := rfl
@[simp] theorem modCtx_pool (s : State) (c : Nat) (f : Ctx → Ctx) : (modCtx s c f).pool = s.pool := rfl
@[simp] theorem modCtx_shares (s : State) (c : Nat) (f : Ctx → Ctx) : (modCtx s c f).shares = s.shares := rfl
@[simp] theorem modCtx_launches (s : State) (c : Nat) (f : Ctx → Ctx) : (modCtx s c f).launches = s.launches := rfl
@[simp] theorem modCtx_cpcs (s : State) (c : Nat) (f : Ctx → Ctx) : (modCtx s c f).cpcs = s.cpcs := rfl
@[simp] theorem modCtx_slots (s : State) (c : Nat) (f : Ctx → Ctx) : (modCtx s c f).slots = s.slots := rfl
@[simp] theorem modCtx_hub (s : State) (c : Nat) (f : Ctx → Ctx) : (modCtx s c f).hub = s.hub := rfl
@[simp] theorem modCtx_cyc (s : State) (c : Nat) (f : Ctx → Ctx) : (modCtx s c f).cyc = s.cyc := rfl
@[simp] theorem modCtx_now (s : State) (c : Nat) (f : Ctx → Ctx) : (modCtx s c f).now = s.now := rfl
@[simp] theorem modCtx_stamp (s : State) (c : Nat) (f : Ctx → Ctx) : (modCtx s c f).stamp = s.stamp := rfl
@[simp] theorem modCtx_free (s : State) (c : Nat) (f : Ctx → Ctx) : (modCtx s c f).free = s.free := rfl
@[simp] theorem modCtx_nextId (s : State) (c : Nat) (f : Ctx → Ctx) : (modCtx s c f).nextId = s.nextId := rfl
@[simp] theorem modCtx_ltags (s : State) (c : Nat) (f : Ctx → Ctx) : (modCtx s c f).ltags = s.ltags := rfl
@[simp] theorem modCtx_inputs (s : State) (c : Nat) (f : Ctx → Ctx) : (modCtx s c f).inputs = s.inputs := rfl
@[simp] theorem modCtx_yielded (s : State) (c : Nat) (f : Ctx → Ctx) : (modCtx s c f).yielded = s.yielded := rfl

@[simp] theorem modLaunch_cur (s : State) (t : Nat) (f : Launch → Launch) : (modLaunch s t f).cur = s.cur := rfl
@[simp] theorem modLaunch_h (s : State) (t : Nat) (f : Launch → Launch) : (modLaunch s t f).h = s.h := rfl
@[simp] theorem modLaunch_p (s : State) (t : Nat) (f : Launch → Launch) : (modLaunch s t f).p = s.p := rfl
@[simp] theorem modLaunch_harts (s : State) (t : Nat) (f : Launch → Launch) : (modLaunch s t f).harts = s.harts := rfl
@[simp] theorem modLaunch_pairs (s : State) (t : Nat) (f : Launch → Launch) : (modLaunch s t f).pairs = s.pairs := rfl
@[simp] theorem modLaunch_mem (s : State) (t : Nat) (f : Launch → Launch) : (modLaunch s t f).mem = s.mem := rfl
@[simp] theorem modLaunch_poison (s : State) (t : Nat) (f : Launch → Launch) : (modLaunch s t f).poison = s.poison := rfl
@[simp] theorem modLaunch_secGen (s : State) (t : Nat) (f : Launch → Launch) : (modLaunch s t f).secGen = s.secGen := rfl
@[simp] theorem modLaunch_wlog (s : State) (t : Nat) (f : Launch → Launch) : (modLaunch s t f).wlog = s.wlog := rfl
@[simp] theorem modLaunch_genSeq (s : State) (t : Nat) (f : Launch → Launch) : (modLaunch s t f).genSeq = s.genSeq := rfl
@[simp] theorem modLaunch_reqs (s : State) (t : Nat) (f : Launch → Launch) : (modLaunch s t f).reqs = s.reqs := rfl
@[simp] theorem modLaunch_cmds (s : State) (t : Nat) (f : Launch → Launch) : (modLaunch s t f).cmds = s.cmds := rfl
@[simp] theorem modLaunch_sems (s : State) (t : Nat) (f : Launch → Launch) : (modLaunch s t f).sems = s.sems := rfl
@[simp] theorem modLaunch_holds (s : State) (t : Nat) (f : Launch → Launch) : (modLaunch s t f).holds = s.holds := rfl
@[simp] theorem modLaunch_rwaits (s : State) (t : Nat) (f : Launch → Launch) : (modLaunch s t f).rwaits = s.rwaits := rfl
@[simp] theorem modLaunch_pool (s : State) (t : Nat) (f : Launch → Launch) : (modLaunch s t f).pool = s.pool := rfl
@[simp] theorem modLaunch_shares (s : State) (t : Nat) (f : Launch → Launch) : (modLaunch s t f).shares = s.shares := rfl
@[simp] theorem modLaunch_ctxs (s : State) (t : Nat) (f : Launch → Launch) : (modLaunch s t f).ctxs = s.ctxs := rfl
@[simp] theorem modLaunch_cpcs (s : State) (t : Nat) (f : Launch → Launch) : (modLaunch s t f).cpcs = s.cpcs := rfl
@[simp] theorem modLaunch_slots (s : State) (t : Nat) (f : Launch → Launch) : (modLaunch s t f).slots = s.slots := rfl
@[simp] theorem modLaunch_hub (s : State) (t : Nat) (f : Launch → Launch) : (modLaunch s t f).hub = s.hub := rfl
@[simp] theorem modLaunch_cyc (s : State) (t : Nat) (f : Launch → Launch) : (modLaunch s t f).cyc = s.cyc := rfl
@[simp] theorem modLaunch_now (s : State) (t : Nat) (f : Launch → Launch) : (modLaunch s t f).now = s.now := rfl
@[simp] theorem modLaunch_stamp (s : State) (t : Nat) (f : Launch → Launch) : (modLaunch s t f).stamp = s.stamp := rfl
@[simp] theorem modLaunch_free (s : State) (t : Nat) (f : Launch → Launch) : (modLaunch s t f).free = s.free := rfl
@[simp] theorem modLaunch_nextId (s : State) (t : Nat) (f : Launch → Launch) : (modLaunch s t f).nextId = s.nextId := rfl
@[simp] theorem modLaunch_ltags (s : State) (t : Nat) (f : Launch → Launch) : (modLaunch s t f).ltags = s.ltags := rfl
@[simp] theorem modLaunch_inputs (s : State) (t : Nat) (f : Launch → Launch) : (modLaunch s t f).inputs = s.inputs := rfl
@[simp] theorem modLaunch_yielded (s : State) (t : Nat) (f : Launch → Launch) : (modLaunch s t f).yielded = s.yielded := rfl

@[simp] theorem modItem_cur (s : State) (t i : Nat) (f : Item → Item) : (modItem s t i f).cur = s.cur := rfl
@[simp] theorem modItem_h (s : State) (t i : Nat) (f : Item → Item) : (modItem s t i f).h = s.h := rfl
@[simp] theorem modItem_p (s : State) (t i : Nat) (f : Item → Item) : (modItem s t i f).p = s.p := rfl
@[simp] theorem modItem_harts (s : State) (t i : Nat) (f : Item → Item) : (modItem s t i f).harts = s.harts := rfl
@[simp] theorem modItem_pairs (s : State) (t i : Nat) (f : Item → Item) : (modItem s t i f).pairs = s.pairs := rfl
@[simp] theorem modItem_mem (s : State) (t i : Nat) (f : Item → Item) : (modItem s t i f).mem = s.mem := rfl
@[simp] theorem modItem_poison (s : State) (t i : Nat) (f : Item → Item) : (modItem s t i f).poison = s.poison := rfl
@[simp] theorem modItem_secGen (s : State) (t i : Nat) (f : Item → Item) : (modItem s t i f).secGen = s.secGen := rfl
@[simp] theorem modItem_wlog (s : State) (t i : Nat) (f : Item → Item) : (modItem s t i f).wlog = s.wlog := rfl
@[simp] theorem modItem_genSeq (s : State) (t i : Nat) (f : Item → Item) : (modItem s t i f).genSeq = s.genSeq := rfl
@[simp] theorem modItem_reqs (s : State) (t i : Nat) (f : Item → Item) : (modItem s t i f).reqs = s.reqs := rfl
@[simp] theorem modItem_cmds (s : State) (t i : Nat) (f : Item → Item) : (modItem s t i f).cmds = s.cmds := rfl
@[simp] theorem modItem_sems (s : State) (t i : Nat) (f : Item → Item) : (modItem s t i f).sems = s.sems := rfl
@[simp] theorem modItem_holds (s : State) (t i : Nat) (f : Item → Item) : (modItem s t i f).holds = s.holds := rfl
@[simp] theorem modItem_rwaits (s : State) (t i : Nat) (f : Item → Item) : (modItem s t i f).rwaits = s.rwaits := rfl
@[simp] theorem modItem_pool (s : State) (t i : Nat) (f : Item → Item) : (modItem s t i f).pool = s.pool := rfl
@[simp] theorem modItem_shares (s : State) (t i : Nat) (f : Item → Item) : (modItem s t i f).shares = s.shares := rfl
@[simp] theorem modItem_ctxs (s : State) (t i : Nat) (f : Item → Item) : (modItem s t i f).ctxs = s.ctxs := rfl
@[simp] theorem modItem_cpcs (s : State) (t i : Nat) (f : Item → Item) : (modItem s t i f).cpcs = s.cpcs := rfl
@[simp] theorem modItem_slots (s : State) (t i : Nat) (f : Item → Item) : (modItem s t i f).slots = s.slots := rfl
@[simp] theorem modItem_hub (s : State) (t i : Nat) (f : Item → Item) : (modItem s t i f).hub = s.hub := rfl
@[simp] theorem modItem_cyc (s : State) (t i : Nat) (f : Item → Item) : (modItem s t i f).cyc = s.cyc := rfl
@[simp] theorem modItem_now (s : State) (t i : Nat) (f : Item → Item) : (modItem s t i f).now = s.now := rfl
@[simp] theorem modItem_stamp (s : State) (t i : Nat) (f : Item → Item) : (modItem s t i f).stamp = s.stamp := rfl
@[simp] theorem modItem_free (s : State) (t i : Nat) (f : Item → Item) : (modItem s t i f).free = s.free := rfl
@[simp] theorem modItem_nextId (s : State) (t i : Nat) (f : Item → Item) : (modItem s t i f).nextId = s.nextId := rfl
@[simp] theorem modItem_ltags (s : State) (t i : Nat) (f : Item → Item) : (modItem s t i f).ltags = s.ltags := rfl
@[simp] theorem modItem_inputs (s : State) (t i : Nat) (f : Item → Item) : (modItem s t i f).inputs = s.inputs := rfl
@[simp] theorem modItem_yielded (s : State) (t i : Nat) (f : Item → Item) : (modItem s t i f).yielded = s.yielded := rfl

@[simp] theorem modCpc_cur (s : State) (c : Nat) (f : Cpc → Cpc) : (modCpc s c f).cur = s.cur := rfl
@[simp] theorem modCpc_h (s : State) (c : Nat) (f : Cpc → Cpc) : (modCpc s c f).h = s.h := rfl
@[simp] theorem modCpc_p (s : State) (c : Nat) (f : Cpc → Cpc) : (modCpc s c f).p = s.p := rfl
@[simp] theorem modCpc_harts (s : State) (c : Nat) (f : Cpc → Cpc) : (modCpc s c f).harts = s.harts := rfl
@[simp] theorem modCpc_pairs (s : State) (c : Nat) (f : Cpc → Cpc) : (modCpc s c f).pairs = s.pairs := rfl
@[simp] theorem modCpc_mem (s : State) (c : Nat) (f : Cpc → Cpc) : (modCpc s c f).mem = s.mem := rfl
@[simp] theorem modCpc_poison (s : State) (c : Nat) (f : Cpc → Cpc) : (modCpc s c f).poison = s.poison := rfl
@[simp] theorem modCpc_secGen (s : State) (c : Nat) (f : Cpc → Cpc) : (modCpc s c f).secGen = s.secGen := rfl
@[simp] theorem modCpc_wlog (s : State) (c : Nat) (f : Cpc → Cpc) : (modCpc s c f).wlog = s.wlog := rfl
@[simp] theorem modCpc_genSeq (s : State) (c : Nat) (f : Cpc → Cpc) : (modCpc s c f).genSeq = s.genSeq := rfl
@[simp] theorem modCpc_reqs (s : State) (c : Nat) (f : Cpc → Cpc) : (modCpc s c f).reqs = s.reqs := rfl
@[simp] theorem modCpc_cmds (s : State) (c : Nat) (f : Cpc → Cpc) : (modCpc s c f).cmds = s.cmds := rfl
@[simp] theorem modCpc_sems (s : State) (c : Nat) (f : Cpc → Cpc) : (modCpc s c f).sems = s.sems := rfl
@[simp] theorem modCpc_holds (s : State) (c : Nat) (f : Cpc → Cpc) : (modCpc s c f).holds = s.holds := rfl
@[simp] theorem modCpc_rwaits (s : State) (c : Nat) (f : Cpc → Cpc) : (modCpc s c f).rwaits = s.rwaits := rfl
@[simp] theorem modCpc_pool (s : State) (c : Nat) (f : Cpc → Cpc) : (modCpc s c f).pool = s.pool := rfl
@[simp] theorem modCpc_shares (s : State) (c : Nat) (f : Cpc → Cpc) : (modCpc s c f).shares = s.shares := rfl
@[simp] theorem modCpc_ctxs (s : State) (c : Nat) (f : Cpc → Cpc) : (modCpc s c f).ctxs = s.ctxs := rfl
@[simp] theorem modCpc_launches (s : State) (c : Nat) (f : Cpc → Cpc) : (modCpc s c f).launches = s.launches := rfl
@[simp] theorem modCpc_slots (s : State) (c : Nat) (f : Cpc → Cpc) : (modCpc s c f).slots = s.slots := rfl
@[simp] theorem modCpc_hub (s : State) (c : Nat) (f : Cpc → Cpc) : (modCpc s c f).hub = s.hub := rfl
@[simp] theorem modCpc_cyc (s : State) (c : Nat) (f : Cpc → Cpc) : (modCpc s c f).cyc = s.cyc := rfl
@[simp] theorem modCpc_now (s : State) (c : Nat) (f : Cpc → Cpc) : (modCpc s c f).now = s.now := rfl
@[simp] theorem modCpc_stamp (s : State) (c : Nat) (f : Cpc → Cpc) : (modCpc s c f).stamp = s.stamp := rfl
@[simp] theorem modCpc_free (s : State) (c : Nat) (f : Cpc → Cpc) : (modCpc s c f).free = s.free := rfl
@[simp] theorem modCpc_nextId (s : State) (c : Nat) (f : Cpc → Cpc) : (modCpc s c f).nextId = s.nextId := rfl
@[simp] theorem modCpc_ltags (s : State) (c : Nat) (f : Cpc → Cpc) : (modCpc s c f).ltags = s.ltags := rfl
@[simp] theorem modCpc_inputs (s : State) (c : Nat) (f : Cpc → Cpc) : (modCpc s c f).inputs = s.inputs := rfl
@[simp] theorem modCpc_yielded (s : State) (c : Nat) (f : Cpc → Cpc) : (modCpc s c f).yielded = s.yielded := rfl

@[simp] theorem setPois_cur (s : State) (k : Nat) (b : Bool) : (setPois s k b).cur = s.cur := rfl
@[simp] theorem setPois_h (s : State) (k : Nat) (b : Bool) : (setPois s k b).h = s.h := rfl
@[simp] theorem setPois_p (s : State) (k : Nat) (b : Bool) : (setPois s k b).p = s.p := rfl
@[simp] theorem setPois_harts (s : State) (k : Nat) (b : Bool) : (setPois s k b).harts = s.harts := rfl
@[simp] theorem setPois_pairs (s : State) (k : Nat) (b : Bool) : (setPois s k b).pairs = s.pairs := rfl
@[simp] theorem setPois_mem (s : State) (k : Nat) (b : Bool) : (setPois s k b).mem = s.mem := rfl
@[simp] theorem setPois_secGen (s : State) (k : Nat) (b : Bool) : (setPois s k b).secGen = s.secGen := rfl
@[simp] theorem setPois_wlog (s : State) (k : Nat) (b : Bool) : (setPois s k b).wlog = s.wlog := rfl
@[simp] theorem setPois_genSeq (s : State) (k : Nat) (b : Bool) : (setPois s k b).genSeq = s.genSeq := rfl
@[simp] theorem setPois_reqs (s : State) (k : Nat) (b : Bool) : (setPois s k b).reqs = s.reqs := rfl
@[simp] theorem setPois_cmds (s : State) (k : Nat) (b : Bool) : (setPois s k b).cmds = s.cmds := rfl
@[simp] theorem setPois_sems (s : State) (k : Nat) (b : Bool) : (setPois s k b).sems = s.sems := rfl
@[simp] theorem setPois_holds (s : State) (k : Nat) (b : Bool) : (setPois s k b).holds = s.holds := rfl
@[simp] theorem setPois_rwaits (s : State) (k : Nat) (b : Bool) : (setPois s k b).rwaits = s.rwaits := rfl
@[simp] theorem setPois_pool (s : State) (k : Nat) (b : Bool) : (setPois s k b).pool = s.pool := rfl
@[simp] theorem setPois_shares (s : State) (k : Nat) (b : Bool) : (setPois s k b).shares = s.shares := rfl
@[simp] theorem setPois_ctxs (s : State) (k : Nat) (b : Bool) : (setPois s k b).ctxs = s.ctxs := rfl
@[simp] theorem setPois_launches (s : State) (k : Nat) (b : Bool) : (setPois s k b).launches = s.launches := rfl
@[simp] theorem setPois_cpcs (s : State) (k : Nat) (b : Bool) : (setPois s k b).cpcs = s.cpcs := rfl
@[simp] theorem setPois_slots (s : State) (k : Nat) (b : Bool) : (setPois s k b).slots = s.slots := rfl
@[simp] theorem setPois_cyc (s : State) (k : Nat) (b : Bool) : (setPois s k b).cyc = s.cyc := rfl
@[simp] theorem setPois_now (s : State) (k : Nat) (b : Bool) : (setPois s k b).now = s.now := rfl
@[simp] theorem setPois_stamp (s : State) (k : Nat) (b : Bool) : (setPois s k b).stamp = s.stamp := rfl
@[simp] theorem setPois_free (s : State) (k : Nat) (b : Bool) : (setPois s k b).free = s.free := rfl
@[simp] theorem setPois_nextId (s : State) (k : Nat) (b : Bool) : (setPois s k b).nextId = s.nextId := rfl
@[simp] theorem setPois_ltags (s : State) (k : Nat) (b : Bool) : (setPois s k b).ltags = s.ltags := rfl
@[simp] theorem setPois_inputs (s : State) (k : Nat) (b : Bool) : (setPois s k b).inputs = s.inputs := rfl
@[simp] theorem setPois_yielded (s : State) (k : Nat) (b : Bool) : (setPois s k b).yielded = s.yielded := rfl

/-! ## The field that it changes -/

@[simp] theorem advance_h (len : Nat) (s : State) : (advance len s).h = advanceH len s.h := rfl
@[simp] theorem jumpTo_h (t : Dword) (s : State) : (jumpTo t s).h = jumpH t s.h := rfl
@[simp] theorem putX_h (d : BitVec 5) (v : Dword) (s : State) : (putX d v s).h = { writeX s.h d v with ldst := d } := rfl
@[simp] theorem resultX_h (len : Nat) (d : BitVec 5) (v : Dword) (s : State) :
    (resultX len d v s).h = advanceH len { writeX s.h d v with ldst := d } := rfl
@[simp] theorem stall_h (w : Stall) (s : State) : (stall w s).h = { s.h with issue := .stalled w } := rfl
@[simp] theorem orFpst_h (fl : Flags) (s : State) : (orFpst fl s).h = { s.h with fpst := s.h.fpst ||| fl } := rfl
@[simp] theorem modCtx_ctxs (s : State) (c : Nat) (f : Ctx → Ctx) : (modCtx s c f).ctxs = adjustKey s.ctxs c f := rfl
@[simp] theorem modLaunch_launches (s : State) (t : Nat) (f : Launch → Launch) :
    (modLaunch s t f).launches = s.launches.map (fun l => if l.ltag == t then f l else l) := rfl
@[simp] theorem modCpc_cpcs (s : State) (c : Nat) (f : Cpc → Cpc) : (modCpc s c f).cpcs = insertKey s.cpcs c (f (cpcOf s c)) := rfl
@[simp] theorem setPois_poison (s : State) (k : Nat) (b : Bool) :
    (setPois s k b).poison = SMap.set false s.poison (sectorOf k) b := rfl
theorem setPois_hub (s : State) (k : Nat) (b : Bool) : (setPois s k b).hub =
    if isPois s k && s.hub.shotCopies.contains (sectorOf k) then noCopy s.hub (sectorOf k) else s.hub := rfl
theorem setPois_hub_of_good (s : State) (k : Nat) (b : Bool) (h : isPois s k = false) : (setPois s k b).hub = s.hub := by
  rw [setPois_hub, h]; rfl

/-! ## Changes of one hart or pair: what they leave in every field but theirs -/

@[simp] theorem modHart_cur (s : State) (id : Nat) (f : Hart → Hart) : (modHart s id f).cur = s.cur := by unfold modHart; split <;> rfl
@[simp] theorem modHart_p (s : State) (id : Nat) (f : Hart → Hart) : (modHart s id f).p = s.p := by unfold modHart; split <;> rfl
@[simp] theorem modHart_pairs (s : State) (id : Nat) (f : Hart → Hart) : (modHart s id f).pairs = s.pairs := by unfold modHart; split <;> rfl
@[simp] theorem modHart_mem (s : State) (id : Nat) (f : Hart → Hart) : (modHart s id f).mem = s.mem := by unfold modHart; split <;> rfl
@[simp] theorem modHart_poison (s : State) (id : Nat) (f : Hart → Hart) : (modHart s id f).poison = s.poison := by unfold modHart; split <;> rfl
@[simp] theorem modHart_secGen (s : State) (id : Nat) (f : Hart → Hart) : (modHart s id f).secGen = s.secGen := by unfold modHart; split <;> rfl
@[simp] theorem modHart_wlog (s : State) (id : Nat) (f : Hart → Hart) : (modHart s id f).wlog = s.wlog := by unfold modHart; split <;> rfl
@[simp] theorem modHart_genSeq (s : State) (id : Nat) (f : Hart → Hart) : (modHart s id f).genSeq = s.genSeq := by unfold modHart; split <;> rfl
@[simp] theorem modHart_reqs (s : State) (id : Nat) (f : Hart → Hart) : (modHart s id f).reqs = s.reqs := by unfold modHart; split <;> rfl
@[simp] theorem modHart_cmds (s : State) (id : Nat) (f : Hart → Hart) : (modHart s id f).cmds = s.cmds := by unfold modHart; split <;> rfl
@[simp] theorem modHart_sems (s : State) (id : Nat) (f : Hart → Hart) : (modHart s id f).sems = s.sems := by unfold modHart; split <;> rfl
@[simp] theorem modHart_holds (s : State) (id : Nat) (f : Hart → Hart) : (modHart s id f).holds = s.holds := by unfold modHart; split <;> rfl
@[simp] theorem modHart_rwaits (s : State) (id : Nat) (f : Hart → Hart) : (modHart s id f).rwaits = s.rwaits := by unfold modHart; split <;> rfl
@[simp] theorem modHart_pool (s : State) (id : Nat) (f : Hart → Hart) : (modHart s id f).pool = s.pool := by unfold modHart; split <;> rfl
@[simp] theorem modHart_shares (s : State) (id : Nat) (f : Hart → Hart) : (modHart s id f).shares = s.shares := by unfold modHart; split <;> rfl
@[simp] theorem modHart_ctxs (s : State) (id : Nat) (f : Hart → Hart) : (modHart s id f).ctxs = s.ctxs := by unfold modHart; split <;> rfl
@[simp] theorem modHart_launches (s : State) (id : Nat) (f : Hart → Hart) : (modHart s id f).launches = s.launches := by unfold modHart; split <;> rfl
@[simp] theorem modHart_cpcs (s : State) (id : Nat) (f : Hart → Hart) : (modHart s id f).cpcs = s.cpcs := by unfold modHart; split <;> rfl
@[simp] theorem modHart_slots (s : State) (id : Nat) (f : Hart → Hart) : (modHart s id f).slots = s.slots := by unfold modHart; split <;> rfl
@[simp] theorem modHart_hub (s : State) (id : Nat) (f : Hart → Hart) : (modHart s id f).hub = s.hub := by unfold modHart; split <;> rfl
@[simp] theorem modHart_cyc (s : State) (id : Nat) (f : Hart → Hart) : (modHart s id f).cyc = s.cyc := by unfold modHart; split <;> rfl
@[simp] theorem modHart_now (s : State) (id : Nat) (f : Hart → Hart) : (modHart s id f).now = s.now := by unfold modHart; split <;> rfl
@[simp] theorem modHart_stamp (s : State) (id : Nat) (f : Hart → Hart) : (modHart s id f).stamp = s.stamp := by unfold modHart; split <;> rfl
@[simp] theorem modHart_free (s : State) (id : Nat) (f : Hart → Hart) : (modHart s id f).free = s.free := by unfold modHart; split <;> rfl
@[simp] theorem modHart_nextId (s : State) (id : Nat) (f : Hart → Hart) : (modHart s id f).nextId = s.nextId := by unfold modHart; split <;> rfl
@[simp] theorem modHart_ltags (s : State) (id : Nat) (f : Hart → Hart) : (modHart s id f).ltags = s.ltags := by unfold modHart; split <;> rfl
@[simp] theorem modHart_inputs (s : State) (id : Nat) (f : Hart → Hart) : (modHart s id f).inputs = s.inputs := by unfold modHart; split <;> rfl
@[simp] theorem modHart_yielded (s : State) (id : Nat) (f : Hart → Hart) : (modHart s id f).yielded = s.yielded := by unfold modHart; split <;> rfl

@[simp] theorem modPair_cur (s : State) (id : Nat) (f : Pair → Pair) : (modPair s id f).cur = s.cur := by unfold modPair; split <;> rfl
@[simp] theorem modPair_h (s : State) (id : Nat) (f : Pair → Pair) : (modPair s id f).h = s.h := by unfold modPair; split <;> rfl
@[simp] theorem modPair_harts (s : State) (id : Nat) (f : Pair → Pair) : (modPair s id f).harts = s.harts := by unfold modPair; split <;> rfl
@[simp] theorem modPair_mem (s : State) (id : Nat) (f : Pair → Pair) : (modPair s id f).mem = s.mem := by unfold modPair; split <;> rfl
@[simp] theorem modPair_poison (s : State) (id : Nat) (f : Pair → Pair) : (modPair s id f).poison = s.poison := by unfold modPair; split <;> rfl
@[simp] theorem modPair_secGen (s : State) (id : Nat) (f : Pair → Pair) : (modPair s id f).secGen = s.secGen := by unfold modPair; split <;> rfl
@[simp] theorem modPair_wlog (s : State) (id : Nat) (f : Pair → Pair) : (modPair s id f).wlog = s.wlog := by unfold modPair; split <;> rfl
@[simp] theorem modPair_genSeq (s : State) (id : Nat) (f : Pair → Pair) : (modPair s id f).genSeq = s.genSeq := by unfold modPair; split <;> rfl
@[simp] theorem modPair_reqs (s : State) (id : Nat) (f : Pair → Pair) : (modPair s id f).reqs = s.reqs := by unfold modPair; split <;> rfl
@[simp] theorem modPair_cmds (s : State) (id : Nat) (f : Pair → Pair) : (modPair s id f).cmds = s.cmds := by unfold modPair; split <;> rfl
@[simp] theorem modPair_sems (s : State) (id : Nat) (f : Pair → Pair) : (modPair s id f).sems = s.sems := by unfold modPair; split <;> rfl
@[simp] theorem modPair_holds (s : State) (id : Nat) (f : Pair → Pair) : (modPair s id f).holds = s.holds := by unfold modPair; split <;> rfl
@[simp] theorem modPair_rwaits (s : State) (id : Nat) (f : Pair → Pair) : (modPair s id f).rwaits = s.rwaits := by unfold modPair; split <;> rfl
@[simp] theorem modPair_pool (s : State) (id : Nat) (f : Pair → Pair) : (modPair s id f).pool = s.pool := by unfold modPair; split <;> rfl
@[simp] theorem modPair_shares (s : State) (id : Nat) (f : Pair → Pair) : (modPair s id f).shares = s.shares := by unfold modPair; split <;> rfl
@[simp] theorem modPair_ctxs (s : State) (id : Nat) (f : Pair → Pair) : (modPair s id f).ctxs = s.ctxs := by unfold modPair; split <;> rfl
@[simp] theorem modPair_launches (s : State) (id : Nat) (f : Pair → Pair) : (modPair s id f).launches = s.launches := by unfold modPair; split <;> rfl
@[simp] theorem modPair_cpcs (s : State) (id : Nat) (f : Pair → Pair) : (modPair s id f).cpcs = s.cpcs := by unfold modPair; split <;> rfl
@[simp] theorem modPair_slots (s : State) (id : Nat) (f : Pair → Pair) : (modPair s id f).slots = s.slots := by unfold modPair; split <;> rfl
@[simp] theorem modPair_hub (s : State) (id : Nat) (f : Pair → Pair) : (modPair s id f).hub = s.hub := by unfold modPair; split <;> rfl
@[simp] theorem modPair_cyc (s : State) (id : Nat) (f : Pair → Pair) : (modPair s id f).cyc = s.cyc := by unfold modPair; split <;> rfl
@[simp] theorem modPair_now (s : State) (id : Nat) (f : Pair → Pair) : (modPair s id f).now = s.now := by unfold modPair; split <;> rfl
@[simp] theorem modPair_stamp (s : State) (id : Nat) (f : Pair → Pair) : (modPair s id f).stamp = s.stamp := by unfold modPair; split <;> rfl
@[simp] theorem modPair_free (s : State) (id : Nat) (f : Pair → Pair) : (modPair s id f).free = s.free := by unfold modPair; split <;> rfl
@[simp] theorem modPair_nextId (s : State) (id : Nat) (f : Pair → Pair) : (modPair s id f).nextId = s.nextId := by unfold modPair; split <;> rfl
@[simp] theorem modPair_ltags (s : State) (id : Nat) (f : Pair → Pair) : (modPair s id f).ltags = s.ltags := by unfold modPair; split <;> rfl
@[simp] theorem modPair_inputs (s : State) (id : Nat) (f : Pair → Pair) : (modPair s id f).inputs = s.inputs := by unfold modPair; split <;> rfl
@[simp] theorem modPair_yielded (s : State) (id : Nat) (f : Pair → Pair) : (modPair s id f).yielded = s.yielded := by unfold modPair; split <;> rfl

end Sys2Proof.Machine
end

