-- ==== Sys2Proof/Laws/Frames.lean ====
section
/-! SUPPORT. What each shared operation can change: the operation is the state it started from with the named fields
replaced.  A caller cites the equation instead of unfolding the operation. -/
namespace Sys2Proof.Machine
open Sys2Proof

theorem foldl_keeps {α β : Type} (P : α → Prop) (f : α → β → α) (hf : ∀ a b, P a → P (f a b)) (l : List β) (a : α) (h : P a) :
    P (l.foldl f a) := by
  induction l generalizing a with
  | nil => exact h
  | cons b l ih => exact ih _ (hf _ _ h)

/-! ## The firmware window (R355) -/

/-- A write of firmware changes memory, its record of old bytes and the count of accesses dropped. -/
theorem windowWrite_eq (s : State) (off : Nat) (bs : List Byte) : windowWrite s off bs =
    { s with mem := (windowWrite s off bs).mem, wlog := (windowWrite s off bs).wlog,
             hub := { s.hub with accessLog := (windowWrite s off bs).hub.accessLog } } := by
  unfold windowWrite
  split
  · rw [writeBytes_eq]
  · refine foldl_keeps (fun t : State =>
      t = { s with mem := t.mem, wlog := t.wlog, hub := { s.hub with accessLog := t.hub.accessLog } }) _ (fun t i h => ?_) _ _ rfl
    dsimp only
    split
    · rw [writeBytes_eq, h]
    · rw [h]

/-! ## Entries, waits and holds (R265) -/

theorem markEscape_eq (s : State) (it : Option (Nat × Nat)) : markEscape s it = { s with launches := (markEscape s it).launches } := by
  cases it <;> rfl

/-- An entry given back: the context's count, the shares, the pool. -/
theorem freeEntries_eq (s : State) (c die n : Nat) : freeEntries s c die n =
    { s with ctxs := (freeEntries s c die n).ctxs, shares := (freeEntries s c die n).shares, pool := (freeEntries s c die n).pool } := rfl

/-- No share grows beyond 256. -/
theorem freeEntries_shares (s : State) (c die n : Nat) (h : s.shares.length = 4 ∧ ∀ m ∈ s.shares, m ≤ 256) :
    (freeEntries s c die n).shares.length = 4 ∧ ∀ m ∈ (freeEntries s c die n).shares, m ≤ 256 := by
  obtain ⟨h1, h2⟩ := h
  constructor
  · simp [freeEntries, h1]
  · intro m hm
    simp only [freeEntries] at hm
    rcases List.mem_or_eq_of_mem_set hm with hm | rfl
    · exact h2 m hm
    · have h3 : s.shares.getD die 0 ≤ 256 := by
        rw [List.getD_eq_getElem?_getD]
        cases hx : s.shares[die]? with
        | none => simp
        | some x => exact h2 x (List.mem_of_getElem? hx)
      split <;> omega

theorem freeWait_eq (s : State) (c die : Nat) (w : Option Wait) : freeWait s c die w =
    { s with ctxs := (freeWait s c die w).ctxs, shares := (freeWait s c die w).shares, pool := (freeWait s c die w).pool } := by
  cases w with
  | none => rfl
  | some w => exact freeEntries_eq s c die 1

theorem dropHolds_eq (s : State) (die uid : Nat) : dropHolds s die uid =
    { s with holds := s.holds.filter (fun x => x.uid != uid), ctxs := (dropHolds s die uid).ctxs
             shares := (dropHolds s die uid).shares, pool := (dropHolds s die uid).pool } := by
  unfold dropHolds
  exact foldl_keeps (fun t : State => t =
      { s with holds := s.holds.filter (fun x => x.uid != uid), ctxs := t.ctxs, shares := t.shares, pool := t.pool }) _
    (fun t x ht => by
      split
      · rw [freeEntries_eq]; rw [ht]
      · exact ht) _ _ rfl

/-! ## Ending a hart, a pair, an item (R36, R323, R346) -/

/-- The fields that ending a hart can change. -/
def EndsOnly (s t : State) : Prop := t = { s with h := t.h, harts := t.harts, holds := t.holds, ctxs := t.ctxs, shares := t.shares, pool := t.pool }

theorem EndsOnly.refl (s : State) : EndsOnly s s := rfl
theorem EndsOnly.trans {s t u : State} (h : EndsOnly s t) (g : EndsOnly t u) : EndsOnly s u := by
  unfold EndsOnly at *
  rw [g, h]

theorem modHart_ends (s : State) (id : Nat) (f : Hart → Hart) : EndsOnly s (modHart s id f) := by
  unfold EndsOnly modHart
  split <;> rfl

theorem freeWait_ends (s : State) (c die : Nat) (w : Option Wait) : EndsOnly s (freeWait s c die w) := by
  unfold EndsOnly; rw [freeWait_eq]

theorem dropHolds_ends (s : State) (die uid : Nat) : EndsOnly s (dropHolds s die uid) := by
  unfold EndsOnly; rw [dropHolds_eq]

/-- Ending a hart touches harts, holds and entries: no memory, no pair, no request. -/
theorem endHart_ends (s : State) (id icode cause : Nat) : EndsOnly s (endHart s id icode cause) := by
  unfold endHart
  split
  · exact .refl s
  · exact ((freeWait_ends _ _ _ _).trans (dropHolds_ends _ _ _)).trans (modHart_ends _ _ _)

theorem endPair_ends (s : State) (pid icode cause : Nat) : EndsOnly s (endPair s pid icode cause) :=
  (endHart_ends _ _ _ _).trans (endHart_ends _ _ _ _)

/-- The fields that the end of an item or a context can change. -/
def StopsOnly (s t : State) : Prop := t = { s with
  h := t.h, harts := t.harts, holds := t.holds, ctxs := t.ctxs, shares := t.shares, pool := t.pool, launches := t.launches,
  cmds := t.cmds, sems := t.sems }

theorem StopsOnly.refl (s : State) : StopsOnly s s := rfl
theorem StopsOnly.trans {s t u : State} (h : StopsOnly s t) (g : StopsOnly t u) : StopsOnly s u := by
  unfold StopsOnly at *
  rw [g, h]
theorem EndsOnly.stops {s t : State} (h : EndsOnly s t) : StopsOnly s t := by
  unfold EndsOnly at h
  unfold StopsOnly
  rw [h]

theorem modItem_stops (s : State) (t i : Nat) (f : Item → Item) : StopsOnly s (modItem s t i f) := rfl
theorem modLaunch_stops (s : State) (t : Nat) (f : Launch → Launch) : StopsOnly s (modLaunch s t f) := rfl
theorem setErr_stops (s : State) (n : Nat) : StopsOnly s (setErr s n) := rfl

theorem endItem_stops (s : State) (t i icode cause : Nat) : StopsOnly s (endItem s t i icode cause) := by
  unfold endItem
  split
  · exact .refl s
  · rename_i it _
    have hb : StopsOnly s (if it.far then modItem s t i (fun x => { x with icode := some (x.icode.getD (icode, cause)) })
        else endPair s it.pair icode cause) := by
      split
      · exact modItem_stops ..
      · exact (endPair_ends ..).stops
    split
    · exact hb
    · exact hb
    · exact hb
    · have h1 := foldl_keeps (StopsOnly s)
        (fun u (x : Nat × Wait) => freeWait u (((getLaunch u t).map (·.ctx)).getD 0) (dieOf (2 * it.pair)) (some x.2))
        (fun u x h => h.trans (freeWait_ends u _ _ _).stops) it.waits s (.refl s)
      exact ((h1.trans (dropHolds_ends _ _ _).stops).trans (dropHolds_ends _ _ _).stops).trans (modItem_stops ..)
    all_goals exact .refl s

/-- An integrity violation ends harts, items and commands and marks semaphores; memory stands (R204, R346). -/
theorem failContext_stops (s : State) (c : Nat) : StopsOnly s (failContext s c) := by
  unfold failContext
  refine foldl_keeps (StopsOnly s) _ (fun t l h => ?_) _ _ (foldl_keeps (StopsOnly s) _ (fun t n h => h.trans (setErr_stops t n)) _ _ rfl)
  split
  · exact h.trans (modLaunch_stops ..)
  · exact h.trans (modLaunch_stops ..)
  all_goals exact foldl_keeps (StopsOnly s) _ (fun t it h => h.trans (endItem_stops ..)) _ _ h

/-! ## Taking a trap (R323) -/

/-- Everything that taking a trap can do: the trap registers of the hart in focus; on a double trap or a fatal cause of a
user core the end of the item; on a double trap of a core of M the stop of the hart. -/
theorem takeTrap_cases (code sub : Nat) (elem : Bool) (tval tpc : Dword) (s : State) :
    takeTrap code sub elem tval tpc s = { s with h := trapHart (onUser s) code sub elem tval tpc s.h } ∨
    (onUser s = true ∧ (takeTrap code sub elem tval tpc s = endItemThroughM s code ∨
      takeTrap code sub elem tval tpc s = endItemThroughM s causeDOUBLE)) ∨
    (onUser s = false ∧ takeTrap code sub elem tval tpc s = { s with h := { s.h with issue := .stalled .stopped } }) := by
  unfold takeTrap
  split
  · rename_i h
    simp only [Bool.and_eq_true] at h
    exact .inr (.inl ⟨h.1, .inl rfl⟩)
  · split
    · cases hu : onUser s
      · exact .inr (.inr ⟨rfl, rfl⟩)
      · exact .inr (.inl ⟨rfl, .inr rfl⟩)
    · exact .inl rfl

theorem endItemThroughM_stops (s : State) (code : Nat) : StopsOnly s (endItemThroughM s code) := by
  unfold endItemThroughM
  split
  · exact (endPair_ends ..).stops.trans (failContext_stops ..)
  · exact (endPair_ends ..).stops

/-- A trap changes no memory, no pair, no request, no register of the hub. -/
theorem takeTrap_stops (code sub : Nat) (elem : Bool) (tval tpc : Dword) (s : State) :
    StopsOnly s (takeTrap code sub elem tval tpc s) := by
  rcases takeTrap_cases code sub elem tval tpc s with h | ⟨_, h | h⟩ | ⟨_, h⟩ <;> rw [h]
  · rfl
  · exact endItemThroughM_stops ..
  · exact endItemThroughM_stops ..
  · rfl

/-! ## Requests (R209, R232) -/

/-- A request joins the list under the next number. -/
theorem pushReq_eq (s : State) (r : Req) : pushReq s r =
    { s with reqs := s.reqs ++ [{ r with id := s.nextId, uid := s.h.uid, hart := s.cur, ctx := s.p.ctx }], nextId := s.nextId + 1 } := rfl

theorem settle_eq (s : State) (r : Req) (w : Bool) : settle s r w = { s with reqs := (settle s r w).reqs } := by
  unfold settle; split <;> rfl

/-- Everything a scalar load can do: stall, take the trap of a check, or stall for the reply of a new request. -/
theorem loadOp_cases (len size : Nat) (signed : Bool) (d : BitVec 5) (va : Dword) (g pol : Nat) (s : State) :
    (∃ w, accessStall s (some g) = some w ∧ loadOp len size signed d va g pol s = stall w s) ∨
    (∃ t, accessStall s (some g) = none ∧ checkAccess s va size .read true false = .trapped t ∧ loadOp len size signed d va g pol s = t) ∨
    (∃ a, accessStall s (some g) = none ∧ checkAccess s va size .read true false = .ok a ∧
      loadOp len size signed d va g pol s = stall (.reply s.nextId) (pushReq s
        { id := 0, uid := 0, hart := 0, strm := some g, dom := domOf a.key, op := .load signed, key := a.key, size := size,
          rd := d.toNat, len := len, gen := a.gen, pol := pol, va := va })) := by
  unfold loadOp
  cases h : accessStall s (some g) with
  | some w => exact .inl ⟨w, rfl, rfl⟩
  | none =>
    cases h2 : checkAccess s va size .read true false with
    | trapped t => exact .inr (.inl ⟨t, rfl, rfl, by simp⟩)
    | ok a => exact .inr (.inr ⟨a, rfl, rfl, by simp⟩)

/-- Everything a scalar store can do: stall, take the trap of a check, or queue a request and go on. -/
theorem storeOp_cases (len size : Nat) (v va : Dword) (g pol : Nat) (s : State) :
    (∃ w, accessStall s (some g) = some w ∧ storeOp len size v va g pol s = stall w s) ∨
    (∃ t, accessStall s (some g) = none ∧ checkAccess s va size .write false true = .trapped t ∧ storeOp len size v va g pol s = t) ∨
    (∃ a, accessStall s (some g) = none ∧ checkAccess s va size .write false true = .ok a ∧
      storeOp len size v va g pol s = advance len (pushReq s
        { id := 0, uid := 0, hart := 0, strm := some g, dom := domOf a.key, op := .store, key := a.key, size := size,
          val := v.toNat % 2 ^ (8 * size), gen := a.gen, pol := pol, va := va })) := by
  unfold storeOp
  cases h : accessStall s (some g) with
  | some w => exact .inl ⟨w, rfl, rfl⟩
  | none =>
    cases h2 : checkAccess s va size .write false true with
    | trapped t => exact .inr (.inl ⟨t, rfl, rfl, by simp⟩)
    | ok a => exact .inr (.inr ⟨a, rfl, rfl, by simp⟩)

/-! ## Waits (R257) -/

/-- The end of a wait touches the queues of its pair and the hart in focus, and gives its entry back. -/
theorem finishWait_ends (s : State) (w : Wait) (code : Nat) :
    EndsOnly { s with p := (finishWait s w code).p } (finishWait s w code) := by
  unfold EndsOnly finishWait
  simp only [advance]
  rw [freeWait_eq]

/-- Only a wait that ends OK changes its pair (R295). -/
theorem finishWait_ends_of_ne (s : State) (w : Wait) {code : Nat} (hc : code ≠ 0) : EndsOnly s (finishWait s w code) := by
  unfold EndsOnly finishWait
  simp only [advance, if_neg hc]
  rw [freeWait_eq]

theorem trapWait_stops (s : State) (w : Wait) (cause : Nat) (tval : Dword) : StopsOnly s (trapWait s w cause tval) := by
  unfold trapWait trapHere
  refine StopsOnly.trans ?_ (takeTrap_stops ..)
  exact ((freeWait_ends s s.p.ctx _ (some w)).stops).trans rfl

theorem timeoutWait_stops (s : State) (w : Wait) : StopsOnly s (timeoutWait s w) := by
  unfold timeoutWait
  split
  · exact trapWait_stops ..
  · exact (finishWait_ends_of_ne s w (by decide)).stops

/-! ## The dispatch queue (R44) -/

/-- Everything the front end can do with a vector instruction that names no bound register and touches no memory. -/
theorem vIssue_lane (i : Instr) (f : VForm) (s : State) (hm : f.mem = none) (hb : chunksIn s f ++ chunksOut s f = []) :
    vIssue i f s = .next (illTrap i s) ∨ vIssue i f s = .next (stall .otherChange s) ∨
    vIssue i f s = .next (stall .queueFull s) ∨
    (formOk s f = true ∧ onUser s = true ∧ s.p.chg = none ∧ s.p.dq.length < 32 ∧
      vIssue i f s = .next (finishIssue f (entryOf s i f) s)) := by
  unfold vIssue legalOr
  by_cases hw : i.wf = true
  · rw [if_pos hw]
    by_cases hu : onUser s = true
    · by_cases hc : s.p.chg = none
      · by_cases hf : formOk s f = true
        · by_cases hq : 32 ≤ s.p.dq.length
          · simp [hu, hc, hf, hm, namesBound, hb, hq]
          · simp [hu, hc, hf, hm, namesBound, hb, hq]; omega
        · simp [hu, hc, hf]
      · simp [hu, Option.isSome_iff_ne_none.mpr hc]
    · simp [hu]
  · rw [if_neg hw]; exact .inl rfl

end Sys2Proof.Machine
end

