-- ==== Sys2Proof/Laws/Issue.lean ====
section
/-! SUPPORT. What the bookkeeping around an instruction's issue can change (R41, R42, R56). -/
namespace Sys2Proof.Machine
open Sys2Proof

/-- An attempt that only stalled is no issue (R41): nothing but the hart's latest issue changes. -/
theorem keepIssue_eq (before after : State) : keepIssue before after =
    { after with h := { after.h with issuedAt := (keepIssue before after).h.issuedAt } } := by
  unfold keepIssue
  split
  · split <;> rfl
  · rfl

/-- The latencies of an instruction (R42, R56) change when its result is there and, where it changes the flow, its hart's
issue state; nothing else. -/
theorem noteLatency_keeps (i : Instr) (before after : State) : noteLatency i before after =
    { after with h := { after.h with avail := (noteLatency i before after).h.avail,
                                     issue := (noteLatency i before after).h.issue } } := by
  unfold noteLatency
  split
  · dsimp only
    split <;> rfl
  · unfold noteLoad
    split <;> rfl

/-- An instruction all of whose operands are there runs, and then its issue is noted. -/
theorem issueInstr_ready (run : State → Host.Outcome State Fault Refusal) (i : Instr) (s : State)
    (h : operandWait s i = none) : issueInstr run i s = (match run (noteIssue s) with
      | .next t => .next (noteLatency i s (keepIssue s t))
      | .fault r => .fault r
      | .refused r => .refused r) := by
  unfold issueInstr
  rw [h]
  dsimp only
  cases run (noteIssue s) <;> rfl

/-- One that reads a register still to be written stalls until then and changes nothing else. -/
theorem issueInstr_waits (run : State → Host.Outcome State Fault Refusal) (i : Instr) (s : State) (t : Nat)
    (h : operandWait s i = some t) : issueInstr run i s = .next (stall (.interlock t) s) := by
  unfold issueInstr
  rw [h]

end Sys2Proof.Machine
end

