-- ==== Sys2Proof/Laws/Ops.lean ====
section
/-! SUPPORT. What the shared operations on harts can do: registers, the next instruction, results, traps, focus. -/
namespace Sys2Proof.Machine
open Sys2Proof

/-! ## Registers -/

theorem readX_zero (h : Hart) : readX h 0 = 0 := rfl

theorem writeX_zero (h : Hart) (v : Dword) : writeX h 0 v = h := rfl

/-- Reading a register after a write: the value at the register written, x0 excepted, and no other changed. -/
theorem readX_writeX (h : Hart) (d r : BitVec 5) (v : Dword) :
    readX (writeX h d v) r = if r = d ∧ r ≠ 0 then v else readX h r := by
  unfold readX writeX
  by_cases hr : r = 0
  · rw [if_pos hr, if_neg (fun h => h.2 hr), if_pos hr]
  · rw [if_neg hr, if_neg hr]
    by_cases hd : d = 0
    · rw [if_pos hd, if_neg (fun h => hr (h.1.trans hd))]
    · rw [if_neg hd]
      by_cases e : r = d
      · subst e; rw [if_pos ⟨rfl, hr⟩]; exact Vector.getElem_set_self _
      · rw [if_neg (fun h => e h.1)]
        exact Vector.getElem_set_ne d.isLt r.isLt (fun h => e (BitVec.eq_of_toNat_eq h.symm))

/-- A write of a register changes the register file alone. -/
theorem writeX_fields (h : Hart) (d : BitVec 5) (v : Dword) : writeX h d v = { h with x := (writeX h d v).x } := by
  unfold writeX; split <;> rfl

@[simp] theorem readX_withX (h g : Hart) (r : BitVec 5) : readX { h with x := g.x } r = readX g r := rfl

/-! ## The next instruction -/

/-- The end of an instruction touches the two STEP bits alone (R326). -/
theorem retire_fields (h : Hart) :
    retire h = { h with stepArmed := h.stepArmed && h.xol.isSome, stepDue := h.stepDue || (h.stepArmed && h.xol.isNone) } := by
  obtain ⟨⟩ := h
  rename_i _ _ _ _ _ _ _ _ _ _ _ _ _ _ _ _ _ _ _ _ _ _ _ _ _ _ _ a d x _ _ _
  cases a <;> cases x <;> cases d <;> rfl

/-- What an out-of-line run becomes when the hart moves on by `len` bytes (R326). -/
def nextXol (len : Nat) (h : Hart) : Option (Dword × Dword) :=
  match h.xol with
  | some (a, b) => if (h.pc + BitVec.ofNat 64 len - a).toNat ≤ 2 then some (a, b) else none
  | none => none

/-- Moving past an instruction: the PC, the out-of-line run, the STEP bits, nothing else. -/
theorem advanceH_fields (len : Nat) (h : Hart) :
    advanceH len h = { h with
      pc := h.pc + BitVec.ofNat 64 len, xol := nextXol len h
      stepArmed := h.stepArmed && (nextXol len h).isSome
      stepDue := h.stepDue || (h.stepArmed && (nextXol len h).isNone) } := by
  unfold advanceH; rw [retire_fields]; rfl

/-- A change of flow: the PC, the end of an out-of-line run, the STEP bits, nothing else. -/
theorem jumpH_fields (t : Dword) (h : Hart) :
    jumpH t h = { h with pc := t, xol := none, stepArmed := false, stepDue := h.stepDue || h.stepArmed } := by
  unfold jumpH; rw [retire_fields]; simp

@[simp] theorem advanceH_pc (len : Nat) (h : Hart) : (advanceH len h).pc = h.pc + BitVec.ofNat 64 len := by
  rw [advanceH_fields]
@[simp] theorem advanceH_x (len : Nat) (h : Hart) : (advanceH len h).x = h.x := by rw [advanceH_fields]
@[simp] theorem advanceH_ldst (len : Nat) (h : Hart) : (advanceH len h).ldst = h.ldst := by rw [advanceH_fields]
@[simp] theorem advanceH_issue (len : Nat) (h : Hart) : (advanceH len h).issue = h.issue := by rw [advanceH_fields]
@[simp] theorem advanceH_level (len : Nat) (h : Hart) : (advanceH len h).level = h.level := by rw [advanceH_fields]
@[simp] theorem advanceH_fpst (len : Nat) (h : Hart) : (advanceH len h).fpst = h.fpst := by rw [advanceH_fields]
@[simp] theorem advanceH_vl (len : Nat) (h : Hart) : (advanceH len h).vl = h.vl := by rw [advanceH_fields]
@[simp] theorem advanceH_vstart (len : Nat) (h : Hart) : (advanceH len h).vstart = h.vstart := by rw [advanceH_fields]
@[simp] theorem advanceH_wait (len : Nat) (h : Hart) : (advanceH len h).wait = h.wait := by rw [advanceH_fields]
@[simp] theorem advanceH_uid (len : Nat) (h : Hart) : (advanceH len h).uid = h.uid := by rw [advanceH_fields]
@[simp] theorem advanceH_tstat (len : Nat) (h : Hart) : (advanceH len h).tstat = h.tstat := by rw [advanceH_fields]
@[simp] theorem jumpH_pc (t : Dword) (h : Hart) : (jumpH t h).pc = t := by rw [jumpH_fields]
@[simp] theorem jumpH_x (t : Dword) (h : Hart) : (jumpH t h).x = h.x := by rw [jumpH_fields]
@[simp] theorem jumpH_ldst (t : Dword) (h : Hart) : (jumpH t h).ldst = h.ldst := by rw [jumpH_fields]
@[simp] theorem jumpH_issue (t : Dword) (h : Hart) : (jumpH t h).issue = h.issue := by rw [jumpH_fields]
@[simp] theorem readX_advanceH (len : Nat) (h : Hart) (r : BitVec 5) : readX (advanceH len h) r = readX h r := by
  unfold readX; rw [advanceH_fields]
@[simp] theorem readX_jumpH (t : Dword) (h : Hart) (r : BitVec 5) : readX (jumpH t h) r = readX h r := by
  unfold readX; rw [jumpH_fields]

/-! ## Results -/

/-- A scalar result changes the hart in focus alone: its register, LDST, and where it goes on. -/
theorem resultX_eq (len : Nat) (d : BitVec 5) (v : Dword) (s : State) :
    resultX len d v s = { s with h := advanceH len { writeX s.h d v with ldst := d } } := rfl

/-- The registers after a scalar result. -/
theorem resultX_readX (len : Nat) (d r : BitVec 5) (v : Dword) (s : State) :
    readX (resultX len d v s).h r = if r = d ∧ r ≠ 0 then v else readX s.h r := by
  rw [resultX_eq, ← readX_writeX]; exact readX_advanceH _ _ _

@[simp] theorem resultX_ldst (len : Nat) (d : BitVec 5) (v : Dword) (s : State) : (resultX len d v s).h.ldst = d := by
  rw [resultX_eq]; simp

@[simp] theorem writeX_pc (h : Hart) (d : BitVec 5) (v : Dword) : (writeX h d v).pc = h.pc := by rw [writeX_fields]
@[simp] theorem writeX_xol (h : Hart) (d : BitVec 5) (v : Dword) : (writeX h d v).xol = h.xol := by rw [writeX_fields]

@[simp] theorem resultX_pc (len : Nat) (d : BitVec 5) (v : Dword) (s : State) :
    (resultX len d v s).h.pc = s.h.pc + BitVec.ofNat 64 len := by
  rw [resultX_eq]; simp

/-! ## Traps (R323) -/

/-- Taking a trap on a user hart that may: the trap registers, level S, the PC at TVEC; the state outside the hart
stands. -/
theorem takeTrap_user (code sub : Nat) (elem : Bool) (tval tpc : Dword) (s : State) (hu : onUser s = true)
    (hc : code ≠ causeINTEGRITY ∧ code ≠ causeDOUBLE ∧ code ≠ causeRESTORE)
    (hi : s.h.level = 0 ∨ s.h.tstat.getLsbD 1 = false) :
    takeTrap code sub elem tval tpc s = { s with h := trapHart true code sub elem tval tpc s.h } := by
  unfold takeTrap
  rw [if_neg (by simp [hc.1, hc.2.1, hc.2.2]), if_neg (by rintro ⟨h1, h2, _⟩; cases hi <;> simp_all), hu]

/-! ## Focus -/

@[simp] theorem focus_cur (s : State) : focus s s.cur = s := by simp [focus]

theorem getHart_cur (s : State) : getHart s s.cur = some s.h := by simp [getHart]

theorem getPair_cur (s : State) : getPair s (pairOf s.cur) = some s.p := by simp [getPair]

/-- An operation on the hart in focus that keeps the focus is that operation. -/
theorem withHart_cur (s : State) (f : State → State) (hc : (f s).cur = s.cur) : withHart s s.cur f = f s := by
  simp only [withHart, getHart_cur, focus_cur]
  rw [← hc, focus_cur]

/-! ## Writes that no wait sees (R304) -/

/-- A write to a word that no hart waits on is evaluated by nobody. -/
theorem observeWord_unseen (s : State) (key : Nat)
    (h : ∀ e ∈ allHarts s, ∀ w, e.2.wait = some w → wordOf key ∉ wordsOf w.kind) : observeWord s key = s := by
  have fold : ∀ l : List (Nat × Hart), (∀ e ∈ l, ∀ w, e.2.wait = some w → wordOf key ∉ wordsOf w.kind) →
      l.foldl (fun t e => if e.2.wait.any (fun w => (wordsOf w.kind).contains (wordOf key)) then observeHart t e.1 else t) s = s := by
    intro l
    induction l with
    | nil => exact fun _ => rfl
    | cons e l ih =>
      intro hl
      have he : (e.2.wait.any fun w => (wordsOf w.kind).contains (wordOf key)) = false := by
        cases hw : e.2.wait with
        | none => rfl
        | some w => simpa using hl e List.mem_cons_self w hw
      rw [List.foldl_cons, he]
      exact ih (fun x hx => hl x (List.mem_cons_of_mem _ hx))
  exact fold _ h

theorem modHart_focused (s : State) (f : Hart → Hart) : modHart s s.cur f = { s with h := f s.h } := by simp [modHart]

theorem modPair_focused (s : State) (f : Pair → Pair) : modPair s (pairOf s.cur) f = { s with p := f s.p } := by
  simp [modPair]

end Sys2Proof.Machine
end

