-- ==== Sys2Proof/Tests/Slice0.lean ====
section
/-! SUPPORT. Tests: words of the spec's encodings and what they decode to, an ill-formed instruction for each check of
WellFormed, small one-step tests against the spec's worked examples, and for each statement of the certificate a
concrete state and operands that meet what it assumes. -/
namespace Sys2Proof.Tests
open Sys2Proof Sys2Proof.Machine Sys2Proof.Spec

set_option maxRecDepth 100000
set_option Elab.async false

/-! ## Small states -/

/-- One item on pair 0 of context 0, its access hart ready, all other memory empty. -/
def w0 : State := placeWord State.reset [0, 0, 0, 0] 0
/-- The same with the execute hart ready and in focus. -/
def w1 : State := placeWord State.reset [0, 0, 0, 0] 1
/-- A register of the hart in focus set. -/
def wx (d : BitVec 5) (v : Dword) (s : State) : State := { s with h := writeX s.h d v }
/-- The hart in focus changed. -/
def wh (f : Hart → Hart) (s : State) : State := { s with h := f s.h }
/-- The pair in focus changed. -/
def wp (f : Pair → Pair) (s : State) : State := { s with p := f s.p }

/-- A register of the state an outcome leaves. -/
def outX (o : Out) (r : BitVec 5) : Option Dword :=
  match o with
  | .next t => some (readX t.h r)
  | .fault _ | .refused _ => none
/-- The PC an outcome leaves. -/
def outPc (o : Out) : Option Dword :=
  match o with
  | .next t => some t.h.pc
  | .fault _ | .refused _ => none
/-- The trap registers an outcome leaves: TCAUSE, TVAL, TPC. -/
def outTrap (o : Out) : Option (BitVec 12 × Dword × Dword) :=
  match o with
  | .next t => some (t.h.tcause, t.h.tval, t.h.tpc)
  | .fault _ | .refused _ => none

/-! ## Decoding (spec/03_encoding.md to spec/10_order_instructions.md; expected values from their worked words) -/

theorem test_decode_scalar : decodeTableWord 32 0x04CE6283 = some (.div 5 6 7) ∧
    decodeTableWord 32 0x017E9413 = some (.srai 8 9 63) ∧ decodeTableWord 32 0x12345315 = some (.lih 6 0x12345) ∧
    decodeTableWord 32 0x01803319 = some (.bse 3 6) := by decide
theorem test_decode_compact : decodeTableWord 16 0xFFE2 = some (.cBnez 0x3FF) := by decide
theorem test_decode_memory : decodeTableWord 32 0xF80E2F21 = some (.std 2 7 0 0 0x7F) ∧
    decodeTableWord 32 0xA64E62AB = some (.amoMinuD 5 6 7 1 3 0 1) ∧ decodeTableWord 32 0x560E62AF = some (.casD 5 6 7 0 3 1 0) := by
  decide
theorem test_decode_queues : decodeTableWord 32 0x000E62B1 = some (.qsend 5 6 7 0 0) ∧
    decodeTableWord 32 0x060E62B1 = some (.qrecv 5 6 7 0 4) ∧ decodeTableWord 32 0x0A8004B1 = some (.qtest 9 5) := by decide
theorem test_decode_control : decodeTableWord 32 0x004002B3 = some (.getc 5 4) ∧
    decodeTableWord 32 0x025452B3 = some (.setc 5 5 0x025) ∧ decodeTableWord 32 0x023C6033 = some (.clrcb 0 6 0x023) := by decide
theorem test_decode_system : decodeTableWord 32 0x00400035 = some .rett ∧ decodeTableWord 32 0x00800035 = some .brk ∧
    decodeTableWord 32 0x00C00035 = some .flushi ∧ decodeTableWord 32 0x01000035 = some .snap := by decide
theorem test_decode_vtype : decodeTableWord 32 0x030062B7 = some (.setvt 5 6 4) ∧
    decodeTableWord 32 0x000062B7 = some (.setvl 5 6) ∧ decodeTableWord 32 0x0400CA37 = some (.settl 20 12) := by decide
theorem test_decode_waits : decodeTableWord 32 0x060833B9 = some (.waits 7 3 4 0 12) ∧
    decodeTableWord 32 0x019A603B = some (.semadd 0 6 1 0 3 3) := by decide
theorem test_decode_objects : decodeTableWord 32 0x0000603F = some (.barjoin 6) ∧
    decodeTableWord 32 0x1880603F = some (.bararv 6 3) ∧ decodeTableWord 32 0x190E62BF = some (.barwt 5 6 7 0 3) ∧
    decodeTableWord 32 0x6B1062BF = some (.ldwait 5 6 8 0 5 1) ∧ decodeTableWord 32 0x9B8E62BF = some (.waitv 5 6 7 0 3 1) := by decide
theorem test_decode_fences : decodeTableWord 32 0x00000041 = some (.fensv 0) ∧ decodeTableWord 32 0x00800041 = some (.fenvs 0) ∧
    decodeTableWord 32 0x01000041 = some (.fenvv 0) ∧ decodeTableWord 32 0x020C52C1 = some (.sbar 5 6 0 5) := by decide
theorem test_decode_vector : decodeTableWord 32 0x880412C3 = some (.vcmpLt 5 1 2 0 0) ∧
    decodeTableWord 32 0x140044C5 = some (.kpopc 9 4) ∧ decodeTableWord 32 0x060A0147 = some (.vbcast 2 5 0) ∧
    decodeTableWord 32 0x1C009547 = some (.vpair 10 9 0) ∧ decodeTableWord 32 0x08008249 = some (.vred 4 8 0 2) ∧
    decodeTableWord 32 0x0A1212CB = some (.vsplit 5 1 9 0) := by decide
theorem test_decode_vmem : decodeTableWord 32 0xE04A644D = some (.vldw 8 6 5 1 0 4) ∧
    decodeTableWord 32 0x804A644D = some (.vldx 8 6 5 1 0 0) ∧ decodeTableWord 32 0x044A61D1 = some (.vscat 3 6 5 1 2 0) := by decide
theorem test_decode_window : decodeTableWord 32 0x300071D3 = some (.vacc 3 7 2) ∧
    decodeTableWord 32 0x44806053 = some (.wmerge 6 2 2 0) ∧ decodeTableWord 32 0x80000653 = some (.vunbind 12) := by decide
theorem test_decode_engine : decodeTableWord 32 0x000062D5 = some (.xcopy 5 6 0 0 0) := by decide
theorem test_decode_matrix : decodeTableWord 32 0x1C009057 = some (.mxs 9) ∧ decodeTableWord 32 0x20008557 = some (.mxd 10 8) ∧
    decodeTableWord 32 0x14006157 = some (.accwr 2 6 0) ∧ decodeTableWord 32 0x040281D7 = some (.mmrow 3 8 1 0) := by decide
theorem test_decode_none : decodeTableWord 16 0 = none ∧ decodeTableWord 32 0xFFFFFFFF = none := by decide

/-! ## An ill-formed instruction for each check (fates of spec/03_encoding.md) -/

theorem test_wf_size : Instr.wf (.sext 1 2 3) = false ∧ Instr.wf (.zext 1 2 3) = false := by decide
theorem test_wf_fcvt : Instr.wf (.fcvt 1 2 0 6) = false := by decide
theorem test_wf_scope : Instr.wf (.amoAddW 1 2 3 0 7 1 0) = false ∧ Instr.wf (.casD 1 2 3 0 7 0 1) = false ∧
    Instr.wf (.semadd 1 2 1 0 7 0) = false ∧ Instr.wf (.semset 1 2 0 1 7 0) = false ∧ Instr.wf (.xcopy 1 2 7 1 0) = false := by decide
theorem test_wf_qrecv : Instr.wf (.qrecv 3 3 0 0 0) = false := by decide
theorem test_wf_setvt : Instr.wf (.setvt 1 2 5) = false := by decide
theorem test_wf_settl : Instr.wf (.settl 30 1) = false ∧ Instr.wf (.settl 1 0) = false := by decide
theorem test_wf_wait_scope : Instr.wf (.bararv 1 7) = false ∧ Instr.wf (.barwt 1 2 3 0 7) = false ∧
    Instr.wf (.lock 1 2 3 0 7) = false ∧ Instr.wf (.ldwait 1 2 3 0 7 0) = false ∧ Instr.wf (.unlock 1 7) = false := by decide
theorem test_wf_ldwait : Instr.wf (.ldwait 1 2 3 0 0 3) = false := by decide
theorem test_wf_fence : Instr.wf (.fence 1 2 0 0 0 0) = false ∧ Instr.wf (.fence 1 2 0 7 1 0) = false := by decide
theorem test_wf_sbar : Instr.wf (.sbar 1 2 0 0) = false := by decide
theorem test_wf_vsel : Instr.wf (.vsel 1 2 3 0 0) = false := by decide
theorem test_wf_masks : Instr.wf (.kand 9 1 2) = false ∧ Instr.wf (.kor 8 1 2) = false ∧ Instr.wf (.knot 8 1) = false ∧
    Instr.wf (.kmov 1 9) = false ∧ Instr.wf (.kpopc 1 9) = false := by decide
theorem test_wf_overlap : Instr.wf (.vslup 1 1 2 0) = false ∧ Instr.wf (.vperm 1 2 1 0) = false ∧
    Instr.wf (.vldx 1 2 1 0 0 0) = false := by decide
theorem test_wf_needs_mask : Instr.wf (.vcmprs 1 2 0) = false ∧ Instr.wf (.viota 1 0) = false ∧
    Instr.wf (.vsetvf 1 2 3 0) = false ∧ Instr.wf (.vsetvf 1 2 3 3) = false := by decide
theorem test_wf_vtag : Instr.wf (.vtag 1 0x27) = false ∧ Instr.wf (.vtag 1 0x2C) = false := by decide
theorem test_wf_red : Instr.wf (.vred 1 2 0 6) = false ∧ Instr.wf (.vscanSeg 1 2 3 0 7) = false := by decide
theorem test_wf_vldw : Instr.wf (.vldw 31 2 3 0 0 0) = false ∧ Instr.wf (.vldw 4 2 5 0 0 0) = false := by decide
theorem test_wf_window_op : Instr.wf (.vscat 1 2 3 0 0 3) = false ∧ Instr.wf (.vacc 1 2 3) = false ∧ Instr.wf (.wmerge 1 0 0 3) = false := by
  decide
theorem test_wf_cadd : Instr.wf (.cAdd 0 0) = false := by decide

/-! ## What the statements about scalar instructions assume can be met -/

/-- The access hart about to touch address 0x50000 through x1. -/
def wm : State := wx 2 7 (wx 1 0x50000 w0)
/-- A vector instruction of the hart in the queue. -/
def queued (strms : List Nat) : VEntry :=
  { id := 1, role := 0, instr := .kmov 1 2, pc := 0, vl := 0, vstart := 0, a := 0, b := 0, tags := [], rm := .rne, strms := strms }

theorem test_meets_alu : aluValue wm (.cAdd 0 1) = some (2, 0, 0x50000) ∧ aluValue wm (.div 3 1 2) = some (4, 3, 0xB6DB) := by
  decide +kernel
theorem test_meets_unary : (0 : BitVec 2) ≠ 3 := by decide
theorem test_meets_branch_taken : ∃ t n g, branchOf wm (.bne 1 2 4) = some (t, n, g) ∧ t :=
  ⟨_, _, _, rfl, by decide +kernel⟩
theorem test_meets_branch_not_taken : ∃ t n g, branchOf wm (.beq 1 2 4) = some (t, n, g) ∧ ¬t :=
  ⟨_, _, _, rfl, by decide +kernel⟩
theorem test_meets_bse : (∀ e ∈ wm.p.dq, e.role ≠ roleOf wm.cur) ∧ ¬endFlag wm.h 3 ∧
    endFlag { wm.h with g := wm.h.g.set 3 { act := true } } 3 := by unfold endFlag; decide +kernel
theorem test_meets_bse_stalled : ∃ e ∈ (wp (fun p => { p with dq := [queued []] }) wm).p.dq,
    e.role = roleOf (wp (fun p => { p with dq := [queued []] }) wm).cur := by decide +kernel
theorem test_meets_float : ∃ v, fpValue wm (.fcvt 3 1 0 5) = some v := ⟨_, rfl⟩

/-! ## What the statements about scalar accesses assume can be met -/

theorem test_meets_load : ∃ x, loadOf wm (.ldd 3 1 0 0 0) = some (x, true, 3) ∧ Ready wm ∧ IssueFree wm x.g ∧
    Passes wm x .read 0x50000 4 ∧ RequestsNumbered wm ∧ StreamClear wm x.g 0x50000 ∧ InMemory 0x50000 ∧
    checkSector wm 0x50000 4 = .good :=
  ⟨_, rfl, by unfold Ready IssueFree Passes Unwatched RequestsNumbered StreamClear InMemory Stored; decide +kernel⟩
theorem test_meets_store : ∃ x, storeOf wm (.std 1 2 0 0 0) = some (x, 2) ∧ Canonical wm ∧ IssueFree wm x.g ∧
    Passes wm x .write 0x50000 4 ∧ RequestsNumbered wm ∧ StreamClear wm x.g 0x50000 ∧ InMemory 0x50000 ∧
    domOf 0x50000 = 0 ∧ checkSector wm 0x50000 4 = .good :=
  ⟨_, rfl, by unfold Canonical IssueFree Passes Unwatched RequestsNumbered StreamClear InMemory Stored; decide +kernel⟩
theorem test_meets_atomic : ∃ x f, atomicOf wm (.casD 3 1 2 0 0 0 1) = some (x, 3, 0, 1, 0, f) ∧ Canonical wm ∧ Ready wm ∧
    IssueFree wm x.g ∧ Passes wm x .rmw 0x50000 4 ∧ RequestsNumbered wm ∧ StreamClear wm x.g 0x50000 ∧ InMemory 0x50000 ∧
    checkSector wm 0x50000 4 = .good ∧ relBlocked wm wm.h.uid wm.cur wm.nextId 0 = false :=
  ⟨_, _, rfl, by
    unfold Canonical Ready IssueFree Passes Unwatched RequestsNumbered StreamClear InMemory Stored; decide +kernel⟩
/-- The sector of 0x50000 poisoned. -/
def wpo : State := { wm with poison := [(sectorOf 0x50000, true)] }
theorem test_meets_poisoned_load : ∃ x, loadOf wpo (.ldd 3 1 0 0 0) = some (x, true, 3) ∧ Ready wpo ∧ IssueFree wpo x.g ∧
    Passes wpo x .read 0x50000 4 ∧ RequestsNumbered wpo ∧ StreamClear wpo x.g 0x50000 ∧ isPois wpo 0x50000 = true ∧
    wpo.hub.arm = false :=
  ⟨_, rfl, by unfold Ready IssueFree Passes Unwatched RequestsNumbered StreamClear; decide +kernel⟩
theorem test_meets_poisoned_atomic : ∃ x f, atomicOf wpo (.amoAddD 3 1 2 0 0 0 0) = some (x, 3, 0, 0, 0, f) ∧ Ready wpo ∧
    IssueFree wpo x.g ∧ Passes wpo x .rmw 0x50000 4 ∧ RequestsNumbered wpo ∧ StreamClear wpo x.g 0x50000 ∧
    isPois wpo 0x50000 = true ∧ wpo.hub.arm = false :=
  ⟨_, _, rfl, by unfold Ready IssueFree Passes Unwatched RequestsNumbered StreamClear; decide +kernel⟩
theorem test_meets_misaligned : ∃ x, loadOf (wx 1 0x50001 w0) (.ldd 3 1 0 0 0) = some (x, true, 3) ∧
    IssueFree (wx 1 0x50001 w0) x.g ∧ x.va.toNat % x.size ≠ 0 := ⟨_, rfl, by unfold IssueFree; decide +kernel⟩
theorem test_meets_fault : ∃ x, storeOf (wx 1 (2 ^ 54) w0) (.std 1 2 0 0 0) = some (x, 2) ∧
    IssueFree (wx 1 (2 ^ 54) w0) x.g ∧ x.va.toNat % x.size = 0 ∧ onUser w0 = true ∧ w0.hub.arm = false ∧
    resolveCur (wx 1 (2 ^ 54) w0) x.va x.size .write = .fault 0x07 := ⟨_, rfl, by unfold IssueFree; decide +kernel⟩
/-- A comparator that watches reads of 0x50004. -/
def wbp : State := wh (fun h => { h with bps := h.bps.set 0 { va := 0x50004, ctl := 2 } }) wm
theorem test_meets_watched : ∃ x, loadOf wbp (.ldd 3 1 0 0 0) = some (x, true, 3) ∧ IssueFree wbp x.g ∧
    x.va.toNat % x.size = 0 ∧ resolveCur wbp x.va x.size .read = .ok ⟨0x50000, 4⟩ ∧
    bpData wbp.h x.va.toNat x.size true false = some (0, 0x50004) := ⟨_, rfl, by unfold IssueFree; decide +kernel⟩
theorem test_meets_scope_seven : ∃ x f, atomicOf wm (.amoAddW 3 1 2 0 7 1 0) = some (x, 3, 1, 0, 7, f) := ⟨_, _, rfl⟩
theorem test_meets_held_back : ¬IssueFree (wp (fun p => { p with dq := [queued [0]] }) wm) 0 := by
  unfold IssueFree; decide +kernel
/-- A store of the hart in focus to 0x50000, numbered. -/
def storeReq (n : Nat) : Req := { id := n, uid := 7, hart := 0, strm := some 0, dom := 0, op := .store, key := 0x50000, size := 8 }
theorem test_meets_early : ∃ q ∈ [storeReq 1, storeReq 2], q.uid = (storeReq 2).uid ∧ q.id < (storeReq 2).id ∧
    q.strm = (storeReq 2).strm ∧ (storeReq 2).strm ≠ none ∧ q.dom = (storeReq 2).dom ∧ q.done = false := by decide
theorem test_meets_release_early : ∃ q ∈ [storeReq 1], q.uid = 7 ∧ q.id < 2 ∧ meetsScope 0 q.key 5 = true := by decide
theorem test_meets_window : onUser w0 = true ∧ (0x10 * 2 ^ 32 : Nat) < 2 ^ 40 := by decide +kernel

/-! ## What the statements about control registers assume can be met -/

/-- The hart at S. -/
def wS : State := wh (fun h => { h with level := 1 }) wm
/-- The hub core at M. -/
def wM : State := State.reset

theorem test_meets_creg_outside : columns 0x015 = none ∧ columns 0x027 = none ∧ columns 0xFFF = none ∧ wm.h.level ≤ 2 := by
  decide +kernel
theorem test_meets_creg_bit_forms : columns 0x034 = some (.none, .rw, .rw) ∧ bitFormsIllegal 0x034 := by
  unfold bitFormsIllegal; decide +kernel
theorem test_meets_creg_none : columns 0x020 = some (.none, .rw, .rw) ∧ column wm.h.level (.none, .rw, .rw) = .none ∧
    columns 0x001 = some (.rw, .rw, .none) ∧ column wM.h.level (.rw, .rw, .none) = .none ∧ ¬bitFormsIllegal 0x020 := by
  unfold bitFormsIllegal; decide +kernel
theorem test_meets_creg_read_only : columns 0x013 = some (.ro, .rw, .rw) ∧ column wm.h.level (.ro, .rw, .rw) = .ro := by decide +kernel
theorem test_meets_creg_drain : MayRead (wp (fun p => { p with dq := [queued []] }) wm) 0x004 ∧
    ¬Drained (wp (fun p => { p with dq := [queued []] }) wm) 0x004 :=
  ⟨⟨(.rw, .rw, .rw), by decide +kernel, by decide +kernel⟩, by unfold Drained; decide +kernel⟩
theorem test_meets_getc : wm.h.level ≤ 2 ∧ MayRead wm 0x004 ∧ Drained wm 0x004 ∧ hartRead wm 0x004 = some 0 :=
  ⟨by decide +kernel, ⟨(.rw, .rw, .rw), by decide +kernel, by decide +kernel⟩, by unfold Drained; decide +kernel, by decide +kernel⟩
theorem test_meets_getc_context : wS.h.level ≤ 2 ∧ MayRead wS 0x030 ∧ cregCtx wS = some 0 ∧ MayRead wM 0x030 ∧ cregCtx wM = none :=
  ⟨by decide +kernel, ⟨(.none, .rw, .rw), by decide +kernel, by decide +kernel⟩, by decide +kernel,
    ⟨(.none, .rw, .rw), by decide +kernel, by decide +kernel⟩, by decide +kernel⟩
theorem test_meets_setc : setOf wS (BitVec.ofNat 64 (cregRead wS 0x024)) (.setcb 3 2 0x024) = some (3, 0x024, 7) ∧ wS.h.level ≤ 2 ∧
    MayWrite wS 0x024 ∧ (bitFormsIllegal 0x024 → ∃ a, Instr.setcb 3 2 0x024 = .setc 3 a 0x024) ∧ Drained wS 0x024 ∧
    ∃ t, cregWritten { wS with h := { wS.h with
      x := (writeX wS.h 3 (BitVec.ofNat 64 (cregRead wS (0x024#12).toNat))).x, ldst := 3 } } 0x024 7 = some t :=
  ⟨by decide +kernel, by decide +kernel, ⟨(.none, .rw, .rw), by decide +kernel, by decide +kernel⟩,
    by unfold bitFormsIllegal; decide, by unfold Drained; decide +kernel, _, rfl⟩
theorem test_meets_setc_chkctl : setOf wS (BitVec.ofNat 64 (cregRead wS 0x036)) (.setc 3 2 0x036) = some (3, 0x036, 7) ∧
    wS.h.level = 1 ∧ cregCtx wS = some 0 ∧ (∃ x, getCtx wS 0 = some x) ∧ wS.p.ctx = 0 ∧ onUser wS = true :=
  ⟨by decide +kernel, by decide +kernel, by decide +kernel, ⟨_, rfl⟩, by decide +kernel, by decide +kernel⟩
theorem test_meets_setc_seed : setOf wm (BitVec.ofNat 64 (cregRead wm 0x006)) (.setc 3 2 0x006) = some (3, 0x006, 7) ∧
    wm.h.level = 0 ∧ Drained wm 0x006 ∧ wm.p.chg = none := by unfold Drained; decide +kernel
theorem test_meets_setc_drains : wS.h.level = 1 ∧ (cregCtx wS).isSome = true := by decide +kernel
theorem test_meets_write_rows : Ready wS ∧ wS.p.chg = none ∧ (∃ t, cregWritten wS 0x020 7 = some t) ∧
    (∃ t, cregWritten wS 0x012 7 = some t) ∧ (∃ t, cregWritten wS 0x013 7 = some t) ∧ (∃ t, cregWritten wS 0x040 7 = some t) ∧
    ∃ t, cregWritten wS 0x037 7 = some t :=
  ⟨by unfold Ready; decide +kernel, by decide +kernel, ⟨_, rfl⟩, ⟨_, rfl⟩, ⟨_, rfl⟩, ⟨_, rfl⟩, ⟨_, rfl⟩⟩

/-! ## What the statements about traps and system instructions assume can be met -/

/-- The hart at S with INH 1, where a synchronous trap is a double trap. -/
def wInh : State := wh (fun h => { h with level := 1, tstat := 3 }) wm

theorem test_meets_trap_entry : (onUser wm = true → (0x0B : Nat) ≠ 0x12 ∧ (0x0B : Nat) ≠ 0x13 ∧ (0x0B : Nat) ≠ 0x14) ∧ MayTrap wm := by
  unfold MayTrap; decide +kernel
theorem test_meets_async_entry : (onUser wInh = true → (0x0F : Nat) ≠ 0x12 ∧ (0x0F : Nat) ≠ 0x13 ∧ (0x0F : Nat) ≠ 0x14) ∧
    ¬MayTrap wInh := by unfold MayTrap; decide +kernel
theorem test_meets_double_trap : ¬MayTrap wInh ∧ onUser wInh = true := by unfold MayTrap; decide +kernel
theorem test_meets_double_trap_m : ¬MayTrap (wh (fun h => { h with tstat := 3 }) wM) ∧
    onUser (wh (fun h => { h with tstat := 3 }) wM) = false := by unfold MayTrap; decide +kernel
theorem test_meets_rett : wm.h.level = 0 ∧ wInh.h.level ≠ 0 := by decide +kernel
theorem test_meets_step : (wh (fun h => { h with stepDue := true }) wm).h.stepDue = true ∧ MayTrap wm := by
  unfold MayTrap; decide +kernel
theorem test_meets_integrity_first : (wh (fun h => { h with integrity := true }) wM).h.integrity = true ∧
    onUser wM = false ∧ MayTrap wM ∧ wm.h.integrity = false := by unfold MayTrap; decide +kernel
theorem test_meets_exec_breakpoint : wm.h.stepDue = false ∧ MayTrap wm ∧
    bpExec { wm.h with bps := wm.h.bps.set 7 { va := 0x20000, ctl := 1 } } wm.h.pc.toNat = some 7 := by
  unfold MayTrap; decide +kernel
theorem test_meets_async_note : Ready (wh (fun h => { h with note := true }) wm) ∧ MayTrap (wh (fun h => { h with note := true }) wm) := by
  unfold Ready MayTrap; decide +kernel
theorem test_meets_async_error : Ready (wh (fun h => { h with errNote := some 5 }) wm) ∧
    MayTrap (wh (fun h => { h with errNote := some 5 }) wm) ∧ (wh (fun h => { h with errNote := some 5 }) wm).h.note = false := by
  unfold Ready MayTrap; decide +kernel
theorem test_meets_flushi : Ready wm ∧ wm.p.dq = [] ∧ (∀ r ∈ wm.reqs, r.uid = wm.h.uid → r.op ≠ .store ∧ ∀ b, r.op ≠ .ack b) ∧
    ∃ r ∈ { wm with reqs := [{ storeReq 1 with uid := wm.h.uid }] }.reqs, r.uid = wm.h.uid ∧ r.op = .store := by
  unfold Ready; decide +kernel
theorem test_meets_snap : Canonical wm ∧ wm.hub.snapHeld = false ∧ wm.hub.snapLow = false := by unfold Canonical; decide +kernel
theorem test_meets_stall_over : (wh (fun h => { h with issue := .stalled .queueFull }) wm).h.issue = .stalled .queueFull ∧
    wm.p.dq.length < 32 := by decide +kernel
theorem test_meets_stall_not_over : (wp (fun p => { p with dq := [queued []] }) wm).p.dq ≠ [] := by decide +kernel
theorem test_meets_hart_end : (wh (fun h => { h with issue := .stalled (.iend 0 0 5) }) wm).h.issue = .stalled (.iend 0 0 (5#5).toNat) ∧
    (false = true ↔ ∃ t i l it, wm.p.item = some (t, i) ∧ getLaunch wm t = some l ∧ getItem l i = some it ∧ it.escape = true) ∧
    (∀ e ∈ wm.p.dq, e.role ≠ roleOf wm.cur) ∧ ∀ r ∈ wm.reqs, r.uid ≠ wm.h.uid := by
  refine ⟨by decide +kernel, ⟨by simp, ?_⟩, by decide +kernel, by decide +kernel⟩
  rintro ⟨t, i, l, it, h1, h2, h3, h4⟩
  have e1 : some (t, i) = some (1, 0) := h1.symm.trans (by decide +kernel)
  cases e1
  have e2 : some l = some (wordLaunch 1) := h2.symm.trans (by decide +kernel)
  cases e2
  have e3 : some it = getItem (wordLaunch 1) 0 := h3.symm
  have e4 : (getItem (wordLaunch 1) 0).map (·.escape) = some false := by decide
  rw [← e3] at e4
  simp [h4] at e4
theorem test_meets_xlinv : (wh (fun h => { h with level := 1, issue := .stalled (.xlinv 0x20000 3) }) wm).h.issue
      = .stalled (.xlinv 0x20000 (3#5).toNat) ∧ cregCtx wS = some 0 ∧ (∃ x, getCtx wS 0 = some x) ∧
    rangeBusy wS 0 (xlinvRange 0x20000) = false ∧ relBlocked wS wS.h.uid wS.cur wS.nextId 5 = false :=
  ⟨by decide +kernel, by decide +kernel, ⟨_, rfl⟩, by decide +kernel, by decide +kernel⟩
theorem test_meets_hart_events : ∃ h, getHart wm 1 = some h := ⟨_, rfl⟩

/-! ## What the statements about waits and synchronisation assume can be met -/

/-- A full q0, one entry in q4, registers x4 a budget, x5 and x6 comparands. -/
def wq : State := wx 4 100 (wp (fun p => { p with q := (p.q.set 0 (List.replicate 16 3)).set 4 [5] }) wm)
/-- A window of eight semaphores of cluster 0, semaphore 2 with VALUE 5, semaphore 3 with ERR. -/
def wsem : State := { wq with ctxs := adjustKey wq.ctxs 0 (fun c => { c with semwin := [(0, 8 * 512)] }), sems := [(2, 5), (3, 1#33 <<< 32)] }
/-- A word at 0x50000 with a value. -/
def wword (v : Nat) : State := writeNat wq 0x50000 v 8
/-- A wait of a kind, answered, with a decision. -/
def aWait (k : WaitKind) (c : Option Nat) : Wait :=
  { kind := k, rd := 3, len := 4, word := 0, esc := false, budget := 100, clamped := false, answered := true, decided := c,
    seq := 1, die := 0, since := 0 }
/-- The hart in that wait. -/
def waiting (w : Wait) (s : State) : State := wh (fun h => { h with issue := .waiting, wait := some w }) s
/-- A hold of the hart in focus on the word at 0x50000. -/
def aHold (k : HoldKind) : Hold := { obj := .word 0x50000, kind := k, uid := wq.h.uid, ctx := 0, die := 0, recorded := true }

theorem test_meets_qsend : wq.p.q.length = 8 ∧ Sends wq 1 ∧ sendBlocked wq = false ∧
    wq.p.q[(1#3).toNat]!.length < 16 := by unfold Sends; decide +kernel
theorem test_meets_qrecv : ¬Sends wq 4 ∧ ((3#5) ≠ 2 ∨ (3#5) = 0) ∧ wq.p.q[(4#3).toNat]! = 5 :: [] := by unfold Sends; decide +kernel
theorem test_meets_wrong_direction : ¬Sends wq 4 ∧ Sends wq 3 ∧ onUser wM = false := by unfold Sends; decide +kernel
theorem test_meets_queue_waits : wq.p.q.length = 8 ∧ EntryFree wq ∧ SharesBounded wq ∧ Ready wq ∧ wq.h.wait = none ∧
    Sends wq 0 ∧ sendBlocked wq = false ∧ wq.p.q[(0#3).toNat]!.length = 16 ∧
    wq.p.q[(5#3).toNat]! = [] ∧ ¬Sends wq 5 ∧ waitBudget wq 4 ≠ 0 ∧ waitBudget wq 0 = 0 ∧ MayTrap wq := by
  unfold Sends EntryFree SharesBounded Ready MayTrap; decide +kernel

/-- What every waiting instruction assumes of the hart. -/
theorem test_meets_wait_ready : (Ready wsem ∧ wsem.h.wait = none ∧ EntryFree wsem ∧ SharesBounded wsem) ∧
    Ready (wword 7) ∧ (wword 7).h.wait = none ∧ EntryFree (wword 7) ∧ SharesBounded (wword 7) := by
  unfold EntryFree SharesBounded Ready; decide +kernel
theorem test_meets_waits : waitForm wsem (.waits 3 2 4 0 2) 3 0 4 (.waits 2 7) [] ∧ waitForm wsem (.waits 3 0 4 0 2) 3 0 4 (.waits 2 0) [] ∧
    ¬WaitHolds wsem (.waits 2 7) [] ∧ ¬WaitPoisoned wsem (.waits 2 7) [] ∧ WaitHolds wsem (.waits 2 0) [] ∧ SatIs wsem (.waits 2 0) 0 ∧
    waitBudget wsem 4 ≠ 0 ∧ waitBudget wsem 0 = 0 := by
  refine ⟨⟨rfl, rfl, rfl, by decide +kernel, rfl, 2, by unfold SemAt; decide +kernel, by decide, by decide +kernel⟩,
    ⟨rfl, rfl, rfl, by decide +kernel, rfl, 2, by unfold SemAt; decide +kernel, by decide, by decide +kernel⟩,
    fun h => absurd h.2 (by decide +kernel), ?_, ⟨fun j k h => by simp [wordsOf] at h, by decide +kernel⟩, rfl, by decide +kernel, by decide +kernel⟩
  rintro (⟨m, n, h, h'⟩ | ⟨j, k, h, _⟩)
  · cases h; exact absurd h' (by decide +kernel)
  · simp [wordsOf] at h
theorem test_meets_waits_poisoned : waitForm wsem (.waits 3 2 4 0 3) 3 0 4 (.waits 3 7) [] ∧ WaitPoisoned wsem (.waits 3 7) [] :=
  ⟨⟨rfl, rfl, rfl, by decide +kernel, rfl, 3, by unfold SemAt; decide +kernel, by decide, by decide +kernel⟩,
    .inl ⟨3, 7, rfl, by decide +kernel⟩⟩
theorem test_meets_barwt : waitForm (wword 7) (.barwt 3 1 4 0 5) 3 0 4 (.bar 0x50000 0 false 5) [4] ∧
    ¬WaitHolds (wword 7) (.bar 0x50000 0 false 5) [4] ∧ ¬WaitPoisoned (wword 7) (.bar 0x50000 0 false 5) [4] := by
  refine ⟨⟨rfl, rfl, rfl, by decide, ⟨0x50000, 4⟩, by unfold WordAt Unwatched; decide +kernel, rfl, by decide +kernel⟩,
    fun h => absurd h.2 (by decide +kernel), ?_⟩
  rintro (⟨m, n, h, _⟩ | ⟨j, k, h, h', _⟩)
  · cases h
  · match j, h with
    | 0, h => cases h; exact absurd h' (by decide +kernel)
/-- The same word with the hart's arrival pending in its phase. -/
def wpend : State := { wword 0x1000003 with holds := [{ aHold .member with phase := some 0 }] }
theorem test_meets_barwt_pending : waitForm wpend (.barwt 3 1 0 0 5) 3 0 0 (.bar 0x50000 0 true 5) [4] ∧
    waitBudget wpend 0 = 0 ∧ SatIs wpend (.bar 0x50000 0 true 5) 0 :=
  ⟨⟨rfl, rfl, rfl, by decide, ⟨0x50000, 4⟩, by unfold WordAt Unwatched; decide +kernel, rfl, by decide +kernel⟩, by decide +kernel, rfl⟩
theorem test_meets_lock_form : waitForm (wword 1) (.lock 3 1 4 0 5) 3 0 4 (.lock 0x50000 5) [4] ∧
    ¬WaitHolds (wword 1) (.lock 0x50000 5) [4] ∧ ¬WaitPoisoned (wword 1) (.lock 0x50000 5) [4] := by
  refine ⟨⟨rfl, rfl, rfl, by decide, ⟨0x50000, 4⟩, by unfold WordAt Unwatched; decide +kernel, rfl, by decide +kernel, by decide⟩,
    fun h => h.2, ?_⟩
  rintro (⟨m, n, h, _⟩ | ⟨j, k, h, h', _⟩)
  · cases h
  · match j, h with
    | 0, h => cases h; exact absurd h' (by decide +kernel)
theorem test_meets_ldwait : waitForm (wword 7) (.ldwait 2 1 4 0 5 1) 2 0 4 (.ldwait 0x50000 1 7 5) [4] ∧
    WaitHolds (wword 7) (.ldwait 0x50000 1 7 5) [4] := by
  refine ⟨⟨rfl, rfl, rfl, by decide, by decide, ⟨0x50000, 4⟩, by unfold WordAt Unwatched; decide +kernel, rfl, by decide +kernel⟩, ?_, ?_⟩
  · intro j k h
    match j, h with
    | 0, h => cases h; decide +kernel
  · simp only [CondHolds]; decide +kernel
theorem test_meets_ldwait_poisoned : WaitPoisoned wpo (.ldwait 0x50000 1 7 5) [4] ∧ wpo.hub.arm = false :=
  ⟨.inr ⟨0, 0x50000, rfl, by decide +kernel, nofun⟩, by decide +kernel⟩
theorem test_meets_waitv : waitForm (wword 0x60001) (.waitv 3 1 4 0 0 1) 3 0 4 (.waitv true [(0x60000, 1, 0)]) [4] ∧
    WaitHolds (wword 0x60001) (.waitv true [(0x60000, 1, 0)]) [4] ∧ SatIs (wword 0x60001) (.waitv true [(0x60000, 1, 0)]) 1 := by
  refine ⟨⟨rfl, rfl, rfl, [(0x60000, 1, 0)], ⟨by decide +kernel, rfl, rfl, ?_⟩, by decide⟩, ⟨?_, ?_⟩, ⟨by decide, ?_⟩⟩
  · intro j e h
    match j, h with
    | 0, h =>
      cases h
      exact ⟨⟨0x50000, 4⟩, ⟨0x60000, 4⟩, by unfold WordAt Unwatched; decide +kernel⟩
  · intro j k h
    match j, h with
    | 0, h => cases h; decide +kernel
  · simp only [CondHolds]; decide +kernel
  · intro j e h
    match j, h with
    | 0, h => cases h; simp only [CondHolds]; decide +kernel
theorem test_meets_sleep : waitForm wq (.sleep 3 4 0) 3 0 4 .sleep [] ∧ ¬WaitHolds wq .sleep [] ∧ ¬WaitPoisoned wq .sleep [] := by
  refine ⟨⟨rfl, rfl, rfl, rfl, rfl⟩, fun h => h.2, ?_⟩
  rintro (⟨m, n, h, _⟩ | ⟨j, k, h, _⟩)
  · cases h
  · simp [wordsOf] at h
theorem test_meets_fence : waitForm wq (.fence 3 4 0 5 1 1) 3 0 4 (.fence [] 5 true) [] ∧ WaitHolds wq (.fence [] 5 true) [] :=
  ⟨⟨rfl, rfl, rfl, by decide, .inl rfl, rfl, by decide +kernel⟩, fun j k h => by simp [wordsOf] at h,
    fun _ _ => List.not_mem_nil, fun _ _ h => nomatch h.1⟩
theorem test_meets_sbar : waitForm wq (.sbar 3 4 0 5) 3 0 4 (.sbar [] 5) [] ∧ WaitHolds wq (.sbar [] 5) [] :=
  ⟨⟨rfl, rfl, rfl, by decide, rfl, by decide +kernel⟩, fun j k h => by simp [wordsOf] at h,
    fun _ _ => List.not_mem_nil, fun _ _ h => nomatch h⟩
theorem test_meets_no_entry : ¬EntryFree { wq with shares := [0, 256, 256, 256] } ∧ onUser wq = true ∧
    (∃ x, getCtx wq wq.p.ctx = some x) ∧ waitForm { wq with shares := [0, 256, 256, 256] } (.sleep 3 4 0) 3 0 4 .sleep [] :=
  ⟨by unfold EntryFree; decide +kernel, by decide +kernel, ⟨_, rfl⟩, rfl, rfl, rfl, rfl, rfl⟩
theorem test_meets_no_entry_m : ¬EntryFree { wM with pool := 0 } ∧ onUser { wM with pool := 0 } = false ∧
    getCtx { wM with pool := 0 } wM.p.ctx = none ∧
    waitForm { wM with pool := 0 } (.fence 3 4 0 5 1 1) 3 0 4 (.fence [] 5 true) [] :=
  ⟨by unfold EntryFree; decide +kernel, by decide +kernel, by decide +kernel, rfl, rfl, rfl, by decide, .inl rfl, rfl, by decide +kernel⟩
/-- The partner has taken the first entry of q4, decided and not yet answered. -/
theorem test_meets_head_taken : HeadTaken (waiting (aWait (.qrecv 4 5) (some 0)) wq) 4 ∧ ¬HeadTaken wq 4 :=
  ⟨⟨wq.cur, _, _, 5, rfl, rfl, rfl, rfl, rfl⟩, by
    rintro ⟨id, h, w, d, h1, h2, h3, -⟩
    have h4 : id = 2 * (wq.cur / 2) ∨ id = 2 * (wq.cur / 2) + 1 := by omega
    have hn : ∀ i ∈ [2 * (wq.cur / 2), 2 * (wq.cur / 2) + 1], ((getHart wq i).bind (·.wait)).isNone = true := by decide +kernel
    have := hn id (by simpa using h4)
    rw [h2] at this
    simp [h3] at this⟩
theorem test_meets_arrival_pending : ArrivalPending wq (aWait (.bar 0x50000 0 true 5) none) ∧
    ArrivalPending wpend (aWait (.bar 0x50000 0 false 5) none) ∧ ¬ArrivalPending wq (aWait (.bar 0x50000 0 false 5) none) ∧
    ¬ArrivalPending wq (aWait .sleep none) :=
  ⟨⟨_, _, _, _, rfl, .inl rfl⟩, ⟨_, _, _, _, rfl, .inr (by decide +kernel)⟩, by
    rintro ⟨k, p, m, c, h, e⟩
    cases h
    rcases e with e | e
    · cases e
    · revert e; decide +kernel, by rintro ⟨k, p, m, c, h, -⟩; cases h⟩
theorem test_meets_wait_satisfied : (waiting (aWait (.qrecv 4 5) (some 0)) wq).h.issue = .waiting ∧
    (waiting (aWait (.qrecv 4 5) (some 0)) wq).h.wait = some (aWait (.qrecv 4 5) (some 0)) ∧
    (aWait (.qrecv 4 5) (some 0)).answered = true ∧ (aWait (.qrecv 4 5) (some 0)).decided = some 0 := by decide +kernel
theorem test_meets_wait_timeout : (aWait .sleep (some 1)).decided = some 1 ∧
    (aWait .sleep (some 1)).esc = false ∧ { aWait .sleep (some 1) with esc := true }.esc = true ∧
    MayTrap (waiting (aWait .sleep (some 1)) wq) ∧ undecided { aWait .sleep none with counted := 100 } = true ∧
    condNow wq (pairOf wq.cur) .sleep [] = none :=
  ⟨rfl, rfl, rfl, by unfold MayTrap; decide +kernel, rfl, rfl⟩
theorem test_meets_withdrawal :
    let w := { aWait (.bar 0x50000 0 true 5) none with withdrawing := some 1, gens := [4] }
    (waiting w (wword 0x1000003)).h.wait = some w ∧ InMemory 0x50000 ∧ Canonical (waiting w (wword 0x1000003)) ∧
    checkSector (wword 0x1000003) 0x50000 4 = .good := by
  unfold InMemory Stored Canonical; decide +kernel
theorem test_meets_umpire_answer : { aWait .sleep none with answered := false }.found = none ∧
    rawEdges (waiting { aWait .sleep none with answered := false } wq) wq.h.uid { aWait .sleep none with answered := false } = [] := by
  decide +kernel
/-- A path of one edge of context 0. -/
def onePath : List RecEnt := [{ uid := 5, ctx := 0, w0 := 0, w1 := 0 }]
/-- A hart whose walk found that cycle, its context's record at 0x60000. -/
def wfound : State := { waiting { aWait .sleep none with answered := false, found := some (.cycle onePath) } wq with
  ctxs := adjustKey wq.ctxs 0 (fun c => { c with dlrec := 0x60001 }) }
theorem test_meets_found_cycle : (∀ e ∈ onePath, e.ctx = ctxOfUid wfound wfound.h.uid) ∧
    (ctxOf wfound wfound.p.ctx).dlrec.getLsbD 0 = true ∧
    (writeRecord wfound wfound.p.ctx wfound.p wfound.cur (deadlockRecord 1 onePath false ((ctxOf wfound wfound.p.ctx).recSeq + 1) 0)).2 = true ∧
    (writeRecord wfound wfound.p.ctx wfound.p wfound.cur (deadlockRecord 1 onePath false ((ctxOf wfound wfound.p.ctx).recSeq + 1) 0)).1.h.issue
      = .waiting := by decide +kernel
/-- The hart in focus waits for a lock that it holds itself. -/
def wself : State := { waiting { aWait (.lock 0x50000 5) none with answered := false } wq with holds := [aHold .lock] }
theorem test_meets_deadlock : wself.h.wait = some { aWait (.lock 0x50000 5) none with answered := false } ∧
    rawEdges wself wself.h.uid { aWait (.lock 0x50000 5) none with answered := false } = [(.word 0x50000, wself.h.uid)] ∧
    (ctxOf wself wself.p.ctx).dlrec.getLsbD 0 = false := by decide +kernel
theorem test_meets_semaphore : onUser wsem = true ∧ SemAt wsem (7#9).toNat 7 ∧ relBlocked wsem wsem.h.uid wsem.cur wsem.nextId 5 = false := by
  unfold SemAt; decide +kernel
theorem test_meets_no_semaphore : ¬∃ k, SemAt wsem (8#9).toNat k := by
  rintro ⟨k, h, _⟩; exact absurd h (by decide +kernel)
theorem test_meets_semaphore_release : relBlocked { wsem with reqs := [{ storeReq 1 with uid := wsem.h.uid }], nextId := 2 }
    wsem.h.uid wsem.cur 2 5 = true := by decide +kernel
theorem test_meets_barjoin : WordAt wq (xr wq 1) .rmw ⟨0x50000, 4⟩ ∧ NoShot wq 0x50000 ∧ InMemory 0x50000 ∧ Canonical wq ∧
    (∀ o ∈ wq.holds, o.kind = .member → o.uid = wq.h.uid → o.obj ≠ .word (wordOf 0x50000)) := by
  unfold WordAt Unwatched NoShot InMemory Stored Canonical; decide +kernel
theorem test_meets_barjoin_again : ∃ o ∈ { wq with holds := [aHold .member] }.holds,
    o.kind = .member ∧ o.uid = wq.h.uid ∧ o.obj = .word (wordOf 0x50000) := by decide +kernel
theorem test_meets_bararv : WordAt (wword 3) (xr (wword 3) 1) .rmw ⟨0x50000, 4⟩ ∧ NoShot (wword 3) 0x50000 ∧
    ((wword 3).reqs.filter (fun r => r.hart / 16 = (wword 3).cur / 16)).length < 4096 ∧ RequestsNumbered (wword 3) ∧
    Canonical (wword 3) ∧ relBlocked (wword 3) (wword 3).h.uid (wword 3).cur (wword 3).nextId 5 = false ∧ domOf 0x50000 = 0 := by
  unfold WordAt Unwatched NoShot RequestsNumbered Canonical; decide +kernel
theorem test_meets_baraw : checkSector (wword 1) 0x50000 4 = .good ∧
    readLoc (wword 1) 0x50000 8 % 2 ^ 24 ≤ readLoc (wword 1) 0x50000 8 / 2 ^ 24 % 2 ^ 24 + 1 ∧ Ready (wword 1) ∧
    (wword 1).h.wait = none ∧ EntryFree (wword 1) ∧ SharesBounded (wword 1) ∧ Canonical (wword 1) ∧
    WordAt (wword 1) (xr (wword 1) 1) .rmw ⟨0x50000, 4⟩ ∧
    readLoc (wword 3) 0x50000 8 / 2 ^ 24 % 2 ^ 24 + 1 < readLoc (wword 3) 0x50000 8 % 2 ^ 24 ∧ waitBudget (wword 3) 4 ≠ 0 := by
  unfold WordAt Unwatched Ready EntryFree SharesBounded Canonical; decide +kernel
theorem test_meets_baraw_tested : let s := wx 4 0 (wword 3)
    waitBudget s 4 = 0 ∧ readLoc s 0x50000 8 / 2 ^ 24 % 2 ^ 24 + 1 < readLoc s 0x50000 8 % 2 ^ 24 ∧
    s.holds = [] ∧ MayTrap s ∧ ∃ o ∈ { s with holds := [aHold .member] }.holds,
      o.kind = .member ∧ o.uid = s.h.uid ∧ o.obj = .word (wordOf 0x50000) := by unfold MayTrap; decide +kernel
theorem test_meets_lock_free : checkSector wq 0x50000 4 = .good ∧ readLoc wq 0x50000 8 = 0 := by decide +kernel
theorem test_meets_lock_held : readLoc (wword 1) 0x50000 8 ≠ 0 ∧ waitBudget (wword 1) 4 ≠ 0 ∧ lockWaits (wword 1) 0x50000 = [] ∧
    farLocks (wword 1) 0x50000 = [] := by decide +kernel
/-- An UNLOCK of the execute hart on its way to the word that the hart in focus waits for. -/
def unlockReq : Req := { id := 1, uid := 9, hart := 1, strm := none, dom := 0, op := .unlock, key := 0x50000, size := 8 }
def wover : State := { waiting { aWait (.lock 0x50000 5) none with rd := 3 } (wword 1) with reqs := [unlockReq], nextId := 2 }
theorem test_meets_unlock : wover.reqs.find? (fun q => q.id == unlockReq.id) = some unlockReq ∧ mayPerform wover unlockReq = true ∧
    Canonical wover ∧ readLoc wover 0x50000 8 ≠ 0 ∧ lockWaits wover 0x50000 ≠ [] ∧ farLocks wover 0x50000 = [] ∧
    checkSector wover unlockReq.key unlockReq.gen ≠ .violation ∧ NoShot wover 0x50000 := by unfold Canonical NoShot; decide +kernel
/-- A LOCK of a peer's hart on the same word, of higher and of lower priority than the one here, and a word that is 0. -/
def wfarLock (prio : Nat) : State :=
  { wover with rwaits := [{ uid := peerUid 4096, prio := prio, obj := .word 0x50000, kind := .lock, seq := 9 }] }
theorem test_meets_far_lock : (∃ f ∈ farLocks (wfarLock 15) 0x50000, ∀ e ∈ lockWaits (wfarLock 15) 0x50000,
      ¬(f.prio < ep (wfarLock 15) e.1 ∨ (f.prio = ep (wfarLock 15) e.1 ∧ e.2.seq ≤ f.seq))) ∧
    (lockWaits (wfarLock 0) 0x50000 ≠ [] ∧ ∀ f ∈ farLocks (wfarLock 0) 0x50000, ∃ e ∈ lockWaits (wfarLock 0) 0x50000,
      (f.prio < ep (wfarLock 0) e.1 ∨ (f.prio = ep (wfarLock 0) e.1 ∧ e.2.seq ≤ f.seq))) ∧
    lockWaits (writeNat wover 0x50000 0 8) 0x50000 ≠ [] ∧ readLoc (writeNat wover 0x50000 0 8) 0x50000 8 = 0 := by decide +kernel
theorem test_meets_fenvs : (∀ e ∈ (wp (fun p => { p with dq := [queued []] }) wq).p.dq, e.role = roleOf wq.cur → e.strms = []) ∧
    ∃ e ∈ (wp (fun p => { p with dq := [queued [0]] }) wq).p.dq, e.role = roleOf wq.cur ∧ e.strms ≠ [] := by decide +kernel
theorem test_meets_fensv : onUser wq = true ∧ wq.p.dq.length < 32 ∧
    32 ≤ (wp (fun p => { p with dq := List.replicate 32 (queued []) }) wq).p.dq.length ∧ onUser wM = false := by decide +kernel
theorem test_meets_wohold : OweAt wq (xr wq 1) (.word (wordOf 0x50000)) 4 ∧ Canonical wq ∧ wq.holds = [] :=
  ⟨.inl ⟨by decide +kernel, ⟨0x50000, 4⟩, by decide +kernel⟩, by unfold Canonical; decide +kernel⟩
theorem test_meets_wohold_sem : OweAt wsem (2 ^ 63 + 7) (.sem 7) 0 := .inr (by decide +kernel)
theorem test_meets_hold_outside_window : let s := wx 5 (2 ^ 63 + 8) wsem
    (xr s 5).getLsbD 63 = true ∧ onUser s = true ∧ ux s 5 / 2 ^ 19 % 2 ^ 44 = 0 ∧ ux s 5 / 2 ^ 14 % 32 < s.hub.pkgs ∧
    s.hub.reach.testBit (ux s 5 / 2 ^ 14 % 32) = true ∧
    SMap.get 0 (ctxOf s s.p.ctx).semwin (ux s 5 / 512 % 1024) / 512 ≤ ux s 5 % 512 := by decide +kernel
theorem test_meets_wohold_again : ∃ o ∈ { wq with holds := [aHold .wo] }.holds,
    o.kind = .wo ∧ o.uid = wq.h.uid ∧ o.obj = .word (wordOf 0x50000) := by decide +kernel
theorem test_meets_wodrop_member : (∀ o ∈ { wq with holds := [aHold .member] }.holds, o.kind ≠ .wo) ∧
    checkSector wq (wordOf 0x50000) 4 ≠ .violation ∧ NoShot wq (wordOf 0x50000) ∧
    InMemory (wordOf 0x50000) := by unfold NoShot InMemory Stored; decide +kernel
theorem test_meets_share_refill : ({ wq with shares := [127, 128, 256, 256] }).shares.getD 0 0 < 128 ∧
    128 ≤ ({ wq with shares := [127, 128, 256, 256] }).shares.getD 1 0 := by decide
theorem test_meets_peer_message : pkgOf 4096 ≠ 0 ∧ FarObjAt 1 0x50000 (.word 0x50000) ∧ farHoldOf 1 = some .lock ∧
    FarObjAt 7 5 (.sem 5) ∧ farHoldOf 7 = some .wo ∧ farWaitOf 4 = some .member :=
  ⟨by decide, .inr (by decide +kernel), rfl, .inl (by decide), rfl, rfl⟩
theorem test_meets_page_response : (∃ x, getCtx { wq with ctxs := [(0, { pasid := 5, pri := [7] })] } 0 = some x ∧ x.pasid = 5 ∧
      7 ∈ x.pri ∧ x.prisem.getLsbD 14 = false) ∧
    (∀ e ∈ { wq with ctxs := [(0, { pasid := 5, pri := [7] })] }.ctxs, e.2.pasid = 5 → e.1 = 0) ∧
    let x : Ctx := { pasid := 5, pri := [7], prisem := 0x4003, semwin := [(0, 4 * 512)] }
    x.prisem.getLsbD 14 = true ∧ x.prisem.toNat % 512 < SMap.get 0 x.semwin (x.prisem.toNat / 512 % 32) / 512 :=
  ⟨⟨_, rfl, by decide⟩, by decide, by decide⟩
theorem test_meets_wait_evaluated : undecided (aWait (.qrecv 4 5) none) = true ∧ (aWait (.qrecv 4 5) none).budget ≠ 0 ∧
    hartFrozen (waiting (aWait (.qrecv 4 5) none) wq) (waiting (aWait (.qrecv 4 5) none) wq).cur = false ∧
    WaitHolds (waiting (aWait (.qrecv 4 5) none) wq) (.qrecv 4 5) [] :=
  ⟨rfl, by decide, by decide +kernel, fun j k h => by simp [wordsOf] at h, by
    show (waiting (aWait (.qrecv 4 5) none) wq).p.q.getD 4 [] ≠ []
    decide +kernel⟩
theorem test_meets_suspect :
    let w := { aWait .sleep none with answered := false, found := some (.suspect onePath 5) }
    (waiting w wq).h.wait = some w ∧ (ctxOf (waiting w wq) (waiting w wq).p.ctx).dlrec.getLsbD 0 = false := by decide +kernel
theorem test_meets_wodrop_watched : OweAt wbp (xr wbp 1) (.word 0x50000) 4 ∧
    bpData wbp.h (ux wbp 1 / 8 * 8) 8 true true = some (0, 0x50004) :=
  ⟨.inl ⟨by decide +kernel, ⟨0x50000, 4⟩, by decide +kernel⟩, by decide +kernel⟩
theorem test_meets_interlock : (wh (fun h => { h with issue := .stalled (.interlock 0) }) wq).h.issue = .stalled (.interlock 0) ∧
    0 ≤ wq.now := by decide +kernel

/-! ## What the statements about vector instructions assume can be met -/

/-- Eight elements, k1 all of them, v1 counting from 1. -/
def wv : State := wh (fun h => { h with vl := 8 }) (wp (fun p => { p with
  k := p.k.set 1 0xFF, v := p.v.set 1 [(0, 1), (1, 2), (2, 3), (3, 4)] }) wm)
/-- The same with position 2 poisoned. -/
def wvp : State := wp (fun p => { p with kp := 4 }) wv
/-- Where no hart waits, no wait sees a write. -/
theorem unseen {s : State} {key : Nat} (h : (allHarts s).all (fun e => e.2.wait.isNone) = true) : Unseen s key := by
  intro e he w hw
  have := List.all_eq_true.mp h e he
  rw [hw] at this
  cases this
/-- A queue entry of that hart for an instruction. -/
def te (i : Instr) : VEntry :=
  { id := 1, role := 0, instr := i, pc := 0, vl := 8, vstart := 0, a := 0, b := 0, tags := wv.p.tags, rm := .rne }
/-- The same with f16 in the first two registers. -/
def teF (i : Instr) : VEntry := { te i with tags := (wv.p.tags.set 0 (.flt .f16)).set 1 (.flt .f16) }

theorem test_meets_vector : ∃ f, laneForm wv (.vadd 2 1 1 0 0) = some f ∧ VecIdle wv ∧ Instr.wf (.vadd 2 1 1 0 0) = true ∧
    formOk wv f = true ∧ f.hold = false := ⟨_, rfl, by unfold VecIdle Ready; decide +kernel⟩
theorem test_meets_vector_result : laneForm wv (.kpopc 3 1) = some { whole := true, hold := true } ∧
    formOk wv { whole := true, hold := true } = true ∧
    (laneOf (.kpopc 3 1) wv.p (te (.kpopc 3 1))).trap = none ∧ (laneOf (.kpopc 3 1) wv.p (te (.kpopc 3 1))).res = some 8 :=
  ⟨rfl, by decide +kernel, by decide +kernel, by decide +kernel⟩
theorem test_meets_vector_poison : VecIdle wvp ∧ (∃ x, (laneOf (.kpopc 3 1) wvp.p (te (.kpopc 3 1))).trap = some x) ∧ MayTrap wvp :=
  ⟨by unfold VecIdle Ready; decide +kernel, ⟨_, rfl⟩, by unfold MayTrap; decide +kernel⟩
theorem test_meets_matrix : (∃ f, laneForm w1 (.accz 31 0) = some f ∧ formOk w1 f = true) ∧ VecIdle w1 :=
  ⟨⟨_, rfl, by decide +kernel⟩, by unfold VecIdle Ready; decide +kernel⟩
theorem test_meets_vector_illegal : onUser wM = false ∧ wv.p.chg = none ∧ Instr.wf (.vperm 1 1 2 0) = false ∧
    (∃ f, laneForm wv (.accz 3 0) = some f ∧ formOk wv f = false) := ⟨by decide +kernel, by decide +kernel, rfl, _, rfl, by decide +kernel⟩
theorem test_meets_vector_stalls : (∃ f, laneForm wv (.viota 1 1) = some f) ∧ onUser wv = true ∧
    (wp (fun p => { p with chg := some (.seed 1 0 32) }) wv).p.chg ≠ none ∧
    32 ≤ (wp (fun p => { p with dq := List.replicate 32 (queued []) }) wv).p.dq.length ∧
    ∀ g ∈ wv.h.g.toList, g.bnd = false ∨ g.act = false := ⟨⟨_, rfl⟩, by decide +kernel⟩
theorem test_meets_pair_shape : PairShape wv.p ∧ PairShape wvp.p ∧ PairShape w1.p := by unfold PairShape; decide +kernel
theorem test_meets_lane_integer : arithOf (.vma 2 1 3 0 0) = some (.ma, 2, 1, .vec 3, 0, 3) ∧ tagOf wv.p.tags 2 = .int true 16 ∧
    tagIsInt (srcTag wv.p.tags 1 (.vec 3)) = true ∧ tagWidth (srcTag wv.p.tags 1 (.vec 3)) ≤ 16 ∧
    (intResult .ma (.int true 16) (.int true 16) 0 0 0 0).isSome = true := by decide +kernel
theorem test_meets_lane_bits : arithOf (.vsel 2 1 3 1 0) = some (.sel, 2, 1, .vec 3, 1, 3) ∧
    arithOf (.vnot 2 1 0) = some (.not, 2, 1, .none, 0, 0) ∧ tagWidth (tagOf wv.p.tags 2) = 16 ∧
    tagWidth (srcTag wv.p.tags 1 (.vec 3)) = 16 := ⟨rfl, rfl, by decide +kernel, by decide +kernel⟩
theorem test_meets_lane_float : arithOf (.vdiv 0 1 1 0 0) = some (.div, 0, 1, .vec 1, 0, 1) ∧ (teF .brk).rm ≠ .sr ∧
    tagOf (teF .brk).tags 1 = .flt .f16 ∧ srcTag (teF .brk).tags 1 (.vec 1) = .flt .f16 ∧
    tagWidth (tagOf (teF .brk).tags 0) ≤ 16 := by decide +kernel
theorem test_meets_lane_compare : compareOf (.vcmpGe 2 1 3 0 1) = some (.ge, 2, 1, .sca, 0, 3) ∧
    tagIsInt (srcTag wv.p.tags 1 .sca) = true ∧ 0 < tagWidth (srcTag wv.p.tags 1 .sca) := by decide +kernel
theorem test_meets_lane_masks : (∃ f, maskOf (.kand 8 8 1) = some (f, 8, 8, 1)) ∧
    (∀ j, j < 8 → (maskReg wv.p 1).testBit j = true → wv.p.kp.testBit j = false) ∧
    (List.range 8).find? (fun n => (maskReg wvp.p 1).testBit n && wvp.p.kp.testBit n) = some 2 := ⟨⟨_, rfl⟩, by decide +kernel⟩
theorem test_meets_lane_moves : (∀ t ∈ wv.p.tags, 0 < tagWidth t ∧ tagWidth t ≤ 16) ∧ wv.p.tags.length = 32 ∧
    moveOf (.vslup 2 1 4 0) = some (2, 1, 4, []) := by decide +kernel
theorem test_meets_moved_from : MovedFrom wv.p (te (.vslup 2 1 4 0)) (.vslup 2 1 4 0) 7 (some 7) ∧
    MovedFrom wv.p { te (.vsldn 2 1 4 0) with b := 1 } (.vsldn 2 1 4 0) 7 none ∧
    MovedFrom wv.p (te (.vpair 2 1 0)) (.vpair 2 1 0) 6 (some 7) ∧ MovedFrom wv.p (te (.vperm 2 1 3 0)) (.vperm 2 1 3 0) 5 (some 0) ∧
    MovedFrom wv.p (te (.vcmprs 2 1 1)) (.vcmprs 2 1 1) 7 (some 7) ∧ MovedFrom wv.p (te (.vexpnd 2 1 1)) (.vexpnd 2 1 1) 7 (some 7) :=
  ⟨by simp only [MovedFrom, Active]; decide +kernel, by simp only [MovedFrom, Active]; decide +kernel,
    by simp only [MovedFrom, Active]; decide +kernel, by simp only [MovedFrom, Active]; decide +kernel,
    ⟨7, by decide +kernel⟩, by simp only [MovedFrom]; decide +kernel⟩
theorem test_meets_lane_sums : (∀ j < 8, wv.p.kp.testBit j = false) ∧ 0 < (te .brk).vl ∧
    ((List.range 8).map (fun j => max 1 (elemInt wv.p (.int true 16) 1 j).toNat)).sum ≤ vlmaxOf wv.p := by decide +kernel
/-- Lengths of n16: two fibres of 40,000 slots, of which one fits, or one of 60,000, longer than the strip. -/
def wlong (n : Half) : State := wp (fun p => { p with tags := p.tags.set 1 (.int false 16), v := p.v.set 1 [(0, n), (1, n)] }) wv
def slots (s : State) (n : Nat) : Nat :=
  ((List.range n).map (fun j => max 1 (elemInt s.p (.int false 16) 1 j).toNat)).sum
theorem test_meets_setvf_packs : 1 ≤ (te .brk).vl ∧ slots (wlong 40000) 1 ≤ vlmaxOf (wlong 40000).p ∧
    vlmaxOf (wlong 40000).p < slots (wlong 40000) 2 := by decide +kernel
theorem test_meets_setvf_long : 0 < (te .brk).vl ∧
    vlmaxOf (wlong 60000).p < max 1 (elemInt (wlong 60000).p (.int false 16) 1 0).toNat := by decide +kernel
theorem test_meets_mx_tile : tileTag (0x28 * 2 ^ 32 / 2 ^ 32 % 64) = some (.mx .mx4) ∧ 0 < (te .brk).vl ∧ w1.p.kp = 0 ∧ PairShape w1.p := by
  unfold PairShape; decide +kernel
theorem test_meets_lane_matrix : w1.p.kp = 0 ∧ tileTag (3 * 2 ^ 32 / 2 ^ 32 % 64) = some (.int true 4) ∧ 0 < (te .brk).vl ∧
    (wp (fun p => { p with tile := { kt := 2, nt := 2, tag := .int true 4 } }) w1).p.tile.tag = .int true 4 ∧
    w1.p.tile.colpois = 0 ∧ (w1.p.acc.getD 31 {}).pois = 0 := by decide +kernel

/-! ## What the statements about configuration and vector memory assume can be met -/

theorem test_meets_setvl : onUser wv = true ∧ ux wv 1 > vlmax wv.p ∧ ux wv 2 ≤ vlmax wv.p ∧ Instr.wf (.settl 29 29) = true ∧
    tileTag (ux (wx 11 (3 * 2 ^ 32) wv) (10 + 1) / 2 ^ 32 % 64) = some (.int true 4) := by decide +kernel
theorem test_meets_not_requested : ¬Requested wv := by
  rintro ⟨t, i, l, it, h1, h2, h3, h4⟩
  have e1 : some (t, i) = some (1, 0) := h1.symm.trans (by decide +kernel)
  cases e1
  have e2 : some l = some (wordLaunch 1) := h2.symm.trans (by decide +kernel)
  cases e2
  have e4 : (getItem (wordLaunch 1) 0).map (·.preq) = some none := by decide
  rw [h3] at e4
  exact h4 (Option.some.inj e4)
theorem test_meets_requested : Requested (modItem wv 1 0 (fun it => { it with preq := some 0 })) :=
  ⟨1, 0, _, _, by decide +kernel, rfl, rfl, by decide +kernel⟩
theorem test_meets_vtag : wv.p.chg = none ∧ Instr.wf (.vtag 31 0x20) = true ∧ tagOfCode (0x20#6).toNat = some (.flt .f16) ∧
    (31#5).toNat % 8 < wv.p.gc.getD ((31#5).toNat / 8) 0 ∧ tagWidth (.flt .f16) ≤ wv.p.gw.getD ((31#5).toNat / 8) 1 ∧
    wv.h.vl ≤ vlmax wv.p ∧ (wp (fun p => { p with gw := [8, 16, 16, 16] }) wv).p.gw.getD ((7#5).toNat / 8) 1 < tagWidth (.flt .f16) := by
  decide +kernel
theorem test_meets_vbind : (wh (fun h => { h with g := h.g.set 7 { act := true } }) wv).h.g[(7#3).toNat].act = true ∧
    wv.h.g[(0#3).toNat].act = false := by decide +kernel
theorem test_meets_setvt : Ready wv ∧ wv.p.dq = [] ∧ (4#3).toNat ≤ 4 ∧ PairShape wv.p ∧
    ∀ c ∈ (List.range 4).map (fun g => ux (wx 5 0x8F8F8F8F wv) 5 / 2 ^ (8 * g + 4) % 16), c ≤ 8 := by
  unfold Ready PairShape; decide +kernel
theorem test_meets_setvt_illegal : ∃ c ∈ (List.range 4).map (fun g => ux (wx 5 0x8F8F9F8F wv) 5 / 2 ^ (8 * g + 4) % 16), 8 < c := by
  decide +kernel
theorem test_meets_accwin : ux (wx 5 (2048 + 2 ^ 13) wv) 5 % 4096 ≤ 2048 ∧ ux (wx 5 (2048 + 2 ^ 13) wv) 5 % 4096 % 32 = 0 ∧
    ux (wx 5 (2048 + 2 ^ 13) wv) 5 / 2 ^ 13 % 4 ≠ 3 ∧ 2048 < ux (wx 5 2080 wv) 5 % 4096 := by decide +kernel

theorem wv_ready : VecMemReady wv := by unfold VecMemReady VecIdle Ready PairShape Canonical; decide +kernel
theorem wv_active (j : Nat) (h : ActiveNow wv 0 j) : j < 8 := lt_of_lt_of_eq h.2.1 (by decide +kernel)
theorem wv_reads : ∀ j < 8, ElementAt wv (wrap (ux wv 1 + (j * container (tagOf wv.p.tags 2) : Nat))) 2 .read (0x50000 + 2 * j) 4 := by
  unfold ElementAt Passes Unwatched; decide +kernel
theorem wv_writes : ∀ j < 8, ElementAt wv (wrap (ux wv 1 + (j * container (tagOf wv.p.tags 2) : Nat))) 2 .write (0x50000 + 2 * j) 4 ∧
    InMemory (0x50000 + 2 * j) ∧ domOf (0x50000 + 2 * j) = 0 := by
  unfold ElementAt Passes Unwatched InMemory Stored; decide +kernel
theorem test_meets_vload : ∃ va, vmemOf wv (.vld 2 1 0 0 0) = some (true, 2, 0, 0, none, va) ∧ VecMemReady wv ∧ regOk wv.p 2 = true ∧
    ∀ j, ActiveNow wv 0 j → ElementAt wv (va j) (container (tagOf wv.p.tags 2)) .read (0x50000 + 2 * j) 4 :=
  ⟨_, rfl, wv_ready, by decide +kernel, fun j h => wv_reads j (wv_active j h)⟩
theorem test_meets_vstore : ∃ va, vmemOf wv (.vst 2 1 0 0 0) = some (false, 2, 0, 0, none, va) ∧ VecMemReady wv ∧ regOk wv.p 2 = true ∧
    ∀ j, ActiveNow wv 0 j → ElementAt wv (va j) (container (tagOf wv.p.tags 2)) .write (0x50000 + 2 * j) 4 ∧
      InMemory (0x50000 + 2 * j) ∧ domOf (0x50000 + 2 * j) = 0 ∧ Unseen wv (0x50000 + 2 * j) :=
  ⟨_, rfl, wv_ready, by decide +kernel, fun j h =>
    ⟨(wv_writes j (wv_active j h)).1, (wv_writes j (wv_active j h)).2.1, (wv_writes j (wv_active j h)).2.2, unseen (by decide +kernel)⟩⟩
/-- Stream 2 of six elements at 0x50000, one of them behind it, bound to a register, `strd` bytes apart. -/
def wchunk (dir : Bool) (r : BitVec 5) (strd : Dword) : State := wh (fun h => { h with
  g := h.g.set 2 { addr := 0x50000, strd := strd, len := 6, pos := 1, act := true, dir := dir, breg := r, bnd := true } }) wv
theorem test_meets_chunk : (∀ dir, ChunkReady (wchunk dir 1 0)) ∧ BoundAt (wchunk false 1 0) 1 2 ∧
    Unbound (wchunk false 1 0) 2 ∧ (wchunk false 1 0).h.g[2].dir = false ∧
    (∃ f, laneForm (wchunk false 1 0) (.vadd 2 1 1 0 0) = some f ∧ formOk (wchunk false 1 0) f = true ∧ f.hold = false ∧
      f.whole = false ∧ f.srcs = [1, 1] ∧ f.dest = some 2) ∧
    ∀ j < 5, ElementAt (wchunk false 1 0) (chunkAt (wchunk false 1 0) 2 (.int true 16) j) 2 .read (0x50002 + 2 * j) 4 :=
  ⟨by intro dir; cases dir <;> (unfold ChunkReady Ready PairShape Canonical; decide +kernel), by unfold BoundAt; decide +kernel,
    by unfold Unbound; decide +kernel, by decide +kernel, ⟨_, rfl, by decide +kernel, by decide +kernel, by decide +kernel,
    by decide +kernel, by decide +kernel⟩, by unfold ElementAt Passes Unwatched; decide +kernel⟩
theorem test_meets_chunk_out : BoundAt (wchunk true 2 0) 2 2 ∧ Unbound (wchunk true 2 0) 1 ∧ chunkOf (wchunk true 2 0) 2 = 5 ∧
    ActiveNow (wchunk true 2 0) 0 4 ∧
    (∃ f, laneForm (wchunk true 2 0) (.vadd 2 1 1 0 0) = some f ∧ formOk (wchunk true 2 0) f = true) ∧
    ∀ j < 5, ElementAt (wchunk true 2 0) (chunkAt (wchunk true 2 0) 2 (.int true 16) j) 2 .write (0x50002 + 2 * j) 4 ∧
      InMemory (0x50002 + 2 * j) ∧ domOf (0x50002 + 2 * j) = 0 ∧ Unseen (wchunk true 2 0) (0x50002 + 2 * j) :=
  ⟨by unfold BoundAt; decide +kernel, by unfold Unbound; decide +kernel, by decide +kernel, by unfold ActiveNow; decide +kernel,
    ⟨_, rfl, by decide +kernel⟩, fun j h =>
    ⟨(show ∀ j < 5, ElementAt (wchunk true 2 0) (chunkAt (wchunk true 2 0) 2 (.int true 16) j) 2 .write (0x50002 + 2 * j) 4 by
        unfold ElementAt Passes Unwatched; decide +kernel) j h,
      (show ∀ j < 5, InMemory (0x50002 + 2 * j) by unfold InMemory Stored; decide +kernel) j h,
      (show ∀ j < 5, domOf (0x50002 + 2 * j) = 0 by decide +kernel) j h, unseen (by decide +kernel)⟩⟩
theorem test_meets_chunk_fault : let s := wchunk false 1 (2 ^ 53)
    FailsCheck s (chunkAt s 2 (.int true 16) 0) 2 true 0x07 0 (chunkAt s 2 (.int true 16) 0) ∧ (0 : Nat) < chunkOf s 2 ∧
    s.h.vstart ≤ 0 ∧ MayTrap s ∧ s.hub.arm = false :=
  ⟨.inr (.inl ⟨by decide +kernel, by decide +kernel, rfl, rfl⟩), by unfold MayTrap; decide +kernel⟩
theorem test_meets_chunk_wrong : (∃ f, laneForm (wchunk true 1 0) (.vadd 2 1 1 0 0) = some f ∧ 1 ∈ f.srcs ∧
      (wchunk true 1 0).h.g[2].dir = true) ∧
    ∃ f, laneForm (wchunk false 2 0) (.vadd 2 1 1 0 0) = some f ∧ f.dest = some 2 ∧ (wchunk false 2 0).h.g[2].dir = false :=
  ⟨⟨_, rfl, by decide +kernel⟩, ⟨_, rfl, by decide +kernel⟩⟩
/-- Distinct indices 7 down to 0 in v3. -/
def wvi : State := wp (fun p => { p with v := p.v.set 3 [(0, 7), (1, 6), (2, 5), (3, 4), (4, 3), (5, 2), (6, 1)] }) wv
theorem test_meets_indexed : VecMemReady wvi ∧ wvi.cur % 2 = 0 ∧ regOk wvi.p 3 = true ∧ tagIsInt (tagOf wvi.p.tags 3) = true ∧
    (∃ va, vmemOf wvi (.vldx 2 1 3 0 0 0) = some (true, 2, 0, 0, some 3, va)) ∧ Instr.wf (.vldx 2 1 3 0 0 0) = true :=
  ⟨by unfold VecMemReady VecIdle Ready PairShape Canonical; decide +kernel, by decide +kernel, by decide +kernel, by decide +kernel,
    ⟨_, rfl⟩, rfl⟩
theorem test_meets_probe_trap : (∃ va, vmemOf (wx 1 0x50001 wv) (.vld 2 1 0 0 0) = some (true, 2, 0, 0, none, va) ∧
    (va 0).toNat % container (tagOf wv.p.tags 2) ≠ 0) ∧ VecMemReady (wx 1 0x50001 wv) ∧ MayTrap (wx 1 0x50001 wv) ∧
    ActiveNow (wx 1 0x50001 wv) 0 0 ∧ ∀ n, ActiveNow (wx 1 0x50001 wv) 0 n → ¬n < 0 :=
  ⟨⟨_, rfl, by decide +kernel⟩, by unfold VecMemReady VecIdle Ready PairShape Canonical; decide +kernel,
    by unfold MayTrap; decide +kernel, by unfold ActiveNow; decide +kernel, fun _ _ => Nat.not_lt_zero _⟩
/-- A stride that takes element 1 out of what is mapped. -/
def wstride : State := wx 2 (2 ^ 54) wv
theorem test_meets_probe_above (ld : Bool) : ∃ va, vmemOf wstride (if ld then .vlds 3 1 2 0 0 0 else .vsts 3 1 2 0 0 0) =
      some (ld, 3, 0, 0, none, va) ∧ VecMemReady wstride ∧ ActiveNow wstride 0 1 ∧
    FailsCheck wstride (va 1) (container (tagOf wstride.p.tags 3)) ld 0x07 0 (va 1) ∧
    ∀ n, ActiveNow wstride 0 n ∧ n < 1 → ElementAt wstride (va n) (container (tagOf wstride.p.tags 3)) (if ld then .read else .write) 0x50000 4 ∧
      InMemory 0x50000 ∧ domOf 0x50000 = 0 ∧ Unseen wstride 0x50000 := by
  have h : VecMemReady wstride := by unfold VecMemReady VecIdle Ready PairShape Canonical; decide +kernel
  have m : InMemory 0x50000 ∧ domOf 0x50000 = 0 := by unfold InMemory Stored; decide +kernel
  cases ld
  · refine ⟨_, rfl, h, by unfold ActiveNow; decide +kernel, .inr (.inl ⟨by decide +kernel, by decide +kernel, rfl, rfl⟩), fun n hn => ?_⟩
    obtain rfl : n = 0 := Nat.lt_one_iff.mp hn.2
    exact ⟨by unfold ElementAt Passes Unwatched; decide +kernel, m.1, m.2, unseen (by decide +kernel)⟩
  · refine ⟨_, rfl, h, by unfold ActiveNow; decide +kernel, .inr (.inl ⟨by decide +kernel, by decide +kernel, rfl, rfl⟩), fun n hn => ?_⟩
    obtain rfl : n = 0 := Nat.lt_one_iff.mp hn.2
    exact ⟨by unfold ElementAt Passes Unwatched; decide +kernel, m.1, m.2, unseen (by decide +kernel)⟩
theorem test_meets_vldw : Instr.wf (.vldw 4 1 3 0 0 1) = true ∧ wvi.h.vstart = 0 ∧ regOk wvi.p 4 = true ∧ regOk wvi.p 5 = true ∧
    tagOf wvi.p.tags 5 = tagOf wvi.p.tags 4 ∧ tagWidth (tagOf wvi.p.tags 4) ≤ 16 ∧
    ∀ j < wvi.h.vl, ElementAt wvi (wrap (ux wvi 1 + (j * container (tagOf wvi.p.tags 4) : Nat)))
      (container (tagOf wvi.p.tags 4)) .read (0x50000 + 2 * j) 4 := by
  unfold ElementAt Passes Unwatched; decide +kernel
theorem test_meets_vscat : Instr.wf (.vscat 2 1 3 0 0 2) = true ∧ tagOf wvi.p.tags 2 = .int true 16 ∧
    (∀ j < 8, ElementAt wvi (wrap (ux wvi 1 + elemInt wvi.p (tagOf wvi.p.tags 3) 3 j * container (.int true 16)))
      (container (.int true 16)) .rmw (0x5000E - 2 * j) 4 ∧ InMemory (0x5000E - 2 * j) ∧ domOf (0x5000E - 2 * j) = 0) ∧
    ∀ j < 8, ∀ n < 8, j ≠ n → (0x5000E - 2 * j) + 2 ≤ 0x5000E - 2 * n ∨ (0x5000E - 2 * n) + 2 ≤ 0x5000E - 2 * j :=
  ⟨rfl, by decide +kernel, by unfold ElementAt Passes Unwatched InMemory Stored; decide +kernel, by decide⟩
/-- A window of two entries per lane, with index 2 beyond it at element 1 of v1. -/
def wwin : State := wp (fun p => { p with win := 64, gc := [1, 1, 1, 1] }) wv
theorem test_meets_vacc : Instr.wf (.vacc 0 1 2) = true ∧ VecIdle wwin ∧ wwin.p.kp = 0 ∧ wwin.h.vl ≤ vlmaxOf wwin.p ∧ PairShape wwin.p ∧
    windowEntries wwin.p = 2 ∧ wwin.p.wf = false ∧ regOk wwin.p 0 = true ∧ regOk wwin.p 8 = true ∧ MayTrap wwin ∧ wwin.p.pairs ≠ 0 := by
  unfold VecIdle Ready PairShape MayTrap; decide +kernel
theorem test_meets_vacc_bad : ¬(elemInt wwin.p (.int true 16) 1 0 < 0 ∨ (2 : Int) ≤ elemInt wwin.p (.int true 16) 1 0) ∧
    (2 : Int) ≤ elemInt wwin.p (.int true 16) 1 1 := by decide +kernel
theorem test_meets_wmerge : VecMemReady wwin ∧ Instr.wf (.wmerge 1 0 0 0) = true ∧ wwin.h.vstart = 0 ∧ wwin.p.pairs ≤ 8 ∧
    ∀ n < windowEntries wwin.p, ElementAt wwin (wrap (ux wwin 1 + (4 * n : Nat))) 4 .rmw (0x50000 + 4 * n) 4 ∧
      InMemory (0x50000 + 4 * n) ∧ domOf (0x50000 + 4 * n) = 0 :=
  ⟨by unfold VecMemReady VecIdle Ready PairShape Canonical; decide +kernel, by decide, by decide +kernel, by decide +kernel,
    by unfold ElementAt Passes Unwatched InMemory Stored; decide +kernel⟩

/-! ## What the statements about trees, shares, compares, reads of rows, MX and float windows assume can be met -/

theorem test_meets_unseen (key : Nat) : Unseen wvi key ∧ Unseen wwin key := ⟨unseen (by decide +kernel), unseen (by decide +kernel)⟩
/-- The base register x1 at an address above what is mapped. -/
def wvf : State := wx 1 (2 ^ 54) wv
theorem test_meets_probe_fault : (∃ va, vmemOf wvf (.vst 2 1 0 0 0) = some (false, 2, 0, 0, none, va) ∧
    FailsCheck wvf (va 0) (container (tagOf wvf.p.tags 2)) false 0x07 0 (va 0)) ∧ wvf.hub.arm = false ∧ MayTrap wvf ∧
    ActiveNow wvf 0 0 :=
  ⟨⟨_, rfl, .inr (.inl ⟨by decide +kernel, by decide +kernel, rfl, rfl⟩)⟩, by decide +kernel, by unfold MayTrap; decide +kernel,
    by unfold ActiveNow; decide +kernel⟩
/-- A comparator watches reads of the word that VLDX's first element touches. -/
def wvb : State := wh (fun h => { h with bps := h.bps.set 0 { va := 0x5000E, ctl := 2 } }) wvi
theorem test_meets_probe_watched : ∃ va, vmemOf wvb (.vldx 2 1 3 0 0 0) = some (true, 2, 0, 0, some 3, va) ∧
    FailsCheck wvb (va 0) (container (tagOf wvb.p.tags 2)) true 0x02 0 0x5000E :=
  ⟨_, rfl, .inr (.inr ⟨by decide +kernel, ⟨⟨0x5000E, 4⟩, by decide +kernel⟩, rfl, 0x5000E, by decide +kernel, by decide⟩)⟩
theorem test_meets_reduce : reduceOf (.vredSeg 2 1 1 0 0) = some (0, 2, 1, 0, some 1, false) ∧ PairShape wv.p ∧
    (∀ j < 8, wv.p.kp.testBit j = false) ∧ tagOf (te .brk).tags 1 = .int true 16 ∧ tagOf (te .brk).tags 2 = .int true 16 ∧
    (redRanges wv.p (some 1) 8 false)[2]? = some (2, 2) ∧ (redRanges wv.p none 8 true)[7]? = some (0, 7) :=
  ⟨rfl, by unfold PairShape; decide +kernel, by decide +kernel, by decide +kernel, by decide +kernel, by decide +kernel, by decide +kernel⟩
theorem test_meets_reduce_float : reduceOf (.vscan 0 1 0 1) = some (1, 0, 1, 0, none, true) ∧ tagOf (teF .brk).tags 1 = .flt .f16 ∧
    (teF .brk).rm ≠ .sr ∧ (1#3).toNat ≤ 2 := ⟨rfl, by decide +kernel, by decide +kernel, by decide⟩
/-- R116: neighbours combine first, and an odd last value passes a stage. -/
theorem test_tree : tree (fun x y : List Nat => [x.sum * 10 + y.sum]) 3 [[1], [2], [3]] = some [123] := by decide
/-- R161: the segments that a boundary mask makes of five positions. -/
theorem test_ranges : redRanges { k := [0, 0b01001] } (some 1) 5 false = [(0, 2), (3, 4)] := by decide
theorem test_meets_shares : tagOf (te .brk).tags 2 = .int true 16 ∧ tagOf (te .brk).tags 1 = .int true 16 ∧ (te .brk).vl = 8 ∧
    Kept wv.p 1 3 := ⟨by decide +kernel, by decide +kernel, rfl, .inr (by decide +kernel)⟩
theorem test_meets_float_compare : compareOf (.vcmpLt 5 1 0 0 0) = some (.lt, 5, 1, .vec 0, 0, 0) ∧
    tagOf (teF .brk).tags 1 = .flt .f16 ∧ srcTag (teF .brk).tags 1 (.vec 0) = .flt .f16 := by decide +kernel
/-- A row whose words are f32. -/
def wrow : State := wp (fun p => { p with acc := p.acc.set 31 { f32 := true } }) w1
theorem test_meets_accrd : PairShape w1.p ∧ (w1.p.acc.getD 31 {}).f32 = false ∧ (wrow.p.acc.getD 31 {}).f32 = true ∧ PairShape wrow.p ∧
    tagOf (te .brk).tags 2 = .int true 16 ∧ tagOf (teF .brk).tags 0 = .flt .f16 ∧ (te .brk).rm ≠ .sr ∧ 3 < lanesOf w1.p := by
  unfold PairShape; decide +kernel
/-- An MX tile of one column, and v1 of the same tag. -/
def wtile : State := wp (fun p => { p with tile := { kt := 2, nt := 2, tag := .mx .mxi8 } }) w1
theorem test_meets_matrix_rows : wtile.p.kp = 0 ∧ wtile.p.tile.colpois = 0 ∧ (wtile.p.acc.getD 31 {}).pois = 0 ∧ wtile.p.scalePois = 0 ∧
    PairShape wtile.p ∧ wtile.p.tile.tag = .mx .mxi8 ∧ tagOf ((te .brk).tags.set 1 (.mx .mxi8)) 1 = .mx .mxi8 ∧
    (wp (fun p => { p with tile := { kt := 2, nt := 2, tag := .int true 4 } }) w1).p.tile.tag = .int true 4 := by
  unfold PairShape; decide +kernel
theorem test_meets_mx : SMap.wf 127 wv.p.scale = true ∧ wv.p.scalePois = 0 ∧ wv.p.kp = 0 ∧ InBlock 8 0 7 ∧
    tagOf ((teF .brk).tags.set 2 (.mx .mxi8)) 2 = .mx .mxi8 ∧ tagOf ((teF .brk).tags.set 2 (.int false 8)) 2 = .int false 8 := by
  unfold InBlock; decide +kernel
/-- v0 and v1 of f16, the window of floats. -/
def wvx : State := wp (fun p => { p with tags := p.tags.set 0 (.flt .f16) }) wvi
theorem test_meets_vscat_float : Instr.wf (.vscat 0 1 3 0 0 1) = true ∧ tagOf wvx.p.tags 0 = .flt .f16 ∧ VecMemReady wvx ∧
    (∀ j < 8, ElementAt wvx (wrap (ux wvx 1 + elemInt wvx.p (tagOf wvx.p.tags 3) 3 j * container (.flt .f16)))
      (container (.flt .f16)) .rmw (0x5000E - 2 * j) 4 ∧ InMemory (0x5000E - 2 * j) ∧ domOf (0x5000E - 2 * j) = 0) ∧
    Unseen wvx 0x50000 :=
  ⟨rfl, by decide +kernel, by unfold VecMemReady VecIdle Ready PairShape Canonical; decide +kernel,
    by unfold ElementAt Passes Unwatched InMemory Stored; decide +kernel, unseen (by decide +kernel)⟩
def wwf : State := wp (fun p => { p with wf := true, tags := p.tags.set 0 (.flt .f16), v := p.v.set 1 [(1, 1), (3, 1)] }) wwin
theorem test_meets_vacc_float : Instr.wf (.vacc 0 1 2) = true ∧ VecIdle wwf ∧ windowEntries wwf.p = 2 ∧ wwf.p.wf = true ∧ PairShape wwf.p ∧
    tagOf wwf.p.tags 0 = .flt .f16 ∧ regOk wwf.p 0 = true ∧ regOk wwf.p 8 = true ∧ wwf.h.vl ≤ vlmaxOf wwf.p ∧
    ∀ j < 8, 0 ≤ elemInt wwf.p (.int true 16) 1 j ∧ elemInt wwf.p (.int true 16) 1 j < 2 := by
  unfold VecIdle Ready PairShape; decide +kernel
theorem test_meets_wmerge_float : VecMemReady wwf ∧ Instr.wf (.wmerge 1 0 0 2) = true ∧ wwf.h.vstart = 0 ∧ wwf.p.pairs ≤ 8 ∧
    ∀ n < windowEntries wwf.p, ElementAt wwf (wrap (ux wwf 1 + (4 * n : Nat))) 4 .rmw (0x50000 + 4 * n) 4 ∧
      InMemory (0x50000 + 4 * n) ∧ domOf (0x50000 + 4 * n) = 0 ∧ Unseen wwf (0x50000 + 4 * n) :=
  ⟨by unfold VecMemReady VecIdle Ready PairShape Canonical; decide +kernel, by decide, by decide +kernel, by decide +kernel, fun n h => by
    have e : ∀ n < windowEntries wwf.p, ElementAt wwf (wrap (ux wwf 1 + (4 * n : Nat))) 4 .rmw (0x50000 + 4 * n) 4 ∧
        InMemory (0x50000 + 4 * n) ∧ domOf (0x50000 + 4 * n) = 0 := by
      unfold ElementAt Passes Unwatched InMemory Stored; decide +kernel
    exact ⟨(e n h).1, (e n h).2.1, (e n h).2.2, unseen (by decide +kernel)⟩⟩

/-! ## What the statements about engine commands assume can be met -/

/-- A descriptor at 0x50000 whose SEMSPEC names semaphore `n` of cluster 0 and whose record is at 0x50038. -/
def wdesc (n : Nat) : State := writeNat wsem 0x50028 n 4
/-- A command of the hart in focus, queued at engine 0. -/
def eCmd (op : EngOp) : Cmd :=
  { id := 5, tce := 0, op := op, uid := wq.h.uid, hart := 0, user := true, ctx := 0, item := (1, 0), ticket := 0, afterReq := 0,
    acq := none, rel := none, src := 0x50000, dst := 0x60000, rowlen := 2, rows := 2, sstr := 2, dstr := 2, sem := some 2,
    xctl := 0, tag := .int true 16, vlmax := 8, inUse := true, crec := 0x70000, crecGen := 4, crecVa := 0x70000 }
/-- The state with a command. -/
def wcmd (m : Cmd) : State := { wv with cmds := [m], nextId := 6 }
/-- Whether a command fails the checks of its descriptor (R250). -/
def badCmd (m : Cmd) : Prop := m.rowlen = 0 ∨ m.rows = 0 ∨ 65536 < m.rows ∨ m.sem = none ∨
  (m.op = .xcopy ∧ (m.vlmax < m.rows * m.rowlen ∨ m.inUse = false))

theorem test_meets_engine_queued : engineOf (.dcopy 3 1 5 1 1) = some (.dcopy, 3, 1, 5, 1, 1) ∧ Instr.wf (.dcopy 3 1 5 1 1) = true ∧
    onUser (wdesc 7) = true ∧ (wdesc 7).cur % 2 = 0 ∧ Described (wdesc 7) (xr (wdesc 7) 1) 0x50000 4 0x50038 4 ∧
    SpecSem (wdesc 7) 0x50000 (some 7) :=
  ⟨rfl, rfl, by decide +kernel, by decide +kernel, by unfold Described; decide +kernel, .inr (by decide +kernel)⟩
theorem test_meets_no_package : SpecSem (wdesc (2 ^ 14)) 0x50000 none := .inl (by decide +kernel)
theorem test_meets_least_loaded : LeastLoaded wsem 0 := by
  refine ⟨by decide +kernel, by decide +kernel, fun f _ => ?_⟩
  have h : ∀ n, queuedAt wsem n = 0 := fun n => by
    have : wsem.cmds = [] := by decide +kernel
    unfold queuedAt; rw [this]; rfl
  exact .inr ⟨by rw [h, h], Nat.zero_le _⟩
theorem test_meets_engine_illegal : onUser wM = false ∧ w1.cur % 2 = 1 := by decide +kernel
theorem test_meets_engine_misaligned : ux (wx 1 0x50020 wsem) 1 % 64 ≠ 0 := by decide +kernel
theorem test_meets_engine_poisoned : resolveCur wpo (xr wpo 1) 64 .read = .ok ⟨0x50000, 4⟩ ∧ isPois wpo 0x50000 = true ∧ wpo.hub.arm = false := by
  decide +kernel
theorem test_meets_engine_outside : semSpecOf (wdesc 8) 0x50000 / 2 ^ 14 < (wdesc 8).hub.pkgs ∧
    specWindow (wdesc 8) 0x50000 / 512 ≤ semSpecOf (wdesc 8) 0x50000 % 512 := by decide +kernel
theorem test_meets_engines_full : ∀ f, f / 4 = 0 →
    16 ≤ queuedAt { wdesc 7 with cmds := (List.range 4).flatMap (fun e => List.replicate 16 { eCmd .dcopy with tce := e }) } f := by
  intro f h
  have : ∀ f < 4, 16 ≤ queuedAt { wdesc 7 with cmds := (List.range 4).flatMap (fun e => List.replicate 16 { eCmd .dcopy with tce := e }) } f := by
    decide +kernel
  exact this f (by omega)
theorem test_meets_engine_bad : Starts (wcmd { eCmd .xcopy with vlmax := 3 }) { eCmd .xcopy with vlmax := 3 } ∧
    Canonical (wcmd { eCmd .xcopy with vlmax := 3 }) ∧ badCmd { eCmd .xcopy with vlmax := 3 } := by
  unfold Starts Canonical badCmd; decide +kernel
theorem test_meets_dfill : Starts (wcmd (eCmd .dfill)) (eCmd .dfill) ∧ ¬badCmd (eCmd .dfill) ∧
    (∀ t < 4, CmdAt (wcmd (eCmd .dfill)) (eCmd .dfill) (cmdVa 0x60000 2 (eCmd .dfill) 1 t) 1 .write (0x60000 + t) 4) ∧
    ∀ key, Unseen (wcmd (eCmd .dfill)) key :=
  ⟨by unfold Starts; decide +kernel, by unfold badCmd; decide +kernel, by unfold CmdAt InMemory Stored; decide +kernel,
    fun _ => unseen (by decide +kernel)⟩
theorem test_meets_dcopy : Starts (wcmd (eCmd .dcopy)) (eCmd .dcopy) ∧ ¬badCmd (eCmd .dcopy) ∧
    (∀ t < 4, CmdAt (wcmd (eCmd .dcopy)) (eCmd .dcopy) (cmdVa 0x50000 2 (eCmd .dcopy) 1 t) 1 .read (0x50000 + t) 4) ∧
    (∀ t < 4, CmdAt (wcmd (eCmd .dcopy)) (eCmd .dcopy) (cmdVa 0x60000 2 (eCmd .dcopy) 1 t) 1 .write (0x60000 + t) 4) ∧
    ∀ t < 4, ∀ u < 4, 0x50000 + t ≠ 0x60000 + u := by
  unfold Starts badCmd CmdAt InMemory Stored; decide +kernel
/-- An XCOPY of four elements into v2, rows two elements apart. -/
def xIn : Cmd := { eCmd .xcopy with dst := 2, sstr := 4 }
/-- An XCOPY of four elements out of v1. -/
def xOutCmd : Cmd := { eCmd .xcopy with src := 1, xctl := 1, dstr := 4 }
/-- A second row that lies past every page, at the source of a copy, at its destination, and of an XCOPY off its alignment. -/
def fFrom : Cmd := { eCmd .dcopy with sstr := 2 ^ 54 }
def fInto (op : EngOp) : Cmd := { eCmd op with dstr := 2 ^ 54 }
def fOdd : Cmd := { xIn with sstr := 3 }
theorem test_meets_command_fault :
    (CmdFails (wcmd fFrom) fFrom (cmdVa fFrom.src fFrom.sstr fFrom 1 2) 1 .read 0x07 ∧
      ∀ t < 2, CmdAt (wcmd fFrom) fFrom (cmdVa fFrom.src fFrom.sstr fFrom 1 t) 1 .read (0x50000 + t) 4) ∧
    (CmdFails (wcmd (fInto .dcopy)) (fInto .dcopy) (cmdVa 0x60000 (2 ^ 54) (fInto .dcopy) 1 2) 1 .write 0x07 ∧
      (∃ a, cmdResolve (wcmd (fInto .dcopy)) (fInto .dcopy) (cmdVa 0x50000 2 (fInto .dcopy) 1 2) 1 .read = .ok a) ∧
      ∀ t < 2, CmdAt (wcmd (fInto .dcopy)) (fInto .dcopy) (cmdVa 0x60000 (2 ^ 54) (fInto .dcopy) 1 t) 1 .write (0x60000 + t) 4) ∧
    CmdFails (wcmd (fInto .dfill)) (fInto .dfill) (cmdVa 0x60000 (2 ^ 54) (fInto .dfill) 1 2) 1 .write 0x07 ∧
    (CmdFails (wcmd fOdd) fOdd (cmdVa 0x50000 3 fOdd 2 2) 2 .read 0x06 ∧ fOdd.xctl % 4 < 2 ∧
      ∀ t < 2, CmdAt (wcmd fOdd) fOdd (cmdVa 0x50000 3 fOdd 2 t) 2 .read (0x50000 + 2 * t) 4) ∧
    (wcmd fFrom).hub.arm = false ∧ ∃ p, getPair (wcmd fOdd) (cmdPair (wcmd fOdd) fOdd) = some p ∧ PairShape p ∧ p.kp = 0 :=
  ⟨⟨.inr (by decide +kernel), by unfold CmdAt InMemory Stored; decide +kernel⟩, ⟨.inr (by decide +kernel),
    ⟨⟨0x50002, 4⟩, by decide +kernel⟩, by unfold CmdAt InMemory Stored; decide +kernel⟩, .inr (by decide +kernel),
    ⟨.inl (by decide +kernel), by decide, by unfold CmdAt InMemory Stored; decide +kernel⟩, by decide +kernel,
    ⟨_, rfl, by unfold PairShape; decide +kernel⟩⟩
theorem test_meets_xcopy_in : Starts (wcmd xIn) xIn ∧ ¬badCmd xIn ∧ xIn.xctl % 4 = 0 ∧
    (∃ p, getPair (wcmd xIn) (cmdPair (wcmd xIn) xIn) = some p) ∧
    ∀ t < 4, CmdAt (wcmd xIn) xIn (cmdVa 0x50000 4 xIn 2 t) 2 .read (0x50000 + 2 * t) 4 :=
  ⟨by unfold Starts; decide +kernel, by unfold badCmd; decide +kernel, rfl, ⟨_, rfl⟩, by unfold CmdAt InMemory Stored; decide +kernel⟩
theorem test_meets_xcopy_out : Starts (wcmd xOutCmd) xOutCmd ∧ ¬badCmd xOutCmd ∧ xOutCmd.xctl % 4 = 1 ∧ wv.p.kp = 0 ∧
    ∀ t < 4, CmdAt (wcmd xOutCmd) xOutCmd (cmdVa 0x60000 4 xOutCmd 2 t) 2 .write (0x60000 + 2 * t) 4 :=
  ⟨by unfold Starts; decide +kernel, by unfold badCmd; decide +kernel, rfl, by decide +kernel, by unfold CmdAt InMemory Stored; decide +kernel⟩
/-- Packed XCOPYs of one row of six elements of 16 bits, and of three of an i5 out of v1. -/
def packIn : Cmd := { eCmd .xcopy with dst := 2, rowlen := 6, rows := 1, xctl := 2 }
def packOut : Cmd := { eCmd .xcopy with src := 1, rowlen := 3, rows := 1, xctl := 3, tag := .int true 5 }
theorem test_meets_pack : Starts (wcmd packIn) packIn ∧ packIn.xctl % 4 = 2 ∧ rowBytes packIn = 12 ∧ rowBytes packOut = 2 ∧
    (∀ j < 12, CmdAt (wcmd packIn) packIn (packVa 0x50000 2 0 j) 1 .read (0x50000 + j) 4) ∧
    Starts (wcmd packOut) packOut ∧ packOut.xctl % 4 = 3 ∧
    ∀ j < 2, CmdAt (wcmd packOut) packOut (packVa 0x60000 2 0 j) 1 .write (0x60000 + j) 4 :=
  ⟨by unfold Starts; decide +kernel, rfl, by decide +kernel, by decide +kernel, by unfold CmdAt InMemory Stored; decide +kernel,
    by unfold Starts; decide +kernel, rfl, by unfold CmdAt InMemory Stored; decide +kernel⟩
/-- R248: elements 1, 2 and 3 as five bits each from bit 0 of the row, the sixteenth bit kept. -/
theorem test_packed_byte : packedByte wv.p packOut 0x80 0 0 = 0x41 ∧ packedByte wv.p packOut 0x80 0 1 = 0x8C := by decide +kernel
theorem test_meets_engine_fault : Starts (wcmd { eCmd .dfill with dst := 2 ^ 54 }) { eCmd .dfill with dst := 2 ^ 54 } ∧
    cmdResolve (wcmd { eCmd .dfill with dst := 2 ^ 54 }) { eCmd .dfill with dst := 2 ^ 54 }
      (cmdVa (2 ^ 54) 2 { eCmd .dfill with dst := 2 ^ 54 } 1 0) 1 .write = .fault 0x07 := by unfold Starts; decide +kernel
/-- A command that has its result. -/
def doneCmd : Cmd := { eCmd .dcopy with status := some (0, 0, 4) }
theorem test_meets_engine_finish : (wcmd doneCmd).cmds.find? (fun n => n.id == doneCmd.id) = some doneCmd ∧ Canonical (wcmd doneCmd) ∧
    (∀ r ∈ (wcmd doneCmd).reqs, r.uid = cmdUid doneCmd → meetsScope doneCmd.hart r.key (doneCmd.rel.getD 3) = false) ∧
    RecordAt (wcmd doneCmd) doneCmd doneCmd.crec doneCmd.crecGen ∧ InMemory doneCmd.crec ∧
    checkSector (wcmd doneCmd) doneCmd.crec doneCmd.crecGen = .good := by
  unfold RecordAt Canonical InMemory Stored; decide +kernel
/-- A done command whose record goes to TCM offset 8 of its item. -/
def tcmCmd : Cmd := { doneCmd with crec := tcmKey 0 8, crecVa := 2 ^ 54 + 8 }
/-- Its state, the item bound to pair 0 or saved. -/
def wtcm (st : ItemState) : State := { wcmd tcmCmd with
  launches := [{ wordLaunch 1 with items := [{ idx := 0, st := st }] }] }
theorem test_meets_record_in_tcm : RecordAt (wtcm .running) tcmCmd (tcmKey 0 8) 4 := by unfold RecordAt; decide +kernel
theorem test_meets_record_away : spaceOf tcmCmd.crec = 1 ∧ cmdBound (wtcm .preempted) tcmCmd = false ∧
    savedTcm (wtcm .preempted) tcmCmd (tcmCmd.crecVa % 2 ^ 32) 8 .write = .fault 0x06 := by decide +kernel
theorem test_meets_record_violation : RecordAt { wcmd doneCmd with secGen := [(sectorOf 0x70000, 9)] } doneCmd 0x70000 4 ∧
    checkSector { wcmd doneCmd with secGen := [(sectorOf 0x70000, 9)] } 0x70000 doneCmd.crecGen = .violation := by
  unfold RecordAt; decide +kernel
theorem test_meets_engine_release : ∃ r ∈ [{ storeReq 1 with uid := cmdUid doneCmd, dom := 1, key := 2 ^ 52, done := true }],
    r.uid = cmdUid doneCmd ∧ meetsScope doneCmd.hart r.key ({ doneCmd with rel := some 6 }.rel.getD 3) = true := by decide +kernel

/-! ## What the statements about launches and items assume can be met -/

/-- No item bound; context 0 with its page table, a save pool of 1 GiB, room for a launch. -/
def wfree : State := { State.reset with
  mem := w0.mem
  hub := { State.reset.hub with bootStage := 3, bootResult := 1 }
  ctxs := [(0, { pgroot := 0x10000, gen := 4, quota := 16384, part := 1, poolVa := 0x10000000, poolLen := 2 ^ 30 })]
  genSeq := 5 }
/-- A launch of one item. -/
def oneItem (tag : Nat) (st : ItemState) (it : Item) : Launch := { wordLaunch tag with st := st, items := [it] }
/-- A free part with one launch of one item. -/
def wlaunch (l : Launch) : State := { wfree with launches := [l], ltags := 2 }
/-- A launch that waits for semaphore 2 at a threshold. -/
def waitsFor (thr : Nat) : Launch := { oneItem 1 .queued { idx := 0 } with deps := [(2, thr)] }

theorem test_meets_kick : ∃ x, getCtx w0 0 = some x ∧ ((1 : Word) - x.head).toNat ≤ 2 ^ x.qlog ∧ 2 ^ x.qlog < ((2 : Word) - x.head).toNat :=
  ⟨_, rfl, by decide +kernel⟩

/-- A queue with one record, at 0x80000, whose first word is given; the image at 0x90000 has one kernel. -/
def wrecord (v : Nat) : State :=
  let s := { wfree with ctxs := wfree.ctxs.map (fun e => (e.1, { e.2 with run := true, tail := 1, qbase := 0x80000 })) }
  let s := writeNat (writeNat (writeNat s 0x80000 (v + 5 * 2 ^ 16 + 2 ^ 24 + 2 ^ 32) 8) 0x80008 0x90000 8) 0x80020 0x30000 8
  let s := writeNat (writeNat s 0x80068 (5 + 16 + 2 ^ 16) 8) 0x90000 (0x314B494F + 2 ^ 32 + 2 ^ 48) 8
  writeNat (writeNat s 0x90010 (2 ^ 16) 4) 0x90018 (128 + 192 * 2 ^ 32) 8
/-- What a check answers, where it passes. -/
def passes {α : Type} : Chk α → Option α
  | .ok a => some a
  | .error _ => none
theorem of_passes {α : Type} (r : Chk α) (d : α) (h : (passes r).isSome = true) : r = .ok ((passes r).getD d) := by
  cases r with
  | ok a => rfl
  | error e => cases h
/-- The bytes of that record. -/
def recordBytes (v : Nat) : List Byte := (passes (readCtx (wrecord v) (ctxOf (wrecord v) 0) 0x80000 256)).getD []
/-- The context of the record's queue once HEAD has moved past it. -/
def takenCtx (v : Nat) : Ctx := { ctxOf (wrecord v) 0 with record := some (0, recordBytes v), head := (ctxOf (wrecord v) 0).head + 1 }
/-- The state its checks are made in. -/
def wtaken (v : Nat) : State :=
  modCtx (wrecord v) 0 (fun z => { z with record := some (0, recordBytes v), head := z.head + 1 })
theorem test_meets_record : RecordDue (wrecord 1) (wtaken 1) 0 (takenCtx 1) 0 (recordBytes 1) := by
  have h : (ctxOf (wrecord 1) 0).qbase + 256 * ((ctxOf (wrecord 1) 0).head.toNat % 2 ^ (ctxOf (wrecord 1) 0).qlog) = 0x80000 := by
    decide +kernel
  have hr : readCtx (wrecord 1) (ctxOf (wrecord 1) 0) 0x80000 256 = .ok (recordBytes 1) := of_passes _ [] (by decide +kernel)
  refine ⟨ctxOf (wrecord 1) 0, by decide +kernel, by decide +kernel, .inr ⟨by decide +kernel, by decide +kernel, by decide +kernel,
    by decide +kernel, by rw [h]; exact hr, rfl, rfl⟩⟩
theorem test_meets_record_waiting : RecordDue (wtaken 1) (wtaken 1) 0 (takenCtx 1) 0 (recordBytes 1) :=
  ⟨takenCtx 1, by decide +kernel, by decide +kernel, .inl ⟨rfl, rfl, rfl⟩⟩
theorem test_meets_record_passes : ∃ l, checkRecord (wtaken 1) 0 (recordBytes 1) (launchOf 1 0 0 (recordBytes 1)) = .ok l :=
  ⟨_, of_passes _ (wordLaunch 1) (by decide +kernel)⟩
theorem test_meets_record_refused : (recordBytes 2).length = 256 ∧ (recordBytes 2).take 2 = [2, 0] ∧
    (match checkRecord (wtaken 2) 0 (recordBytes 2) (launchOf 1 0 0 (recordBytes 2)) with
     | .error (.code n) => n == 0x10
     | _ => false) = true := by decide +kernel
theorem test_meets_dependences :
    (∃ d ∈ [(3, 0)], (SMap.get 0 wsem.sems d.1).getLsbD 32 = true) ∧ (∀ d ∈ (waitsFor 5).deps, d.2 ≤ (SMap.get 0 wsem.sems d.1).toNat % 2 ^ 32) ∧
    (¬∃ d ∈ (waitsFor 5).deps, (SMap.get 0 wsem.sems d.1).getLsbD 32 = true) ∧
    (¬∀ d ∈ (waitsFor 6).deps, d.2 ≤ (SMap.get 0 wsem.sems d.1).toNat % 2 ^ 32) ∧
    getLaunch { wsem with launches := [waitsFor 5] } (waitsFor 5).ltag = some (waitsFor 5) ∧ (waitsFor 5).st = .queued := by
  decide +kernel
/-- A READY launch that nothing keeps from its core. -/
def readyOne : Launch := { oneItem 1 .ready { idx := 0, st := .ready } with tcmb := 64 }
theorem test_meets_binding : bindChoice (wlaunch readyOne) = some (readyOne, [0]) ∧ getLaunch (wlaunch readyOne) 1 = some readyOne ∧
    0 < readyOne.pairs ∧ readyOne.pairs ≤ 8 ∧ [0].Nodup ∧ (readyOne.items.map (·.idx)).Nodup ∧
    (∀ it ∈ readyOne.items, it.idx / readyOne.pairs < [0].length) ∧ readyOne.items = [{ idx := 0, st := .ready }] ∧
    readyOne.scrb = 0 ∧ readyOne.dsrb = 0 := by decide +kernel
theorem test_meets_binding_canonical : Canonical (wlaunch readyOne) := by unfold Canonical; decide +kernel
/-- The same with 16 bytes of .tcm in its image, that read, or whose sector was written under another key. -/
def readyImage : Launch := { readyOne with kimage := 0x90000, secs := [(0, 0), (0, 0), (64, 16)] }
theorem test_meets_image : bindChoice (wlaunch readyImage) = some (readyImage, [0]) ∧
    (∀ sp ∈ imageSpans readyImage, ∀ o < sp.2,
      passes (readPart (wlaunch readyImage) (ctxOf (wlaunch readyImage) 0) (sp.1 + o) 1) = some [0]) := by decide +kernel
theorem test_meets_image_violation :
    let s := { wlaunch readyImage with secGen := [(sectorOf 0x90040, 9)] }
    bindChoice s = some (readyImage, [0]) ∧ (readImage s readyImage).2 = true := by decide +kernel
/-- Another context's READY launch of priority 5 that only pair 0's core could take. -/
def wvictim : State := { w0 with
  ctxs := w0.ctxs ++ [(1, { gen := 5, part := 1, poolVa := 0x10000000, poolLen := 2 ^ 30 })]
  launches := w0.launches ++ [{ oneItem 2 .ready { idx := 0, st := .ready } with ctx := 1, prio := 5 }] }
theorem test_meets_preemption : victim wvictim = some (1, 0) ∧ victim w0 ≠ some (1, 0) := by decide +kernel
/-- The item of pair 0 as a save finds it. -/
def asked (g : Nat) (cancel : Bool) : Item := { idx := 0, st := .running, saveVa := some 0x40000, preq := some g, cancel := cancel }
def wasked (it : Item) (i : Issue) : State := { wh (fun h => { h with issue := i }) w0 with launches := [oneItem 1 .running it] }
theorem test_meets_saves (it : Item) (h : it = asked 0 false ∨ it = asked 0x30D40 false ∨ it = asked 0 true) (i : Issue)
    (hi : i = .ready ∨ i = .halted) : ∃ a e, Saveable (wasked it i) (oneItem 1 .running it) it a e ∧ e.issue = .halted ∧ a.issue = i := by
  rcases h with rfl | rfl | rfl <;> rcases hi with rfl | rfl <;>
    exact ⟨_, _, ⟨by decide +kernel, by decide +kernel, ⟨.inr (.inl rfl), rfl⟩, nofun, .inl rfl, rfl, rfl, by decide +kernel, by decide +kernel⟩,
      by decide +kernel, by decide +kernel⟩
theorem test_meets_save_record : SMap.wf 0 (wasked (asked 0 false) .halted).slots = true ∧
    RecordGoesOut (wasked (asked 0 false) .halted) (oneItem 1 .running (asked 0 false)) (asked 0 false) 1 := by
  unfold RecordGoesOut; decide +kernel
/-- The page table was written under another key. -/
def wforeign (s : State) : State := { s with secGen := [(sectorOf 0x10000, 9)] }
theorem test_meets_save_violation : pairEnded (writeSave (wforeign (wasked (asked 0 false) .halted)) 1 0 0 1) 0 = true := by
  decide +kernel
theorem test_meets_grace : (ctxOf (wasked (asked 0x30D40 false) .ready) 0).pgrace.toNat ≤ 0x30D40 ∧
    ¬(ctxOf (wasked (asked 0 false) .ready) 0).pgrace.toNat ≤ 0 := by decide +kernel
/-! A record that reads as one, without reading its every byte by evaluation. -/

/-- An answer, no error. -/
def Good {α : Type} (x : Rec α) : Prop := ∃ a, x = .ok a
/-- What was answered. -/
def answer {α : Type} : Rec α → Option α
  | .ok a => some a
  | .error _ => none
theorem of_answer {α : Type} {x : Rec α} {a : α} (h : answer x = some a) : x = .ok a := by
  cases x with
  | ok b => rw [Option.some.inj h]
  | error e => cases h
theorem good_answer {α : Type} {x : Rec α} (h : (answer x).isSome = true) : Good x := by
  cases x with
  | ok b => exact ⟨b, rfl⟩
  | error e => cases h
theorem good_bind {α β : Type} {x : Rec α} {f : α → Rec β} (h : Good x) (hf : ∀ a, x = .ok a → Good (f a)) : Good (x >>= f) := by
  obtain ⟨a, rfl⟩ := h
  exact hf a rfl
theorem good_map {α β : Type} {x : Rec α} (g : α → β) (h : Good x) : Good (x.map g) := by
  obtain ⟨a, rfl⟩ := h
  exact ⟨_, rfl⟩
theorem good_mapM {α β : Type} (f : α → Rec β) (l : List α) (h : ∀ a ∈ l, Good (f a)) : Good (l.mapM f) := by
  induction l with
  | nil => exact ⟨_, rfl⟩
  | cons a l ih =>
    rw [List.mapM_cons]
    exact good_bind (h a (by simp)) fun _ _ => good_bind (ih fun x hx => h x (by simp [hx])) fun _ _ => ⟨_, rfl⟩
theorem good_foldlM {α : Type} (f : Unit → α → Rec Unit) (l : List α) (h : ∀ a ∈ l, Good (f () a)) : Good (l.foldlM f ()) := by
  induction l with
  | nil => exact ⟨_, rfl⟩
  | cons a l ih =>
    rw [List.foldlM_cons]
    exact good_bind (h a (by simp)) fun _ _ => ih fun x hx => h x (by simp [hx])
/-- Every read of a record is answered. -/
def Reads (rd : Nat → Nat → Rec Nat) : Prop := ∀ o n, o + n ≤ 0x2000 → Good (rd o n)
theorem good_parseQueue (rd : Nat → Nat → Rec Nat) (h : Reads rd) (o : Nat) (ho : o + 136 ≤ 0x2000) : Good (parseQueue rd o) :=
  good_bind (h _ _ (by omega)) fun a _ => good_mapM _ _ fun i hi => by
    have := List.mem_range.mp hi
    exact good_map _ (h _ _ (by omega))
theorem good_parseHart (rd : Nat → Nat → Rec Nat) (old : Hart) (h : ∀ o n, o + n ≤ 0x400 → Good (rd o n)) : Good (parseHart rd old) := by
  have h8 (l : List Nat) (k : Nat) (hl : ∀ n ∈ l, k + 8 * n + 8 ≤ 0x400) : Good (l.mapM (fun n => rd (k + 8 * n) 8)) :=
    good_mapM _ _ fun n hn => h _ _ (hl n hn)
  refine good_bind (h _ _ (by omega)) fun _ _ => good_bind (by simpa using h8 (upFrom 1 32) 0 (by decide)) fun _ _ =>
    good_bind (h _ _ (by omega)) fun _ _ => good_bind (h _ _ (by omega)) fun _ _ => good_bind (h8 _ _ (by decide)) fun _ _ =>
    good_bind (good_mapM _ _ fun n hn => ?_) fun _ _ => good_bind (good_mapM _ _ fun n hn => ?_) fun _ _ => ⟨_, rfl⟩
  all_goals have := List.mem_range.mp hn
  · exact good_bind (h _ _ (by omega)) fun _ _ => good_bind (h _ _ (by omega)) fun _ _ => good_bind (h _ _ (by omega)) fun _ _ =>
      good_bind (h _ _ (by omega)) fun _ _ => good_bind (h _ _ (by omega)) fun _ _ => ⟨_, rfl⟩
  · exact good_bind (h _ _ (by omega)) fun _ _ => good_bind (h _ _ (by omega)) fun _ _ => ⟨_, rfl⟩

theorem good_recNat (s : State) (c : Ctx) (va : Nat) (n : Nat)
    (h : ∀ k, va ≤ k → k < va + n → ∃ a, recAccess s c k = .ok a ∧ checkSector s a.key a.gen = .good) : Good (recNat s c va n) := by
  induction n generalizing va with
  | zero => exact ⟨_, rfl⟩
  | succ n ih =>
    obtain ⟨a, ha, hg⟩ := h va (Nat.le_refl _) (by omega)
    refine good_bind ⟨a, ha⟩ fun b hb => ?_
    rw [ha] at hb
    cases hb
    rw [hg]
    exact good_bind (ih (va + 1) fun k h1 h2 => h k (by omega) (by omega)) fun _ _ => ⟨_, rfl⟩
/-- A state whose memory below 2^30 is mapped onto itself by the leaf at 0x10000 and is good. -/
def Mapped (s : State) : Prop := ctxOf s 0 = ctxOf wfree 0 ∧ s.hub.arm = false ∧ s.poison = [] ∧ s.secGen = [] ∧
  ∀ v ∈ entryChoices s (ctxOf wfree 0) 0 0x10000, v = 0x1F
theorem mapped_access (s : State) (hs : Mapped s) (va : Nat) (h : va < 2 ^ 30) :
    ∃ a, recAccess s (ctxOf s 0) va = .ok a ∧ checkSector s a.key a.gen = .good := by
  obtain ⟨h0, h1, h2, h3, h4⟩ := hs
  have hg (k g) (hk : 2 ≤ g): checkSector s k g = .good := by
    have : ∀ k, SMap.get 0 ([] : SMap Nat) k = 0 := fun _ => rfl
    have : ∀ k, SMap.get false ([] : SMap Bool) k = false := fun _ => rfl
    simp [checkSector, isPois, shotAt, genFails, *]
    omega
  have hf : field (ctxOf wfree 0).pgroot 51 16 * 2 ^ 16 = 0x10000 := by decide +kernel
  have hb : bitsOf va 54 42 = 0 := by
    have : va / 2 ^ 42 = 0 := Nat.div_eq_of_lt (by omega)
    simp only [bitsOf, Nat.shiftRight_eq_div_pow, this, Nat.zero_mod]
  have hb' : bitsOf va 54 40 = 0 := by
    have : va / 2 ^ 40 = 0 := Nat.div_eq_of_lt (by omega)
    simp only [bitsOf, Nat.shiftRight_eq_div_pow, this, Nat.zero_mod]
  have he : readEntry s (ctxOf wfree 0) va 0 0x10000 = 0x1F := by
    unfold readEntry
    show (entryChoices s (ctxOf wfree 0) 0 0x10000).getD _ _ = _
    rw [List.getD_eq_getElem?_getD]
    generalize hl : (entryChoices s (ctxOf wfree 0) 0 0x10000)[freeBelow _ _ _]? = o
    cases o with
    | none => exact h4 _ (List.mem_cons_self ..)
    | some v => exact h4 v (List.mem_of_getElem? hl)
  have hc : checkSector s (hbmKey 0 0x10000) (ctxOf wfree 0).gen = .good := hg _ _ (by decide +kernel)
  rw [h0]
  refine ⟨⟨hbmKey 0 va, 4⟩, ?_, hg _ _ (by show 2 ≤ 4; decide)⟩
  have hl : walkLeaf s (ctxOf wfree 0) 0x1F 0 va .read false = .ok ⟨hbmKey 0 va, 4⟩ := by
    unfold walkLeaf physMap bitsOf
    have : va % 4398046511104 = va := Nat.mod_eq_of_lt (by omega)
    have h5 : va < 549755813888 := by omega
    have hgen : (ctxOf wfree 0).gen = 4 := by decide +kernel
    simp [this, h5, hgen, Nat.testBit, Nat.shiftRight_eq_div_pow]
  have ht : Machine.translate s (ctxOf wfree 0) va .read false = .ok ⟨hbmKey 0 va, 4⟩ := by
    unfold Machine.translate
    rw [hf, walk, if_neg (by decide)]
    simp only [Nat.mul_zero, Nat.sub_zero, hb, Nat.add_zero, hc, he, hl]
    rfl
  unfold recAccess ctxAccess
  rw [hb', ht, if_neg (by omega)]

/-- A record that says version 1, a kind-1 save of one pair, at 0x40000, every other byte of it readable. -/
theorem parses (s : State) (hs : Mapped s) (base : Pair) (a e : Hart)
    (h0 : recNat s (ctxOf s 0) 0x40000 2 = .ok 1) (h2 : recNat s (ctxOf s 0) 0x40002 1 = .ok 1)
    (h3 : recNat s (ctxOf s 0) 0x40003 1 = .ok base.pairs) (ht : base.tcmb ≤ 2 ^ 19)
    (hp : Good (do parseVtype (← recNat s (ctxOf s 0) 0x40008 8) (← recNat s (ctxOf s 0) 0x40028 8) (← recNat s (ctxOf s 0) 0x40020 8) base)) :
    Good (parseRecord s (ctxOf s 0) 0x40000 base a e) := by
  have h (o n) (ho : o + n ≤ 0x2000) : Good (recNat s (ctxOf s 0) (0x40000 + o) n) :=
    good_recNat _ _ _ _ fun k _ _ => mapped_access s hs k (by omega)
  unfold parseRecord
  refine good_bind (h _ _ (by omega)) fun v hv => good_bind (h _ _ (by omega)) fun k hk => good_bind (h _ _ (by omega)) fun p hpp =>
    good_bind (h _ _ (by omega)) fun l hl => ?_
  obtain rfl : v = 1 := Except.ok.inj (hv.symm.trans h0)
  obtain rfl : k = 1 := Except.ok.inj (hk.symm.trans h2)
  obtain rfl : p = base.pairs := Except.ok.inj (hpp.symm.trans h3)
  rw [if_pos ⟨rfl, by decide, by decide, rfl, .inl rfl⟩]
  refine good_bind (h _ _ (by omega)) fun vt hv => good_bind (h _ _ (by omega)) fun w hw => good_bind (h _ _ (by omega)) fun sd hsd => ?_
  have hp : Good (parseVtype vt w sd base) := by
    have e1 : recNat s (ctxOf s 0) 0x40008 8 = .ok vt := hv
    have e2 : recNat s (ctxOf s 0) 0x40028 8 = .ok w := hw
    have e3 : recNat s (ctxOf s 0) 0x40020 8 = .ok sd := hsd
    rw [e1, e2, e3] at hp
    exact hp
  refine good_bind hp fun _ _ => good_bind (good_parseHart _ _ fun o n ho => ?_) fun _ _ =>
    good_bind (good_parseHart _ _ fun o n ho => ?_) fun _ _ =>
    good_bind (good_mapM _ _ fun n hn => good_parseQueue _ h _ ?_) fun _ _ =>
    good_bind (good_foldlM _ _ fun b hb => ?_) fun _ _ => ⟨_, rfl⟩
  · exact h (0x100 + o) n (by omega)
  · exact h (0x500 + o) n (by omega)
  · have := List.mem_range.mp hn; omega
  · have := List.mem_range.mp hb
    have hn : ceilDiv base.tcmb 64 ≤ 2 ^ 13 := by unfold ceilDiv; omega
    obtain ⟨c, hc, hg⟩ := mapped_access s hs (0x40000 + 0x1000 + 64 * b) (by omega)
    refine good_bind ⟨c, hc⟩ fun d hd => ?_
    rw [hc] at hd
    cases hd
    rw [if_neg (by rw [hg]; decide)]
    exact ⟨_, rfl⟩
/-- A bind that answers was given an answer. -/
theorem bind_ok {α β : Type} {x : Rec α} {f : α → Rec β} {b : β} (h : x >>= f = .ok b) : ∃ a, x = .ok a ∧ f a = .ok b := by
  cases x with
  | ok a => exact ⟨a, rfl, h⟩
  | error e => cases h
theorem parseHart_status (rd : Nat → Nat → Rec Nat) (old : Hart) (r) (h : parseHart rd old = .ok r) : rd 0x101 1 = .ok r.2.st := by
  unfold parseHart at h
  obtain ⟨_, _, h⟩ := bind_ok h
  obtain ⟨_, _, h⟩ := bind_ok h
  obtain ⟨_, _, h⟩ := bind_ok h
  obtain ⟨st, h4, h⟩ := bind_ok h
  obtain ⟨_, _, h⟩ := bind_ok h
  obtain ⟨_, _, h⟩ := bind_ok h
  obtain ⟨_, _, h⟩ := bind_ok h
  cases h
  exact h4
theorem of_ite_error {α : Type} {c : Prop} [Decidable c] {x : Rec α} {b : RecBad} {r : α} (h : (if c then x else .error b) = .ok r) : x = .ok r := by
  by_cases hc : c
  · rwa [if_pos hc] at h
  · rw [if_neg hc] at h; cases h
theorem of_ite {α : Type} {c : Prop} [Decidable c] {x y r : α} (h : (if c then x else y) = r) : x = r ∨ y = r := by
  by_cases hc : c
  · rw [if_pos hc] at h; exact .inl h
  · rw [if_neg hc] at h; exact .inr h
theorem parse_status (s : State) (c : Ctx) (va : Nat) (base : Pair) (a e : Hart) (r) (h : parseRecord s c va base a e = .ok r) :
    recNat s c (va + (0x100 + 0x101)) 1 = .ok r.a.2.st ∧ recNat s c (va + (0x500 + 0x101)) 1 = .ok r.e.2.st := by
  unfold parseRecord at h
  obtain ⟨_, _, h⟩ := bind_ok h
  obtain ⟨_, _, h⟩ := bind_ok h
  obtain ⟨_, _, h⟩ := bind_ok h
  obtain ⟨_, _, h⟩ := bind_ok h
  have h := of_ite_error h
  obtain ⟨_, _, h⟩ := bind_ok h
  obtain ⟨_, _, h⟩ := bind_ok h
  obtain ⟨_, _, h⟩ := bind_ok h
  obtain ⟨_, _, h⟩ := bind_ok h
  obtain ⟨ua, h1, h⟩ := bind_ok h
  obtain ⟨ue, h2, h⟩ := bind_ok h
  obtain ⟨_, _, h⟩ := bind_ok h
  have last {k : Nat} {p : Pair} {y : Rec Nat} {z : Nat → Rec Pair}
      (h : (if k = 1 then .ok ⟨k, p, ua, ue⟩ else y >>= fun o => z o >>= fun q => .ok ⟨k, q, ua, ue⟩ : Rec Restored) = .ok r) :
      ua = r.a ∧ ue = r.e := by
    rcases of_ite h with h | h
    · cases h; exact ⟨rfl, rfl⟩
    · obtain ⟨_, _, h⟩ := bind_ok h
      obtain ⟨_, _, h⟩ := bind_ok h
      cases h; exact ⟨rfl, rfl⟩
  have done : ua = r.a ∧ ue = r.e := by
    rcases of_ite h with h | h
    · obtain ⟨_, _, h⟩ := bind_ok h
      exact last h
    · exact last h
  exact ⟨done.1 ▸ parseHart_status _ _ _ h1, done.2 ▸ parseHart_status _ _ _ h2⟩
/-- A saved item whose record at 0x40000 begins with a word. -/
def wsaved (v : Nat) : State :=
  writeNat (wlaunch (oneItem 1 .running { idx := 0, st := .preempted, saveVa := some 0x40000 })) 0x40000 v 4
theorem mapped_wsaved : Mapped (wsaved 0x01010001) := by unfold Mapped; decide +kernel
theorem test_meets_rebind : rebindChoice (wsaved 0x01010001) =
    some (oneItem 1 .running { idx := 0, st := .preempted, saveVa := some 0x40000 }, { idx := 0, st := .preempted, saveVa := some 0x40000 }, 0) := by
  decide +kernel
theorem test_meets_rebind_parses : Good (parseRecord (wsaved 0x01010001) (ctxOf (wsaved 0x01010001) 0) 0x40000
    (entryPair (oneItem 1 .running { idx := 0, st := .preempted, saveVa := some 0x40000 }) 0 0 0 0) {} {}) :=
  parses _ mapped_wsaved _ _ _ (of_answer (by decide +kernel)) (of_answer (by decide +kernel)) (of_answer (by decide +kernel))
    (by decide +kernel) (good_answer (by decide +kernel))
/-- A record whose harts were saved running says nothing of a wait. -/
theorem test_meets_rebind_as_saved (r : Restored) (h : parseRecord (wsaved 0x01010001) (ctxOf (wsaved 0x01010001) 0) 0x40000
    (entryPair (oneItem 1 .running { idx := 0, st := .preempted, saveVa := some 0x40000 }) 0 0 0 0) {} {} = .ok r) :
    r.a.2.st ≠ 1 ∧ r.e.2.st ≠ 1 := by
  have e := parse_status _ _ _ _ _ _ _ h
  have a : recNat (wsaved 0x01010001) (ctxOf (wsaved 0x01010001) 0) (0x40000 + (0x100 + 0x101)) 1 = .ok 0 := of_answer (by decide +kernel)
  have b : recNat (wsaved 0x01010001) (ctxOf (wsaved 0x01010001) 0) (0x40000 + (0x500 + 0x101)) 1 = .ok 0 := of_answer (by decide +kernel)
  rw [a, b] at e
  simp only [Except.ok.injEq] at e
  exact ⟨by omega, by omega⟩
/-- How a read of a record ends. -/
def badOf {α : Type} : Rec α → Option RecBad
  | .ok _ => none
  | .error b => some b
theorem of_badOf {α : Type} {x : Rec α} {b : RecBad} (h : badOf x = some b) : x = .error b := by
  cases x with
  | ok a => cases h
  | error e => rw [Option.some.inj h]
theorem test_meets_rebind_fails : parseRecord (wsaved 0x01010002) (ctxOf (wsaved 0x01010002) 0) 0x40000
      (entryPair (oneItem 1 .running { idx := 0, st := .preempted, saveVa := some 0x40000 }) 0 0 0 0) {} {} = .error .check ∧
    (wsaved 0x01010002).hub.arm = false :=
  ⟨of_badOf (by decide +kernel), by decide +kernel⟩
/-- The record's own sector was written under another key. -/
def wsavedForeign : State := { wsaved 0x01010001 with secGen := [(sectorOf 0x40000, 9)] }
theorem test_meets_rebind_violation : parseRecord wsavedForeign (ctxOf wsavedForeign 0) 0x40000
      (entryPair (oneItem 1 .running { idx := 0, st := .preempted, saveVa := some 0x40000 }) 0 0 0 0) {} {} = .error .violation :=
  of_badOf (by decide +kernel)
/-- Both harts of pair 0 have ended, with codes 2 and 0. -/
def wended : State :=
  let s := modHart (modHart w0 0 (fun h => { h with issue := .ended, endCode := some (2, 6, 9) })) 1
    (fun h => { h with issue := .ended, endCode := some (0, 0, 3) })
  { s with launches := [{ oneItem 1 .running { idx := 0, st := .running } with itemst := 0x48000 }] }
theorem test_meets_retire : (∃ a, getHart wended 0 = some a ∧ a.issue = .ended ∧ a.endCode = some (2, 6, 9)) ∧
    (∃ e, getHart wended 1 = some e ∧ e.issue = .ended ∧ e.endCode = some (0, 0, 3)) ∧ (∃ p, getPair wended 0 = some p ∧ p.dq = []) ∧
    (∀ l ∈ wended.launches, ∀ it ∈ l.items, OnPair it ∧ it.icode = none) ∧ wended.cmds = [] ∧ wended.reqs = [] :=
  ⟨⟨_, rfl, by decide +kernel, by decide +kernel⟩, ⟨_, rfl, by decide +kernel, by decide +kernel⟩, ⟨_, rfl, by decide +kernel⟩,
    by unfold OnPair; decide +kernel, by decide +kernel, by decide +kernel⟩
/-- A launch whose one item has retired, with a completion word somewhere. -/
def wretired (cword : Nat) : State := wlaunch { oneItem 1 .retired { idx := 0, st := .retired, icode := some (0, 0) } with cword := cword }
/-- The same with a status entry at 0x48000. -/
def wentry : State := wlaunch { oneItem 1 .retired { idx := 0, st := .retired, icode := some (2, 6) } with cword := 0x30000, itemst := 0x48000 }
/-- What CompletionWordIsWritten asks of the addresses of a launch. -/
def Completes (s : State) : Prop := ∀ l ∈ s.launches, l.st = .retired ∧ (∀ it ∈ l.items, it.st = .retired) ∧
  ∀ va ∈ completionVas l, (∀ e ∈ (ctxOf s l.ctx).hubPages, e.1 ≠ va / 4096) ∧ ctxAccess s (ctxOf s l.ctx) va .write true ≠ .fault 0x09
theorem test_meets_completes : Completes wentry ∧ Completes (wretired 0x30000) ∧ Completes (wretired 0x30001) ∧
    Completes (wretired (2 ^ 54)) ∧ Completes (wforeign (wretired 0x30000)) := by unfold Completes; decide +kernel
theorem test_meets_entry : ctxAccess wentry (ctxOf wentry 0) 0x48000 .write true = .ok ⟨0x48000, 4⟩ ∧
    checkSector wentry 0x48000 4 = .good ∧ InMemory 0x48000 ∧ Canonical wentry := by unfold InMemory Stored Canonical; decide +kernel
theorem test_meets_completion : let w := writeStatuses wentry { oneItem 1 .retired { idx := 0, st := .retired, icode := some (2, 6) } with
      cword := 0x30000, itemst := 0x48000 }
    ctxAccess w (ctxOf w 0) 0x30000 .write true = .ok ⟨0x30000, 4⟩ ∧ checkSector w 0x30000 4 = .good ∧ InMemory 0x30000 ∧ Canonical w := by
  unfold InMemory Stored Canonical; decide +kernel
theorem test_meets_completion_fails : ctxAccess (wretired (2 ^ 54)) (ctxOf (wretired (2 ^ 54)) 0) (2 ^ 54) .write true = .fault 0x07 ∧
    (wretired (2 ^ 54)).hub.arm = false ∧ (wretired (2 ^ 54)).hub.evOn = false ∧ (wretired (2 ^ 54)).hub.evHeld.length < 256 := by
  decide +kernel
/-- The event ring of 16 records at window offset 0, the window 16 pages of PASID 5. -/
def withRing (s : State) : State := { s with hub := { s.hub with
  evOn := true, evLog := 4, evBase := 0, fwpasid := 0x100005, fwwins := 16, fwwinb := 0x10000 } }
theorem test_meets_ring : (RingRoom (withRing (wretired (2 ^ 54))) ∧ RingInWindow (withRing (wretired (2 ^ 54)))) ∧
    Canonical (withRing (wretired (2 ^ 54))) ∧ Completes (withRing (wretired (2 ^ 54))) ∧
    ctxAccess (withRing (wretired (2 ^ 54))) (ctxOf (withRing (wretired (2 ^ 54))) 0) (2 ^ 54) .write true = .fault 0x07 ∧
    ¬RingRoom (wretired (2 ^ 54)) := by
  unfold RingRoom RingInWindow Canonical Completes; decide +kernel
theorem test_meets_completion_violation : let s := { wretired 0x30000 with secGen := [(sectorOf 0x30000, 9)] }
    (ctxAccess s (ctxOf s 0) 0x30000 .write true = .ok ⟨0x30000, 4⟩ ∧ checkSector s 0x30000 4 = .violation) ∧
    ctxAccess (wforeign (wretired 0x30000)) (ctxOf (wforeign (wretired 0x30000)) 0) 0x30000 .write true = .violation := by
  decide +kernel

/-! ## What the statements about the hub and the host assume can be met -/

/-- A command accepted with its arguments, on a package that booted. -/
def wmb (op : Nat) (args : List Dword) (s : State) : State :=
  { s with hub := { s.hub with bootResult := 1, mb := { s.hub.mb with busy := true, cmdOp := op, cmdArg := args } } }
/-- Context slot 1, free in w0, and slot 0, taken. -/
def slot1 : Dword := 0x20

theorem test_meets_host_submit : (withMb w0 { w0.hub.mb with busy := true }).hub.mb.busy = true ∧ w0.hub.mb.busy = false := by decide +kernel
theorem test_meets_host_other : (0xFFFF < 0x10000) ∧ 0x10120 ≤ 0x10120 ∧ 0x10004 % 8 ≠ 0 := by decide
theorem test_meets_failed_boot : ({ w0 with hub := { w0.hub with bootResult := 2 } } : State).hub.bootResult = 2 ∧ w0.hub.bootResult ≠ 2 ∧
    ({ w0 with hub := { w0.hub with bootResult := 2 } } : State).hub.mb.stage = 0 := by decide +kernel
theorem test_meets_unreached : let s := { wmb 1 [1] w0 with hub := { (wmb 1 [1] w0).hub with pkgs := 2, reach := 1 } }
    s.hub.reach.testBit (cmdArg s 0 % 32) = false ∧ ¬s.hub.pkgs ≤ cmdArg s 0 % 32 := by decide +kernel
theorem test_meets_kick_page : getCtx w0 0 = some (ctxOf w0 0) ∧ 0 < 64 := by decide +kernel
theorem test_meets_evhead : w0.hub.evHeld = [] ∧ ({ w0 with hub := { w0.hub with evHeld := [[4]] } } : State).hub.evHeld ≠ [] := by
  decide +kernel
theorem test_meets_command_notfound : Runs (wmb 2 [slot1] w0) 2 ∧ getCtx (wmb 2 [slot1] w0) (cmdSlot (wmb 2 [slot1] w0)) = none :=
  ⟨by unfold Runs; decide +kernel, by decide +kernel⟩
theorem test_meets_command_nopkg : (wmb 1 [1] w0).hub.pkgs ≤ cmdArg (wmb 1 [1] w0) 0 % 32 ∧ (wmb 1 [1] w0).hub.mb.cmdOp = 1 ∧
    ((Instr.ctxnew, 1) ∈ [(Instr.ctxnew, 1), (.ctxend, 2), (.halt, 7)]) := by decide +kernel
theorem test_meets_command_badop : (wmb 0x10 [] w0).hub.mb.stage = 0 ∧ (wmb 0x10 [] w0).hub.bootResult = 1 ∧
    0x0F < (wmb 0x10 [] w0).hub.mb.cmdOp := by decide +kernel
theorem test_meets_command_complete : (ended 5 [] (wmb 2 [] w0)).hub.mb.busy = true ∧ (ended 5 [] (wmb 2 [] w0)).hub.mb.stage = 2 := by
  decide +kernel
theorem test_meets_ctxnew : Runs (wmb 1 [slot1] w0) 1 ∧ getCtx (wmb 1 [slot1] w0) (cmdSlot (wmb 1 [slot1] w0)) = none ∧
    ¬(16384 < cmdArg (wmb 1 [slot1] w0) 7 % 2 ^ 16 ∨ 256 < cmdArg (wmb 1 [slot1] w0) 7 / 2 ^ 16 % 2 ^ 9 + 1 ∨
      cmdArg (wmb 1 [slot1] w0) 8 % 64 ≠ 0) :=
  ⟨by unfold Runs; decide +kernel, by decide +kernel, by decide +kernel⟩
theorem test_meets_ctxnew_refused : (∃ x, getCtx (wmb 1 [0] w0) (cmdSlot (wmb 1 [0] w0)) = some x) ∧
    16384 < cmdArg (wmb 1 [slot1, 0, 0, 0, 0, 0, 0, 0x4001] w0) 7 % 2 ^ 16 := ⟨⟨_, rfl⟩, by decide +kernel⟩
theorem test_meets_context_commands (op : Nat) (h : op ∈ [2, 3, 4, 5, 6, 7, 8, 0x0D, 0x0E]) :
    Runs (wmb op [0] w0) op ∧ (getCtx (wmb op [0] w0) (cmdSlot (wmb op [0] w0))).isSome = true := by
  simp only [List.mem_cons, List.not_mem_nil, or_false] at h
  unfold Runs
  rcases h with rfl | rfl | rfl | rfl | rfl | rfl | rfl | rfl | rfl <;> decide +kernel
theorem test_meets_qset : ¬(cmdArg (wmb 3 [0, 0x100, 4] w0) 1 % 256 ≠ 0 ∨ cmdArg (wmb 3 [0, 0x100, 4] w0) 2 % 32 = 0 ∨
    16 < cmdArg (wmb 3 [0, 0x100, 4] w0) 2 % 32) ∧ 16 < cmdArg (wmb 3 [0, 0x100, 17] w0) 2 % 32 := by decide +kernel
theorem test_meets_semwin : cmdArg (wmb 5 [0, 512 * 2 ^ 14] w0) 1 / 2 ^ 14 % 1024 ≤ 512 ∧
    512 < cmdArg (wmb 5 [0, 513 * 2 ^ 14] w0) 1 / 2 ^ 14 % 1024 ∧ ∀ e ∈ (wmb 5 [0] w0).ctxs, e.1 ≠ 0 → SMap.get 0 e.2.semwin 0 = 0 := by
  decide +kernel
/-- A window of another context with its last semaphore free, and one that overlaps. -/
theorem test_meets_semwin_overlap : let x : Ctx := { semwin := [(0, 4 + 512 * 4)] }
    (∃ e ∈ { w0 with ctxs := w0.ctxs ++ [(9, x)] }.ctxs, e.1 ≠ 0 ∧
      (0 < SMap.get 0 e.2.semwin 0 / 512 ∧ 0 < 2 ∧ 7 < SMap.get 0 e.2.semwin 0 % 512 + SMap.get 0 e.2.semwin 0 / 512 ∧
        SMap.get 0 e.2.semwin 0 % 512 < 7 + min 2 (512 - 7))) := by decide +kernel
theorem test_meets_ctxend_record : (∃ x, getCtx (wmb 2 [0] (wtaken 1)) 0 = some x ∧ x.record = some (0, recordBytes 1)) ∧
    Runs (wmb 2 [0] (wtaken 1)) 2 ∧ ∀ l ∈ (wmb 2 [0] (wtaken 1)).launches, l.ctx ≠ 0 :=
  ⟨⟨takenCtx 1, by decide +kernel, rfl⟩, by unfold Runs; decide +kernel, by decide +kernel⟩
theorem test_meets_ctxend : ∀ l ∈ (wmb 2 [0] wfree).launches, l.ctx ≠ cmdSlot (wmb 2 [0] wfree) := by decide +kernel
theorem test_meets_ctxend_launches (st : ItemState) (h : st ∈ [.queued, .ready, .running]) :
    let s := wmb 2 [0] { w0 with launches := [oneItem 1 st { idx := 0, st := st }] }
    Runs s 2 ∧ (∃ x, getCtx s (cmdSlot s) = some x ∧ x.record = none) ∧ (s.launches.map (·.ltag)).Nodup ∧
      (∃ l ∈ s.launches, l.ctx = cmdSlot s ∧ l.st = st ∧ (l.items.map (·.idx)).Nodup ∧ (st = .running → ∀ it ∈ l.items, OnPair it)) := by
  simp only [List.mem_cons, List.not_mem_nil, or_false] at h
  unfold Runs OnPair
  rcases h with rfl | rfl | rfl <;>
    exact ⟨by decide +kernel, ⟨_, rfl, by decide +kernel⟩, by decide +kernel, _, List.mem_singleton.mpr rfl, by decide +kernel⟩
theorem test_meets_cancel (st : ItemState) (h : st ∈ [.queued, .ready, .running]) :
    LaunchAt (wmb 6 [0, 7] (wlaunch { oneItem 1 st { idx := 0, st := st } with qidx := 7 })) 0 7
      { oneItem 1 st { idx := 0, st := st } with qidx := 7 } := by
  simp only [List.mem_cons, List.not_mem_nil, or_false] at h
  unfold LaunchAt
  rcases h with rfl | rfl | rfl <;> exact ⟨by decide +kernel, by decide +kernel, by decide +kernel, by decide +kernel, by decide +kernel⟩
theorem test_meets_cancel_record : Runs (wmb 6 [0, 0] (wtaken 1)) 6 ∧
    getCtx (wmb 6 [0, 0] (wtaken 1)) (cmdSlot (wmb 6 [0, 0] (wtaken 1))) = some (takenCtx 1) ∧
    (takenCtx 1).record = some (cmdArg (wmb 6 [0, 0] (wtaken 1)) 1 % 2 ^ 32, recordBytes 1) :=
  ⟨by unfold Runs; decide +kernel, by decide +kernel, by decide +kernel⟩
/-- The item of pair 0 before, while and after it is halted. -/
def wpair (op stage : Nat) (it : Item) : State :=
  let s := wmb op [0] { w0 with ctxs := wfree.ctxs, wlog := [], launches := [oneItem 1 .running it] }
  { s with hub := { s.hub with mb := { s.hub.mb with stage := stage } } }
theorem test_meets_halt (op stage : Nat) (it : Item) (h : (op, stage, it) = (7, 0, { idx := 0, st := .running }) ∨
      (op, stage, it) = (7, 1, { idx := 0, st := .running, haltReq := true }) ∨
      (op, stage, it) = (8, 0, { idx := 0, st := .running, halted := true, saveVa := some 0x40000 })) :
    ∃ a e, ItemAt (wpair op stage it) (oneItem 1 .running it) it a e := by
  rcases h with h | h | h <;> cases h <;>
    exact ⟨_, _, ⟨rfl, by decide +kernel, by decide +kernel, by decide +kernel, by decide +kernel⟩, by decide +kernel, rfl,
      ⟨.inr (.inl rfl), rfl⟩, rfl, rfl, .inl (by decide +kernel)⟩
theorem test_meets_halt_runs : Runs (wpair 7 0 { idx := 0, st := .running }) 7 ∧
    (cpcOf (wpair 7 0 { idx := 0, st := .running }) 0).st = 0 ∧ (cpcOf (wpair 7 0 { idx := 0, st := .running }) 0).busy = false := by
  unfold Runs; decide +kernel
theorem test_meets_halt_power : let s := { wpair 7 0 { idx := 0, st := .running } with cpcs := [(0, { st := 2 })] }
    Runs s 7 ∧ (cpcOf s 0).st ≠ 0 := by unfold Runs; decide +kernel
/-- Through a page table outside HBM nothing can be written: a record is left out whole. -/
theorem unmapped_record (s : State) (c : Nat) (l : List (List Byte × Bool)) (va : Nat)
    (hr : (ctxOf s c).pgroot = 2 ^ 40) (ha : s.hub.arm = false) : putPieces c va l s = s := by
  induction l generalizing va with
  | nil => rfl
  | cons x l ih =>
    obtain ⟨f, hf, hx⟩ : ∃ f, f ≠ causePAGEREQ ∧ ctxAccess s (ctxOf s c) va .write false = .fault f := by
      unfold ctxAccess Machine.translate walk
      have : field (2 ^ 40 : BitVec 64) 51 16 * 2 ^ 16 = 2 ^ 40 := by decide
      rw [hr, this]
      by_cases h : 2 ^ 55 ≤ va ∨ bitsOf va 54 40 = 2 ^ 15 - 1
      · exact ⟨causeACCESS, by decide, if_pos h⟩
      · exact ⟨causeTRANS, by decide, (if_neg h).trans (if_pos (by decide))⟩
    unfold putPieces
    rw [hx]
    simpa [walkDone, ha, hf] using ih (va + 64)
/-- The item asked to halt, its context's page table outside HBM. -/
def wunmapped : State :=
  let s := wpair 7 1 { idx := 0, st := .running, haltReq := true, saveVa := some 0x40000 }
  { s with ctxs := s.ctxs.map (fun e => (e.1, { e.2 with pgroot := 2 ^ 40 })) }
theorem test_meets_halt_record : RecordGoesOut wunmapped
    (oneItem 1 .running { idx := 0, st := .running, haltReq := true, saveVa := some 0x40000 })
    { idx := 0, st := .running, haltReq := true, saveVa := some 0x40000 } 3 := by
  have : writeSave wunmapped 1 0 0 3 = wunmapped := by
    unfold writeSave
    split
    · next p a e hp ha he =>
      have hv : (((getLaunch wunmapped 1).bind (getItem · 0)).bind (·.saveVa)).getD 0 = 0x40000 := by decide +kernel
      have hc : p.ctx = 0 := by
        have : (getPair wunmapped 0).map (·.ctx) = some 0 := by decide +kernel
        rw [hp] at this
        exact Option.some.inj this
      rw [hv, hc]
      exact unmapped_record _ _ _ _ (by decide +kernel) (by decide +kernel)
    · rfl
  unfold RecordGoesOut
  rw [show writeSave wunmapped (oneItem 1 .running { idx := 0, st := .running, haltReq := true, saveVa := some 0x40000 }).ltag 0 0 3 =
    wunmapped from this]
theorem test_meets_halt_drained : pairDrained (wpair 7 1 { idx := 0, st := .running, haltReq := true }) 0 (1, 0) = true ∧
    pairDrained { wpair 7 1 { idx := 0, st := .running, haltReq := true } with cmds := [{ eCmd .xcopy with item := (1, 0) }] } 0 (1, 0) = false := by
  decide +kernel
/-- The halted item with a record at 0x40000 that begins with a word. -/
def whalted (v : Nat) : State := writeNat (wpair 8 0 { idx := 0, st := .running, halted := true, saveVa := some 0x40000 }) 0x40000 v 4
theorem mapped_whalted : Mapped (whalted 0x01010001) := by unfold Mapped; decide +kernel
theorem test_meets_resume : Runs (whalted 0x01010001) 8 ∧ (whalted 0x01010001).h.wait = none ∧
    ∃ r, parseRecord (whalted 0x01010001) (ctxOf (whalted 0x01010001) 0) 0x40000 (entryPair (wordLaunch 1) 0 0 0 0) {} {} = .ok r ∧
      r.a.2.1 ≠ 1 ∧ r.e.2.1 ≠ 1 := by
  refine ⟨by unfold Runs; decide +kernel, by decide +kernel, ?_⟩
  obtain ⟨r, h⟩ := parses (whalted 0x01010001) mapped_whalted (entryPair (wordLaunch 1) 0 0 0 0) {} {}
    (of_answer (by decide +kernel)) (of_answer (by decide +kernel)) (of_answer (by decide +kernel)) (by decide +kernel)
    (good_answer (by decide +kernel))
  have h1 : recNat (whalted 0x01010001) (ctxOf (whalted 0x01010001) 0) (0x40000 + (0x100 + 0x101)) 1 = .ok 0 :=
    of_answer (by decide +kernel)
  have h2 : recNat (whalted 0x01010001) (ctxOf (whalted 0x01010001) 0) (0x40000 + (0x500 + 0x101)) 1 = .ok 0 :=
    of_answer (by decide +kernel)
  obtain ⟨p, q⟩ := parse_status _ _ _ _ _ _ _ h
  exact ⟨r, h, by rw [← Except.ok.inj (h1.symm.trans p)]; decide, by rw [← Except.ok.inj (h2.symm.trans q)]; decide⟩
theorem test_meets_resume_fails :
    parseRecord (whalted 2) (ctxOf (whalted 2) 0) 0x40000 (entryPair (wordLaunch 1) 0 0 0 0) {} {} = .error .check :=
  of_badOf (by decide +kernel)
theorem test_meets_resume_violation : let s := { whalted 2 with secGen := [(sectorOf 0x40000, 9)] }
    parseRecord s (ctxOf s 0) 0x40000 (entryPair (wordLaunch 1) 0 0 0 0) {} {} = .error .violation :=
  of_badOf (by decide +kernel)
theorem test_meets_package_commands (op : Nat) (h : op ∈ [9, 0x0A, 0x0B, 0x0C, 0x0F]) : Runs (wmb op [0] w0) op := by
  simp only [List.mem_cons, List.not_mem_nil, or_false] at h
  unfold Runs
  rcases h with rfl | rfl | rfl | rfl | rfl <;> decide +kernel
theorem test_meets_package_arguments :
    (¬(cmdArg (wmb 10 [0, 512, 4] w0) 1 % 512 ≠ 0 ∨ cmdArg (wmb 10 [0, 512, 4] w0) 2 % 32 < 4 ∨ 16 < cmdArg (wmb 10 [0, 512, 4] w0) 2 % 32)) ∧
    cmdArg (wmb 10 [0, 512, 3] w0) 2 % 32 < 4 ∧ 8 < cmdArg (wmb 12 [0, 9 * 2 ^ 8] w0) 1 / 2 ^ 8 % 16 ∧
    ¬(8 < cmdArg (wmb 12 [0, 8 * 2 ^ 8] w0) 1 / 2 ^ 8 % 16 ∨ cmdArg (wmb 12 [0, 8 * 2 ^ 8] w0) 1 / 2 ^ 12 % 2 ^ 20 ≠ 0) := by
  decide +kernel
/-- A firmware window of 64 pages and a held snapshot. -/
def whostwin (held : Bool) : State := { w0 with hub := { w0.hub with fwpasid := 0x100000#21, fwwins := 64, snapHeld := held } }
theorem test_meets_host_window : (whostwin true).hub.fwpasid.getLsbD 20 = true ∧ 0 + 30304 ≤ 4096 * (whostwin true).hub.fwwins.toNat ∧
    0 + 2 ^ 18 ≤ 4096 * (whostwin true).hub.fwwins.toNat ∧ ¬2 ^ 18 + 30304 ≤ 4096 * (whostwin true).hub.fwwins.toNat := by decide +kernel
/-- A report and a snapshot that begin in the last page of the window. -/
theorem test_meets_host_window_left : let at_ : Dword := 63 * 4096
    Runs (wmb 9 [0, 0, 0, 0, 0, at_] (whostwin true)) 9 ∧ Runs (wmb 0x0F [0, at_] (whostwin true)) 0x0F ∧
    (wmb 0x0F [0, at_] (whostwin true)).hub.snapHeld = true ∧
    ¬cmdArg (wmb 9 [0, 0, 0, 0, 0, at_] (whostwin true)) 5 + 30304 ≤ 4096 * (whostwin true).hub.fwwins.toNat ∧
    cmdArg (wmb 9 [0, 0, 0, 0, 0, at_] (whostwin true)) 5 + 64 ≤ 4096 * (whostwin true).hub.fwwins.toNat ∧
    ¬cmdArg (wmb 0x0F [0, at_] (whostwin true)) 1 + 2 ^ 18 ≤ 4096 * (whostwin true).hub.fwwins.toNat := by
  unfold Runs; decide +kernel
theorem test_meets_host_window_canonical : Canonical (whostwin true) ∧ Canonical (whostwin false) := by unfold Canonical; decide +kernel

/-! ## What the statements about power, resets and errors assume can be met -/

/-- The controller of cluster 0 in a state. -/
def wcpc (x : Cpc) (s : State) : State := { s with cpcs := [(0, x)] }
/-- A power command accepted at time 0. -/
def pcmd (n : Nat) : Cpc := { busy := true, cmd := n }

theorem test_meets_cpc_writes : (cpcOf w0 0).wakeFrom = none ∧ (cpcOf w0 0).st = 0 ∧ (cpcOf w0 0).busy = false ∧
    (cpcOf (wcpc { st := 3 } w0) 0).wakeFrom = none ∧ (cpcOf (wcpc { st := 3 } w0) 0).cmd = 0 ∧ (cpcOf (wcpc { st := 3 } w0) 0).st ≠ 0 ∧
    (cpcOf (wcpc { pcmd 2 with st := 1 } w0) 0).wakeFrom = none ∧ (cpcOf (wcpc { pcmd 2 with st := 1 } w0) 0).cmd ≠ 0 ∧
    (cpcOf (wcpc { pcmd 2 with st := 1 } w0) 0).st ≠ 0 := by decide +kernel
theorem test_meets_power_commands (n : Nat) (h : n ∈ [1, 2, 3, 4]) : PowerCmd (wcpc (pcmd n) w0) 0 n ∧ ¬PowerCmd w0 0 n := by
  simp only [List.mem_cons, List.not_mem_nil, or_false] at h
  unfold PowerCmd
  rcases h with rfl | rfl | rfl | rfl <;> decide +kernel
theorem test_meets_quiesce_halted : ∃ t i l it, BoundIn (wcpc (pcmd 1) (wpair 8 0 { idx := 0, st := .running, halted := true })) 0 t i ∧
    getLaunch (wpair 8 0 { idx := 0, st := .running, halted := true }) t = some l ∧ getItem l i = some it ∧ it.halted = true :=
  ⟨1, 0, _, _, by unfold BoundIn; decide +kernel, rfl, rfl, rfl⟩
theorem test_meets_quiesce : ∀ l ∈ (wcpc (pcmd 1) w0).launches, ∀ it ∈ l.items, it.halted = false := by decide +kernel
theorem test_meets_retain_refused :
    scrUsed (wcpc { pcmd 2 with scrret := false } (wlaunch { oneItem 1 .running { idx := 0 } with scrb := 256, scr := [(0, 0)] })) 0 ≠ [] := by
  decide +kernel
theorem test_meets_retain : (cpcOf (wcpc (pcmd 2) w0) 0).scrret = true ∧ scrUsed (wcpc { pcmd 2 with scrret := false } w0) 0 = [] := by
  decide +kernel
theorem test_meets_retain_canonical : Canonical (wcpc (pcmd 2) w0) := by unfold Canonical; decide +kernel
theorem test_meets_clkgate : Canonical (wcpc (pcmd 3) w0) := by unfold Canonical; decide +kernel
/-- No item bound and no command: a controller that has run for 100,000 cycles. -/
def wquiet (x : Cpc) : State :=
  { wcpc { x with running := true } wfree with now := 100000, hub := { wfree.hub with refNow := 100000 } }
theorem test_meets_power_done : (cpcOf (wquiet (pcmd 1)) 0).running = true ∧ (allPairs (wquiet (pcmd 1))).all (fun e => e.2.item.isNone) = true ∧
    (wquiet (pcmd 1)).cmds = [] ∧ (wquiet (pcmd 1)).reqs = [] ∧
    2000 ≤ ((wquiet (pcmd 1)).hub.refNow - (cpcOf (wquiet (pcmd 1)) 0).began) / 14 := by decide +kernel
theorem test_meets_quiesce_busy : ClusterBusy (wcpc (pcmd 1) w0) 0 ∧ (cpcOf (wquiet { pcmd 1 with loaded := true }) 0).loaded = true ∧
    (cpcOf (wquiet (pcmd 1)) 0).loaded = false :=
  ⟨.inl ⟨1, 0, by unfold BoundIn; decide +kernel⟩, by decide +kernel⟩
theorem test_meets_wake : (cpcOf (wcpc { st := 4, busy := true, wakeFrom := some 4 } wfree) 0).wakeFrom = some 4 ∧
    (cpcOf (wcpc { st := 4, busy := true, wakeFrom := some 4 } wfree) 0).running = false ∧
    (cpcOf (wcpc { st := 4, busy := true, wakeFrom := some 4 } wfree) 0).cmd = 0 ∧ (4 : Nat) < 5 := by decide +kernel
theorem test_meets_wake_done : (cpcOf (wquiet { st := 4, busy := true, wakeFrom := some 4 }) 0).running = true ∧
    (cpcOf (wquiet { st := 4, busy := true, wakeFrom := some 4 }) 0).cmd = 0 ∧
    (cpcOf (wquiet { st := 4, busy := true, wakeFrom := some 4 }) 0).lost = false ∧
    2000 ≤ ((wquiet { st := 4, busy := true, wakeFrom := some 4 }).hub.refNow -
      (cpcOf (wquiet { st := 4, busy := true, wakeFrom := some 4 }) 0).began) / 14 ∧
    ∀ k < 8, SMap.get 0 (wquiet { st := 4, busy := true, wakeFrom := some 4 }).cyc (8 * 0 + k) / 2 ≤
      (wquiet { st := 4, busy := true, wakeFrom := some 4 }).now := by decide +kernel
theorem test_meets_wake_canonical : Canonical (wquiet { st := 4, busy := true, wakeFrom := some 4 }) := by unfold Canonical; decide +kernel
theorem test_meets_reset : Canonical w0 ∧ (1 : Nat) ≤ 32 := by unfold Canonical; decide +kernel
theorem test_meets_watchdog : (getHart w0 hubId).isSome = true ∧ ¬RingRoom w0 ∧ w0.hub.evHeld.length < 256 ∧
    RingRoom (withRing w0) ∧ RingInWindow (withRing w0) := by unfold RingRoom RingInWindow; decide +kernel
theorem test_meets_snapshot : w0.hub.snapHeld = false ∧ (whostwin true).hub.snapHeld = true ∧ w0.hub.snapLow = false ∧
    ({ w0 with hub := { w0.hub with snapLow := true } } : State).hub.snapLow = true := by decide +kernel
/-- A load of package 3's HBM in flight, four packages, port 0 of package 0 joined to port 0 of package 3. -/
def farRead : Req := { id := 5, hart := w0.cur, uid := w0.h.uid, strm := none, dom := 3, op := .load false, size := 8, va := 0, key := hbmKey 3 0 }
def wfar : State := { w0 with reqs := [farRead], hub := { w0.hub with reach := 15, pkgs := 4, cables := [(0, 48), (48, 0)] } }
theorem test_meets_link_failure : domOf farRead.key = farRead.dom ∧ farRead.dom < 32 ∧ wfar.hub.reach.testBit farRead.dom = true ∧
    (match exec (.linkFailure 0 0) wfar with
     | .next t => !t.hub.reach.testBit farRead.dom
     | _ => false) = true ∧
    (∃ p, getPair wfar (farRead.hart / 2) = some p ∧ p.item ≠ none) ∧ (getHart wfar farRead.hart).isSome = true :=
  ⟨by decide +kernel, by decide +kernel, by decide +kernel, by decide +kernel, ⟨_, rfl, by decide +kernel⟩, by decide +kernel⟩
/-- A write of a running item's engine command in flight. -/
theorem test_meets_link_command : let r := { farRead with cmd := some (1, 0) }
    let s := { wfar with reqs := [r], launches := [oneItem 1 .running { idx := 0, st := .running }] }
    ∃ l it, getLaunch s 1 = some l ∧ getItem l 0 = some it ∧ OnPair it ∧ r.cmd = some (1, 0) :=
  ⟨_, _, rfl, rfl, by unfold OnPair; decide, rfl⟩
/-- Core 0 of die C0 reads HBM of die C2: two links of the ring, from place 1 by 2 to 3. -/
theorem test_meets_ring_failure : let r := { farRead with dom := 0, key := hbmKey 0 (2 * 2 ^ 37) }
    wfar.hub.ringDown = [] ∧ domOf r.key = r.dom ∧ PassesLink (ringPos r.hart) (homePos r.key) (17 - 16) ∧ PassesLink (ringPos r.hart) (homePos r.key) (18 - 16) ∧
      ¬PassesLink (ringPos r.hart) (homePos r.key) (16 - 16) :=
  ⟨by decide +kernel, by decide +kernel, ⟨0, 1, 2, by decide +kernel, by decide +kernel, .inl ⟨rfl, rfl⟩⟩,
    ⟨1, 2, 3, by decide +kernel, by decide +kernel, .inl ⟨rfl, rfl⟩⟩, fun ⟨n, x, y, h, g, e⟩ => by
      have hr : dieRoute (ringPos w0.cur) (homePos (hbmKey 0 (2 * 2 ^ 37))) = [1, 2, 3] := by decide +kernel
      change (dieRoute (ringPos w0.cur) (homePos (hbmKey 0 (2 * 2 ^ 37))))[n]? = some x at h
      change (dieRoute (ringPos w0.cur) (homePos (hbmKey 0 (2 * 2 ^ 37))))[n + 1]? = some y at g
      rw [hr] at h g
      match n with
      | 0 => simp at h g; omega
      | 1 => simp at h g; omega
      | n + 2 => simp at g⟩
/-- The scratchpad of a cluster that wakes from RETAIN is checked; error places are numbered by its first hart. -/
theorem test_meets_error_scratch : ChecksScratch w0 { st := 2, busy := true, running := true, wakeFrom := some 2 } ∧
    ¬ChecksScratch w0 {} ∧ 0 = scrKey 0 0 / 2 ^ 32 % 2 ^ 19 / 128 :=
  ⟨⟨2, rfl, by decide, by decide, rfl, .inl rfl⟩, (fun ⟨_, h, _⟩ => nomatch h), by decide +kernel⟩
theorem test_meets_error (unit : Nat) (h : unit ∈ [0, 4, 7, 9, 10, 11, 12, 14, 15]) : unit < 16 ∧ unit ≠ 6 ∧ unit ≠ 8 ∧ unit ≠ 13 ∧
    w0.hub.repmask.getLsbD unit = false ∧ Canonical w0 := by
  unfold Canonical
  simp only [List.mem_cons, List.not_mem_nil, or_false] at h
  rcases h with rfl | rfl | rfl | rfl | rfl | rfl | rfl | rfl | rfl <;> decide +kernel
/-- An engine command of an item that runs and of one that is saved, its context with NOTEC and NOTEU. -/
theorem test_meets_error_command : let s := modCtx (wcmd (eCmd .dcopy)) 0 (fun x => { x with chkctl := 0x30000 })
    s.cmds.find? (fun c => c.id == 5) = some (eCmd .dcopy) ∧ (ctxOf s 0).chkctl.getLsbD 16 = true ∧
    (∃ l it, getLaunch s 1 = some l ∧ getItem l 0 = some it ∧ OnPair it ∧ (getHart s (2 * it.pair)).isSome = true) ∧
    ∃ l it, getLaunch (wsaved 0x01010001) 1 = some l ∧ getItem l 0 = some it ∧ it.st = .preempted :=
  ⟨by decide +kernel, by decide +kernel, ⟨_, _, rfl, rfl, by unfold OnPair; decide +kernel, by decide +kernel⟩,
    ⟨_, _, rfl, rfl, rfl⟩⟩
theorem test_meets_error_word : ∃ p, getPair w0 (0 / 2) = some p ∧ 0 / lanesOf p < p.acc.length ∧ p.item ≠ none :=
  ⟨_, rfl, by decide +kernel, by decide +kernel⟩
theorem test_meets_error_report : let s := { w0 with hub := { w0.hub with repmask := 0x40, repsev := true } }
    s.hub.repmask.getLsbD 6 = true ∧ s.hub.repsev = true := by decide +kernel
theorem test_meets_error_saved : ∃ l it, getLaunch (wsaved 0x01010001) ((2 ^ 40 * 1 + 0) / 2 ^ 40) = some l ∧
    getItem l ((2 ^ 40 * 1 + 0) % 2 ^ 40) = some it ∧ it.st = .preempted :=
  ⟨oneItem 1 .running { idx := 0, st := .preempted, saveVa := some 0x40000 }, { idx := 0, st := .preempted, saveVa := some 0x40000 },
    by decide +kernel, by decide +kernel, rfl⟩
/-- Pair 0 with one instruction in its queue. -/
def wqueued (e : VEntry) : State := wp (fun p => { p with dq := [e] }) w0
/-- A checked VADD of 8 elements, and a matrix row. -/
def checkedAdd : VEntry := { te (.vadd 2 1 2 0 0) with checked := true, vl := 8, dest := some 2 }
def matrixRow : VEntry := { te (.mmrow 3 8 1 0) with role := 1 }
theorem test_meets_error_vote : (∃ p, getPair (wqueued checkedAdd) (0 / 2) = some p ∧ p.dq = [checkedAdd]) ∧ checkedAdd.role = 0 % 2 ∧
    checkedAdd.checked = true ∧ 5 ∈ votePlaces w0.p checkedAdd ∧ 8 ∉ votePlaces w0.p checkedAdd ∧ (∃ p, getPair (wqueued matrixRow) (1 / 2) = some p ∧ p.dq = [matrixRow]) ∧
    matrixRow.role = 1 % 2 ∧ (cimRow matrixRow.instr).isSome = true ∧ 2 < ({ w0.p with tile := { kt := 1, nt := 3 } } : Pair).tile.nt ∧ (∃ p, getPair w0 (0 / 2) = some p ∧ p.dq = []) :=
  ⟨⟨_, rfl, by decide +kernel⟩, rfl, rfl, by decide +kernel, by decide +kernel, ⟨_, rfl, by decide +kernel⟩, rfl, rfl, by decide,
    ⟨_, rfl, by decide +kernel⟩⟩
/-- The votes of FailedVotesPoison. -/
def voted (e : VEntry) (k : VoteKind) : VEntry := { e with votes := [{ elem := 5, kind := k }] }
theorem test_meets_failed_vote : (voted checkedAdd .differ).votes = [{ elem := 5, kind := .differ }] ∧
    cimRow (voted checkedAdd .differ).instr = none ∧ 5 ∈ writesOf w0.p (voted checkedAdd .differ) ∧ 8 ∉ writesOf w0.p (voted checkedAdd .differ) ∧
    PairShape w0.p := by
  unfold PairShape; decide +kernel
theorem test_meets_may_flag : mayFlag w0.p (voted checkedAdd .differ) = false ∧
    mayFlag w0.p { voted checkedAdd .differ with tags := w0.p.tags.set 1 (.flt .f16) } = true := by decide +kernel
theorem test_meets_failed_scalar : let e := voted { te (.kpopc 5 0) with checked := true, vl := 8 } .differ
    let d : Done := { s := w0, res := some 3 }
    cimRow e.instr = none ∧ d.res ≠ none ∧ VoteKind.differ ≠ .wrong ∧ ∀ x f g n, e.instr ≠ .vsetvf x f g n := by
  exact ⟨rfl, by decide, by decide, nofun⟩
theorem test_meets_failed_row : cimRow (voted matrixRow .differ).instr = some 3 ∧ 3 < w0.p.acc.length := by decide +kernel

/-! ## What the statements about the step assume can be met -/

/-- addi x5, x0, 3 placed where the next step fetches. -/
def wadd : State := placeWord State.reset [0x87, 0x02, 0x06, 0x00] 0
/-- What a step sees of it. -/
def fadd : State := noteIssue (focus wadd 0)
/-- The word of zeros, placed the same way. -/
def fzero : State := noteIssue (focus w0 0)
/-- The same with the PC past every mapped page. -/
def fwild : State := noteIssue (focus (wh (fun h => { h with pc := 2#64 ^ 55 }) w0) 0)

theorem test_meets_issue : chooseAct wadd = .issue 0 ∧ chooseAct w0 = .issue 0 := by decide +kernel
theorem test_meets_issues : Issues fadd ∧ Issues fzero ∧ Issues fwild := by unfold Issues; decide +kernel
theorem test_meets_instruction : InstructionAt fadd [0x87, 0x02, 0x06, 0x00] ∧ decodeBytes [0x87, 0x02, 0x06, 0x00] = .instr (.addi 5 0 3) 4 :=
  ⟨⟨0x20000, 4, by unfold FetchAt; decide +kernel, .inr ⟨by decide +kernel, 0x20002, 4, by unfold FetchAt; decide +kernel,
    by decide +kernel⟩⟩, by decide⟩
/-- Its x1 is there from cycle 40 on, `add x5, x1, x2` reads it, `addi x5, x0, 3` does not. -/
theorem test_meets_operand_wait : let f := { fadd with h := { fadd.h with avail := [(1, 40)] } }
    operandWait f (.add 5 1 2) = some 40 ∧ operandWait f (.addi 5 0 3) = none ∧ changesFlow f (.addi 5 0 3) = false := by decide +kernel
theorem test_meets_reject : InstructionAt fzero [0, 0] ∧ ∃ why, decodeBytes [0, 0] = .reject why :=
  ⟨⟨0x20000, 4, by unfold FetchAt; decide +kernel, .inl (by decide +kernel)⟩, _, rfl⟩
theorem test_meets_fetch_fault : fwild.h.xol = none ∧ fwild.hub.arm = false ∧
    ∃ c, resolve fwild fwild.p fwild.cur (ctxOf fwild fwild.p.ctx) (fwild.h.level == 0) fwild.h.pc.toNat 2 .fetch = .fault c :=
  ⟨by decide +kernel, by decide +kernel, 0x06, by decide +kernel⟩
theorem test_meets_fetch_fault_issue : chooseAct (wh (fun h => { h with pc := 2#64 ^ 55 }) w0) = .issue 0 := by decide +kernel
theorem test_meets_idle : enabled State.reset = [] := by decide +kernel
theorem test_meets_input : ∃ i rest, chooseAct { State.reset with inputs := [.snaptrgN] } = .input i rest :=
  ⟨.snaptrgN, [], by decide +kernel⟩
theorem test_meets_canonical : Canonical w0 := by unfold Canonical; decide +kernel
theorem test_meets_numbered : RequestsNumbered { wfar with nextId := 6 } ∧ SharesBounded wfar := by unfold RequestsNumbered SharesBounded; decide +kernel
theorem test_meets_shaped : PairsShaped w0 := by unfold PairsShaped PairShape; decide +kernel
theorem test_meets_levels : LevelsLegal w0 := by unfold LevelsLegal; decide +kernel
theorem test_meets_encoding : Instr.wf (.addi 5 0 3) = true ∧ encode (.addi 5 0 3) ≠ .event ∧ Instr.wf (.cBnez 0x3FF) = true ∧
    encode (.cBnez 0x3FF) ≠ .event := by decide

/-! ## One step against the spec's worked examples -/

/-- R91: `lih` of hi(c), then `addi` of lo(c), make c = 0x12345678. -/
theorem test_lih : outX (exec (.lih 6 0x2468) w0) 6 = some 0x12340000 := by decide +kernel
theorem test_addi_negative : outX (exec (.addi 5 5 0x7FFF) (wx 5 0 w0)) 5 = some (-1) := by decide +kernel
/-- R123: division by 0 gives all ones, and the most negative number over −1 itself. -/
theorem test_div_corners : outX (exec (.div 5 1 2) (wx 1 7 w0)) 5 = some (-1) ∧
    outX (exec (.div 5 1 2) (wx 1 (1#64 <<< 63) (wx 2 (-1) w0))) 5 = some (1#64 <<< 63) ∧
    outX (exec (.rem 5 1 2) (wx 1 7 w0)) 5 = some 7 := by decide +kernel
/-- x0 reads 0 and keeps nothing. -/
theorem test_x0 : outX (exec (.addi 0 1 5) (wx 1 1 w0)) 0 = some 0 := by decide +kernel
theorem test_branch_back : outPc (exec (.bltu 5 6 (-4)) (wx 6 1 w0)) = some 0x1FFF8 ∧ outPc (exec (.bltu 5 6 (-4)) w0) = some 0x20004 := by
  decide +kernel
theorem test_jal_links : outX (exec (.jal 1 0x10) w0) 1 = some 0x20004 ∧ outPc (exec (.jal 1 0x10) w0) = some 0x20020 := by decide +kernel
/-- R188: the worked load from the TCM, and the same load where the allocation ends. -/
theorem test_window_load : resolveCur (wp (fun p => { p with tcmb := 0x200 }) w0) 0x7FFF0000000110 4 .read = .ok ⟨tcmKey 0 0x110, 0⟩ ∧
    resolveCur (wp (fun p => { p with tcmb := 0x112 }) w0) 0x7FFF0000000110 4 .read = .fault 0x06 := by decide +kernel
/-- R169: the table of grants, P = 8 and four accumulator rows. -/
def grants (m n tc k : Dword) : Option (Dword × Dword × Dword) :=
  match exec (.settl 20 12) (wx 12 m (wx 13 (n + (tc <<< 32)) (wx 14 k (wp (fun p => { p with pairs := 8, accrows := 4 }) w0)))) with
  | .next t => some (readX t.h 20, readX t.h 21, readX t.h 22)
  | _ => none
theorem test_settl : grants 6 200 0x28 1000 = some (4, 51, 1000) ∧ grants 6 200 0x28 300 = some (4, 102, 300) ∧
    grants 2 200 0x28 40 = some (2, 200, 40) ∧ grants 0 200 0x28 40 = some (0, 0, 0) := by decide +kernel
/-- spec/07, a worked row: the pair before MMROW. -/
def rowPair : Pair :=
  let b (n : Nat) (v : Nat) : List Nat := List.replicate n v
  let put (t : Tag) (r : Nat) (l : List Nat) (p : Pair) : Pair := putCodes p t r ((List.range l.length).zip l)
  let p := put (.mx .mx4) 16 (b 32 2 ++ b 8 1 ++ b 16 7 ++ b 16 0 ++ b 8 0xB) { w1.p with pairs := 8 }
  let p := put (.int false 8) 17 [127, 128, 120, 127] p
  put (.mx .mxi8) 8 (b 32 0x40 ++ b 8 0x20) { p with scale := [(0, 127), (1, 130), (2, 127)] }
/-- The entry of the worked row, VL = 80. -/
def rowEntry : VEntry :=
  { te .brk with role := 1, vl := 80, b := 0x28_0002_0028, tags := (List.replicate 16 (.mx .mxi8)) ++ List.replicate 16 (.mx .mx4) }
/-- spec/07, a worked row: words 0 and 1 of a3 after MMROW, FPST unchanged; v4 after ACCRD into bf16. -/
theorem test_mmrow : let r := laneMmrow (laneTload rowPair rowEntry 16).p rowEntry 3 8 0 false
    rowWord r.p 3 0 = 0x42800000 ∧ rowWord r.p 3 1 = 0xC23D0000 ∧ rowWord r.p 3 2 = 0 ∧ r.fl = 0 := by decide +kernel
/-- R240: the fills of the window. -/
theorem test_window_fill : windowFill { w0.p with wf := true, wop := 0 } = 0x80000000 ∧ windowFill { w0.p with wf := false, wop := 1 } = 0x7FFFFFFF ∧
    windowFill { w0.p with wf := true, wop := 2 } = 0xFF800000 := by decide +kernel
/-- R326: cause 0x0B, the code in TVAL and the PC in TPC. -/
theorem test_trap : outTrap (exec (.trap 5) w0) = some (0x0B, 5, 0x20000) := by decide +kernel
/-- R51: an i8 group within [−8, 7] has m = 4; with every value even its bit 0 is clear. -/
theorem test_occupancy : occupancy 8 true [0xF8, 7, 0xFE, 2] = 0x0F ∧ occupancy 8 true [0xF8, 6, 0xFE, 2] = 0x0E ∧
    occupancy 8 false [0x81, 0x10] = 0x91 := by decide
/-- R363: the header of DEVICE at offset 0 with another entry after it, and the core clock among the words of COMPUTE. -/
theorem test_capability : fieldOf (capBytes { id := 1, version := 0, words := [0x0480, 3, 0, 0, 0] } 32) 0 8 = 1 + 32 * 2 ^ 32 + 32 * 2 ^ 48 ∧
    ((capEntries w0).map (fun e => e.words.getLast?)).getD 1 none = some 1400 := by decide +kernel
/-- R165: four fibres of lengths 3, 0, 2 and 5 in v1, and their values in v8 with 77 at the empty one's place. -/
def fibrePair : Pair :=
  let put (r : Nat) (l : List Nat) (p : Pair) : Pair := putCodes p (.int true 16) r ((List.range l.length).zip l)
  put 8 [1, 2, 3, 77, 10, 20, 1, 1, 1, 1, 1] (put 1 [3, 0, 2, 5] w0.p)
/-- R165: VSETVF of those fibres gives 4, VL 11, and both masks; VRED.SEG under them the sums, v4 beyond them kept. -/
theorem test_setvf : let r := laneOf (.vsetvf 7 1 3 2) fibrePair { te .brk with vl := 4 }
    let q := (laneOf (.vredSeg 4 8 3 2 0) r.p { te .brk with vl := 11 }).p
    r.res = some 4 ∧ r.vl = some 11 ∧ r.p.k.getD 3 0 = 0b1011001 ∧ r.p.k.getD 2 0 = 0b11111110111 ∧
    (List.range 5).map (fun j => (lane q 4 j).toNat) = [6, 0, 30, 5, 0] := by decide +kernel
/-- R165: the shares of VSPLIT by two of the same fibres. -/
theorem test_split : (List.range 5).map (fun j => (lane (laneOf (.vsplit 5 1 9 0) fibrePair { te .brk with vl := 4, b := 2 }).p 5 j).toNat) =
    [0, 0, 0, 1, 0] := by decide +kernel

end Sys2Proof.Tests
end

section
/-! PROOFS. Decoding an encoding gives the instruction back (spec/03_encoding.md R57-R88). A word is the fixed bits of one
row of the tables with operands placed where that row's mask does not look; no other row of the same list can hold it,
and what the row reads at the place of an operand is that operand. -/
namespace Sys2Proof.Proofs
open Sys2Proof Sys2Proof.Spec

/-! ## Fields of a word -/

theorem getLsbD_putAt {n k : Nat} (v : BitVec k) (lo i : Nat) :
    (putAt n v lo).getLsbD i = (decide (i < n) && decide (lo ≤ i) && v.getLsbD (i - lo)) := by
  simp only [putAt, BitVec.getLsbD_shiftLeft, BitVec.getLsbD_setWidth]
  grind

theorem getLsbD_fieldAt {n : Nat} (w : BitVec n) (lo k i : Nat) :
    (fieldAt w lo k).getLsbD i = (decide (i < k) && w.getLsbD (lo + i)) := by
  simp [fieldAt, BitVec.getLsbD_extractLsb']

theorem fieldAt_and {n : Nat} (v w : BitVec n) (lo k : Nat) : fieldAt (v &&& w) lo k = fieldAt v lo k &&& fieldAt w lo k :=
  BitVec.extractLsb'_and

theorem fieldAt_or {n : Nat} (v w : BitVec n) (lo k : Nat) : fieldAt (v ||| w) lo k = fieldAt v lo k ||| fieldAt w lo k :=
  BitVec.extractLsb'_or

theorem fieldAt_ofNat {n : Nat} (x lo k : Nat) : fieldAt (BitVec.ofNat n x) lo k = BitVec.ofNat k ((x % 2 ^ n) >>> lo) := by
  simp [fieldAt, BitVec.extractLsb', BitVec.toNat_ofNat]

theorem fieldAt_or_putAt_same {n k lo : Nat} (w : BitVec n) (v : BitVec k) (hn : lo + k ≤ n) (hw : fieldAt w lo k = 0#k) :
    fieldAt (w ||| putAt n v lo) lo k = v := by
  rw [fieldAt_or, hw, BitVec.zero_or]
  ext i hi
  simp only [← BitVec.getLsbD_eq_getElem, getLsbD_fieldAt, getLsbD_putAt]
  grind

/-- A field that an operand does not touch. -/
theorem fieldAt_or_putAt_apart {n k j lo l : Nat} (w : BitVec n) (v : BitVec k) (h : lo + k ≤ l ∨ l + j ≤ lo) :
    fieldAt (w ||| putAt n v lo) l j = fieldAt w l j := by
  ext i hi
  simp only [← BitVec.getLsbD_eq_getElem, getLsbD_fieldAt, getLsbD_putAt, BitVec.getLsbD_or]
  grind

theorem fieldAt_or_putAt_below {n k j lo l : Nat} (w : BitVec n) (v : BitVec k) (h : lo + k ≤ l) :
    fieldAt (w ||| putAt n v lo) l j = fieldAt w l j := fieldAt_or_putAt_apart w v (.inl h)

theorem fieldAt_or_putAt_above {n k j lo l : Nat} (w : BitVec n) (v : BitVec k) (h : l + j ≤ lo) :
    fieldAt (w ||| putAt n v lo) l j = fieldAt w l j := fieldAt_or_putAt_apart w v (.inr h)

/-- A mask that does not look where an operand lies sees the word without it. -/
theorem or_putAt_and_mask {n k lo : Nat} (w m : BitVec n) (v : BitVec k) (h : fieldAt m lo k = 0#k) :
    (w ||| putAt n v lo) &&& m = w &&& m := by
  ext i hi
  have hm : (fieldAt m lo k).getLsbD (i - lo) = false := by simp [h]
  have hv := v.getLsbD_of_ge (i - lo)
  simp only [getLsbD_fieldAt] at hm
  simp only [← BitVec.getLsbD_eq_getElem, BitVec.getLsbD_and, BitVec.getLsbD_or, getLsbD_putAt]
  by_cases hlo : lo ≤ i
  · rw [show lo + (i - lo) = i by omega] at hm
    grind
  · simp [hlo]

/-- An operand that the encoding splits is the two pieces joined. -/
theorem fieldAt_append {a b : Nat} (v : BitVec (a + b)) : fieldAt v b a ++ fieldAt v 0 b = v := by
  ext i hi
  simp only [← BitVec.getLsbD_eq_getElem, BitVec.getLsbD_append, getLsbD_fieldAt]
  grind

/-- The offset of a branch (R66). -/
theorem fieldAt_append_branch (v : BitVec 12) : fieldAt v 5 7 ++ fieldAt v 0 5 = v := fieldAt_append (a := 7) (b := 5) v
/-- The offset of a load or store (R67). -/
theorem fieldAt_append_access (v : BitVec 7) : fieldAt v 2 5 ++ fieldAt v 0 2 = v := fieldAt_append (a := 5) (b := 2) v
/-- The ignored bits of YIELD. -/
theorem fieldAt_append_yield (v : BitVec 21) : fieldAt v 16 5 ++ fieldAt v 0 16 = v := fieldAt_append (a := 5) (b := 16) v
/-- The ignored bits of the directional fences. -/
theorem fieldAt_append_fence (v : BitVec 22) : fieldAt v 16 6 ++ fieldAt v 0 16 = v := fieldAt_append (a := 6) (b := 16) v
/-- The stream set of SBAR. -/
theorem fieldAt_append_sbar (v : BitVec 8) : fieldAt v 5 3 ++ fieldAt v 0 5 = v := fieldAt_append (a := 3) (b := 5) v

/-! ## The rows of the tables -/

/-- The rows that a word is looked up in. -/
def wordRows (w : Word) : List (DecRow 32) := rowsOf (fieldAt w 0 7).toNat

/-- The rows that a compact form is looked up in. -/
def halfRows (_ : Half) : List (DecRow 16) := rowsCompact

/-- No word holds two rows: they ask for different bits somewhere that both masks look. -/
abbrev Apart {n : Nat} (r q : DecRow n) : Prop := (r.bits ^^^ q.bits) &&& (r.mask &&& q.mask) ≠ 0

theorem rowsOf_apart : ∀ low < 128, (rowsOf low).Pairwise Apart := by decide +kernel

theorem rowsCompact_apart : rowsCompact.Pairwise Apart := by decide

/-- Every row of a list of 32-bit words fixes bits [6:0], at the odd value that the list is for (R61, R62). -/
theorem rowsOf_low : ∀ low < 128, ∀ r ∈ rowsOf low, fieldAt r.mask 0 7 = BitVec.allOnes 7 ∧ low % 2 = 1 := by decide +kernel

/-- Every row of the compact forms fixes bit 0, at 0 (R57). -/
theorem rowsCompact_low : ∀ r ∈ rowsCompact, fieldAt r.mask 0 1 = BitVec.allOnes 1 ∧ fieldAt r.bits 0 1 = 0 := by decide

/-- Of rows that are apart, the one that holds a word is the one picked. -/
theorem pickRow_of_mem {n : Nat} {w : BitVec n} {r : DecRow n} {rows : List (DecRow n)} (hrows : rows.Pairwise Apart)
    (hr : r ∈ rows) (hw : w &&& r.mask = r.bits) : pickRow w rows = some (r.read w) := by
  induction rows with
  | nil => cases hr
  | cons q rows ih =>
    obtain ⟨hq, hrest⟩ := List.pairwise_cons.mp hrows
    obtain rfl | hr := List.mem_cons.mp hr
    · simp [pickRow, hw]
    · have hne : w &&& q.mask ≠ q.bits := by
        intro he
        refine hq r hr ?_
        rw [← he, ← hw]
        ext i hi
        simp
        grind
      rw [pickRow, if_neg hne, ih hrest hr]

/-- A field that the mask looks at whole is the row's. -/
theorem fieldAt_of_mask {n lo k : Nat} {w m b : BitVec n} (hw : w &&& m = b) (hm : fieldAt m lo k = BitVec.allOnes k) :
    fieldAt w lo k = fieldAt b lo k := by
  rw [← hw, fieldAt_and, hm, BitVec.and_allOnes]

/-- A row of the tables and a word with the bits it fixes. -/
structure Held {n : Nat} (rows : BitVec n → List (DecRow n)) (r : DecRow n) (w : BitVec n) : Prop where
  mem : r ∈ rows r.bits
  fixed : w &&& r.mask = r.bits

/-- The fixed bits of a row alone. -/
theorem Held.bits {n : Nat} {rows : BitVec n → List (DecRow n)} {r : DecRow n} {b : BitVec n}
    (hr : (rows b).find? (fun r => r.bits == b) = some r) (hb : b &&& r.mask = b) : Held rows r b := by
  have hbits : r.bits = b := by simpa using List.find?_some hr
  exact ⟨hbits ▸ List.mem_of_find?_eq_some hr, hbits ▸ hb⟩

/-- An operand more, off the row's mask. -/
theorem Held.field {n k lo : Nat} {rows : BitVec n → List (DecRow n)} {r : DecRow n} {w : BitVec n} {v : BitVec k}
    (h : Held rows r w) (hm : fieldAt r.mask lo k = 0#k) : Held rows r (w ||| putAt n v lo) :=
  ⟨h.mem, (or_putAt_and_mask w r.mask v hm).trans h.fixed⟩

/-! ## Encodings and their rows -/

/-- A row holds the code and reads the instruction from it. -/
inductive Reads (i : Instr) : Code → Prop
  | word {r : DecRow 32} {w : Word} (held : Held wordRows r w) (read : r.read w = i) : Reads i (.word w)
  | half {r : DecRow 16} {w : Half} (held : Held halfRows r w) (read : r.read w = i) : Reads i (.half w)
  | event : Reads i .event

/-- The encoder and the tables agree, row by row: the encoding of an instruction begins with the bits its row fixes, each
operand lies off the row's mask, and the row reads it where it lies. -/
theorem reads_encode (i : Instr) : Reads i (encode i) := by
  cases i with
  | stallRelease | loadDataReturn | storePerformed | peerCompletion | vectorComplete | vtypeChangePoint |
    flushiInvalidate | xlinvWrite | xlinvComplete | srseedWrite | iendWrite | hartEnd | prioWrite | wceilWrite |
    mceilWrite | semwinWrite | keyGenerate | keyErase | sharedKeyGenerate | einjArm | cregWrite | mmioRegisterWrite |
    asyncTrapTake | umpireAnswer | umpireRemoteMessage | umpireShareRefill | waitSatisfied | waitTimeout |
    withdrawalAnswer | pageResponse | atsInvalidate | tceCommandStart | tceCommandFinish | kickTailWrite |
    launchRecordRead | launchReady | launchDeperr | launchPacket | preemptRequest | cooperativeSave | forcedSave |
    itemRebind | itemRetire | launchCompletionWrite | ctxnew | ctxend | qset | qstop | semwin | cancel | halt | resume |
    attest | evring | linkrate | pkgcfg | ceil | quota | snapread | mailboxBadop | mailboxComplete | evheadWrite |
    cpcQuiesce | cpcRetain | cpcClkgate | cpcRailoff | cpcCommandDone | cpcWake | cpcWakeDone | cpcRailTimeout |
    snaptrgN | snapctlRel | packageReset | groupReset | watchdogExpiry | thermalTrip | linkFailure | hwErrorDetected |
    snapoutNPulseEnd =>
    exact .event
  | _ =>
    constructor
    -- the row that holds the code, found by the fixed bits, and each operand off its mask
    · repeat' apply Held.field
      · apply Held.bits <;> rfl
      all_goals rfl
    -- each operand at the place where the row reads it
    · simp only [fieldAt_or_putAt_same, fieldAt_or_putAt_below, fieldAt_or_putAt_above, fieldAt_ofNat, Nat.reducePow,
        Nat.reduceMod, Nat.reduceShiftRight, Nat.reduceAdd, Nat.reduceLeDiff, Nat.le_refl, BitVec.reduceOfNat,
        fieldAt_append_branch, fieldAt_append_access, fieldAt_append_yield, fieldAt_append_fence, fieldAt_append_sbar]

/-! ## From a held row to the decoder -/

theorem toNat_fieldAt_zero {n k : Nat} (w : BitVec n) : (fieldAt w 0 k).toNat = w.toNat % 2 ^ k := by
  simp [fieldAt]

/-- Bits [6:0] of a word are those of the row that holds it, and odd: its length bit says 32 bits (R57, R61). -/
theorem low_of_held {r : DecRow 32} {w : Word} (h : Held wordRows r w) :
    w.toNat % 128 = (fieldAt r.bits 0 7).toNat ∧ w.toNat % 2 = 1 := by
  obtain ⟨hmask, hodd⟩ := rowsOf_low _ (fieldAt r.bits 0 7).isLt r h.mem
  have hlow : w.toNat % 2 ^ 7 = (fieldAt r.bits 0 7).toNat := by
    rw [← fieldAt_of_mask h.fixed hmask, toNat_fieldAt_zero]
  exact ⟨hlow, by omega⟩

theorem decodeWord_of_held {r : DecRow 32} {w : Word} (h : Held wordRows r w) (hwf : (r.read w).wf = true) :
    decodeWord w = .instr (r.read w) 4 := by
  have hpick := pickRow_of_mem (rowsOf_apart _ (fieldAt r.bits 0 7).isLt) h.mem h.fixed
  rw [decodeWord, (low_of_held h).1, hpick, checkRow, if_pos hwf]

theorem pickRow_of_held_half {r : DecRow 16} {w : Half} (h : Held halfRows r w) :
    pickRow w rowsCompact = some (r.read w) := pickRow_of_mem rowsCompact_apart h.mem h.fixed

/-- The halfword of zeros would be C.ADD x0, x0, which is not well formed (R58, R87). -/
theorem ne_zero_of_held {r : DecRow 16} {w : Half} (h : Held halfRows r w) (hwf : (r.read w).wf = true) : w ≠ 0 := by
  rintro rfl
  have hzero : some (Instr.cAdd 0 0) = some (r.read 0) := pickRow_of_held_half h
  rw [← Option.some.inj hzero] at hwf
  exact absurd hwf (by decide)

theorem decodeHalf_of_held {r : DecRow 16} {w : Half} (h : Held halfRows r w) (hwf : (r.read w).wf = true) :
    decodeHalf w = .instr (r.read w) 2 := by
  rw [decodeHalf, if_neg (ne_zero_of_held h hwf), pickRow_of_held_half h, checkRow, if_pos hwf]

/-- A halfword that a row holds is even, so its length bit says 16 bits (R57). -/
theorem even_of_held {r : DecRow 16} {w : Half} (h : Held halfRows r w) : w.toNat % 2 = 0 := by
  obtain ⟨hmask, hbits⟩ := rowsCompact_low r h.mem
  have hlow : fieldAt w 0 1 = 0 := (fieldAt_of_mask h.fixed hmask).trans hbits
  simpa [toNat_fieldAt_zero] using congrArg BitVec.toNat hlow

theorem decodeBytes_word {w : Word} (h : w.toNat % 2 = 1) : decodeBytes (codeBytes (.word w)) = decodeWord w := by
  have hjoin : w.extractLsb' 24 8 ++ w.extractLsb' 16 8 ++ w.extractLsb' 8 8 ++ w.extractLsb' 0 8 = w := by
    ext i hi
    simp only [← BitVec.getLsbD_eq_getElem, BitVec.getLsbD_append, BitVec.getLsbD_extractLsb']
    grind
  simp only [codeBytes, decodeBytes]
  rw [if_pos (by simp; omega), hjoin]

theorem decodeBytes_half {w : Half} (h : w.toNat % 2 = 0) : decodeBytes (codeBytes (.half w)) = decodeHalf w := by
  have hjoin : w.extractLsb' 8 8 ++ w.extractLsb' 0 8 = w := fieldAt_append (a := 8) (b := 8) w
  simp only [codeBytes, decodeBytes]
  rw [if_neg (by simp; omega), hjoin]

/-- Settles O24: a row holds the encoding and reads the instruction, and no other row of its list can hold it. -/
theorem encodingsDecodeToTheirInstruction : Obligations.EncodingsDecodeToTheirInstruction := by
  intro i hwf hcode
  have hreads := reads_encode i
  generalize encode i = c at hreads hcode ⊢
  cases hreads with
  | word held read =>
    subst read
    exact (decodeBytes_word (low_of_held held).2).trans (decodeWord_of_held held hwf)
  | half held read =>
    subst read
    exact (decodeBytes_half (even_of_held held)).trans (decodeHalf_of_held held hwf)
  | event => exact absurd rfl hcode

end Sys2Proof.Proofs
end

section
/-! PROOFS. What the host reads of BAR0 and BAR2 (spec/15_attachment.md R355, R360, R363, R368): a register or kick page
doubleword is the value of its doubleword, cut to the access; the capability list is its entries' bytes in a row. -/
namespace Sys2Proof.Proofs
open Sys2Proof Sys2Proof.Spec Sys2Proof.Machine

/-! ## Accesses -/

theorem barServes_iff (off size : Nat) : barServes off size = true ↔ (size = 4 ∨ size = 8) ∧ off % size = 0 := by
  simp [barServes]

theorem bar0Read_unserved {s : State} {off size : Nat} (h : barServes off size = false) : bar0Read s off size = 0 := by
  simp [bar0Read, h]

theorem bar2Read_unserved {s : State} {off size : Nat} (h : barServes off size = false) : bar2Read s off size = 0 := by
  simp [bar2Read, h]

theorem partOfWord_doubleword {v off : Nat} (hv : v < 2 ^ 64) (ho : off % 8 = 0) : partOfWord v off 8 = v := by
  rw [partOfWord, ho, Nat.mul_zero, Nat.pow_zero, Nat.div_one, Nat.mod_eq_of_lt hv]

/-! ## Registers of BAR0 (R355) -/

theorem flag_le (b : Bool) (n : Nat) : (if b = true then n else 0) ≤ n := by cases b <;> simp

theorem regRead_lt (s : State) (r : Nat) : regRead s r < 2 ^ 64 := by
  have hbusy := flag_le s.hub.mb.busy 1
  have hdrop := flag_le s.hub.mb.drop 2
  rw [regRead]
  repeat' refine iteInduction (motive := (· < 2 ^ 64)) (fun _ => ?_) (fun _ => ?_)
  all_goals omega

theorem bar0Read_register {s : State} {o : Nat} (ho : 0x10000 ≤ o) (h8 : o % 8 = 0) : bar0Read s o 8 = regRead s o := by
  have hserved : barServes o 8 = true := (barServes_iff o 8).mpr ⟨.inr rfl, h8⟩
  rw [bar0Read, hserved, if_neg (by simp), if_neg (by omega), Nat.div_mul_cancel (Nat.dvd_of_mod_eq_zero h8),
    partOfWord_doubleword (regRead_lt s o) h8]

/-- Four bytes of a register are the half of its doubleword that they are. -/
theorem bar0Read_half {s : State} {o : Nat} (ho : 0x10000 ≤ o) (h8 : o % 8 = 0) :
    bar0Read s o 4 = regRead s o % 2 ^ 32 ∧ bar0Read s (o + 4) 4 = regRead s o / 2 ^ 32 % 2 ^ 32 := by
  have hlow : barServes o 4 = true := (barServes_iff o 4).mpr ⟨.inl rfl, by omega⟩
  have hhigh : barServes (o + 4) 4 = true := (barServes_iff (o + 4) 4).mpr ⟨.inl rfl, by omega⟩
  constructor
  · rw [bar0Read, hlow, if_neg (by simp), if_neg (by omega), show o / 8 * 8 = o by omega, partOfWord, h8]
    simp
  · rw [bar0Read, hhigh, if_neg (by simp), if_neg (by omega), show (o + 4) / 8 * 8 = o by omega, partOfWord,
      show (o + 4) % 8 = 4 by omega]

theorem regRead_arg (s : State) (n : Fin 12) : regRead s (0x10040 + 8 * n.val) = s.hub.mb.arg[n].toNat := by
  have hn := n.isLt
  rw [regRead, if_neg (by omega), if_neg (by omega), if_pos (by omega),
    show (0x10040 + 8 * n.val - 0x10040) / 8 = n by omega]
  simp [List.getD]

theorem regRead_res (s : State) (n : Fin 4) : regRead s (0x100C0 + 8 * n.val) = s.hub.mb.res[n].toNat := by
  have hn := n.isLt
  rw [regRead, if_neg (by omega), if_neg (by omega), if_neg (by omega), if_pos (by omega),
    show (0x100C0 + 8 * n.val - 0x100C0) / 8 = n by omega]
  simp [List.getD]

/-- MBDOOR and what is not listed read 0. -/
theorem regRead_unlisted {s : State} {r : Nat} (h : (0x10010 ≤ r ∧ r < 0x10040) ∨
    (0x100A0 ≤ r ∧ r < 0x100C0) ∨ (0x100E0 ≤ r ∧ r < 0x10100) ∨ 0x10138 ≤ r) : regRead s r = 0 := by
  rw [regRead]
  repeat' refine iteInduction (motive := (· = 0)) (fun _ => ?_) (fun _ => ?_)
  all_goals omega

/-- After a boot that failed only the mailbox and BOOTST are served (R368). -/
theorem regRead_failed {s : State} {r : Nat} (hboot : s.hub.bootResult = 2) (hr : 0x10100 ≤ r) (hne : r ≠ 0x10130) :
    regRead s r = 0 := by
  rw [regRead, if_neg (by omega), if_neg (by omega), if_neg (by omega), if_neg (by omega), if_neg hne, if_pos hboot]

/-- A doubleword at any offset of the registers reads 0 where the register at an aligned one would. -/
theorem bar0Read_eq_zero {s : State} {o : Nat} (ho : 0x10000 ≤ o) (h : regRead s o = 0) : bar0Read s o 8 = 0 := by
  by_cases h8 : o % 8 = 0
  · rw [bar0Read_register ho h8, h]
  · exact bar0Read_unserved (by simp [barServes, h8])

/-! ## Fields of bytes -/

theorem fieldOf_append_left {a b : List Byte} {o n : Nat} (h : o + n ≤ a.length) : fieldOf (a ++ b) o n = fieldOf a o n := by
  rw [fieldOf, fieldOf, List.drop_append_of_le_length (by omega), List.take_append_of_le_length (by simp; omega)]

theorem fieldOf_append_right (a b : List Byte) (o n : Nat) : fieldOf (a ++ b) (a.length + o) n = fieldOf b o n := by
  rw [fieldOf, fieldOf, ← List.drop_drop, List.drop_left]

theorem fieldOf_beyond {a : List Byte} {o : Nat} (n : Nat) (h : a.length ≤ o) : fieldOf a o n = 0 := by
  simp [fieldOf, List.drop_eq_nil_of_le h, ofBytesLE]

theorem fieldOf_natBytes (v n : Nat) : fieldOf (natBytes v n) 0 n = v % 256 ^ n := by
  rw [fieldOf, List.drop_zero, List.take_of_length_le (Nat.le_of_eq (natBytes_length v n)), ofBytesLE_natBytes]

theorem natBytes_add (v a b : Nat) : natBytes v (a + b) = natBytes v a ++ natBytes (v / 256 ^ a) b := by
  induction a generalizing v with
  | zero => simp [natBytes]
  | succ a ih => rw [Nat.succ_add, natBytes, natBytes, ih, List.cons_append, Nat.div_div_eq_div_mul, Nat.pow_succ']

theorem length_flatMap_natBytes (ws : List Nat) (n : Nat) : (ws.flatMap (natBytes · n)).length = n * ws.length := by
  induction ws with
  | nil => rfl
  | cons w ws ih => simp [natBytes_length, ih, Nat.mul_add, Nat.add_comm]

/-- A word of a list written one after another. -/
theorem fieldOf_flatMap_natBytes {ws : List Nat} {k w : Nat} (n : Nat) (h : ws[k]? = some w) :
    fieldOf (ws.flatMap (natBytes · n)) (n * k) n = w % 256 ^ n := by
  induction ws generalizing k with
  | nil => simp at h
  | cons x ws ih =>
    rw [List.flatMap_cons]
    cases k with
    | zero =>
      obtain rfl : x = w := by simpa using h
      rw [Nat.mul_zero, fieldOf_append_left (by simp [natBytes_length]), fieldOf_natBytes]
    | succ k =>
      have hlen := natBytes_length x n
      rw [Nat.mul_succ, Nat.add_comm, ← congrArg (· + n * k) hlen, fieldOf_append_right, ih (by simpa using h)]

/-! ## The capability list (R363) -/

theorem length_capBytes (e : CapEntry) (next : Nat) : (capBytes e next).length = capLength e := by
  rw [capBytes, padTo, capLength]
  simp only [List.length_append, List.length_replicate, natBytes_length, length_flatMap_natBytes]
  omega

/-- The two words of an entry's header: ID and VERSION, LENGTH and NEXT. -/
theorem fieldOf_capBytes_header {e : CapEntry} {next : Nat} (hid : e.id < 2 ^ 16) (hver : e.version < 2 ^ 8)
    (hlen : capLength e < 2 ^ 16) (hnext : next < 2 ^ 16) :
    fieldOf (capBytes e next) 0 4 = e.id + e.version * 2 ^ 16 ∧
      fieldOf (capBytes e next) 4 4 = capLength e + next * 2 ^ 16 := by
  rw [capBytes, padTo]
  generalize hv : e.id + e.version * 2 ^ 16 + capLength e * 2 ^ 32 + next * 2 ^ 48 = v
  rw [natBytes_add v 4 4]
  have hlow := fieldOf_append_right (natBytes v 4) (natBytes (v / 256 ^ 4) 4) 0 4
  rw [natBytes_length, fieldOf_natBytes] at hlow
  constructor
  · rw [fieldOf_append_left, fieldOf_append_left, fieldOf_append_left, fieldOf_natBytes]
    · omega
    all_goals simp [natBytes_length]
  · rw [fieldOf_append_left, fieldOf_append_left, hlow]
    · omega
    all_goals simp only [List.length_append, natBytes_length, length_flatMap_natBytes]
    all_goals omega

theorem fieldOf_capBytes_word {e : CapEntry} {n w : Nat} (next : Nat) (h : e.words[n]? = some w) :
    fieldOf (capBytes e next) (8 + 4 * n) 4 = w % 2 ^ 32 := by
  obtain ⟨hn, -⟩ := List.getElem?_eq_some_iff.mp h
  rw [capBytes, padTo]
  generalize hheader : natBytes (e.id + e.version * 2 ^ 16 + capLength e * 2 ^ 32 + next * 2 ^ 48) 8 = header
  have hlen : header.length = 8 := by rw [← hheader, natBytes_length]
  have hbody := fieldOf_append_right header (e.words.flatMap (natBytes · 4)) (4 * n) 4
  rw [hlen, fieldOf_flatMap_natBytes 4 h] at hbody
  refine (fieldOf_append_left ?_).trans hbody
  rw [List.length_append, hlen, length_flatMap_natBytes]
  omega

/-- An entry's bytes lie past those before it, with the offset of the following one as NEXT, and 0 at the end. -/
theorem fieldOf_capChain {l : List CapEntry} {k : Nat} {e : CapEntry} (hk : l[k]? = some e) (base : Nat) {x n : Nat}
    (hx : x + n ≤ capLength e) : fieldOf (capChain base l) (((l.map capLength).take k).sum + x) n =
      fieldOf (capBytes e (if k + 1 = l.length then 0 else base + ((l.map capLength).take (k + 1)).sum)) x n := by
  induction l generalizing k base with
  | nil => simp at hk
  | cons d l ih =>
    rw [capChain]
    cases k with
    | zero =>
      obtain rfl : d = e := by simpa using hk
      rw [show ((List.map capLength (d :: l)).take 0).sum + x = x by simp, fieldOf_append_left (by rwa [length_capBytes])]
      cases l <;> simp
    | succ k =>
      have hd := length_capBytes d (if l.isEmpty then 0 else base + capLength d)
      rw [List.map_cons, List.take_succ_cons, List.sum_cons, Nat.add_assoc,
        ← congrArg (· + (((l.map capLength).take k).sum + x)) hd, fieldOf_append_right, ih (by simpa using hk)]
      simp [Nat.add_assoc]

theorem length_capChain (l : List CapEntry) (base : Nat) : (capChain base l).length = (l.map capLength).sum := by
  induction l generalizing base with
  | nil => rfl
  | cons e l ih => simp [capChain, length_capBytes, ih]

/-- LENGTH of each entry. -/
def capLengths : List Nat := [32, 56, 40, 32, 32, 16]

theorem map_capLength_capEntries (s : State) : (capEntries s).map capLength = capLengths := by
  simp [capEntries, capLength, capLengths]

theorem capLengths_getElem? {s : State} {k : Nat} {e : CapEntry} (hk : (capEntries s)[k]? = some e) :
    capLengths[k]? = some (capLength e) := by
  rw [← map_capLength_capEntries s, List.getElem?_map, hk]
  rfl

/-- Where an entry begins. -/
def capOffset (k : Nat) : Nat := (capLengths.take k).sum

/-- NEXT of an entry. -/
def capNext (k : Nat) : Nat := if k + 1 = 6 then 0 else capOffset (k + 1)

/-- The list is aligned and short, so LENGTH and NEXT fit their fields. -/
theorem capOffset_bounds : ∀ k < 6, capOffset k % 4 = 0 ∧ capNext k < 2 ^ 16 ∧
    ∀ len ∈ capLengths[k]?, capOffset k + len < 2 ^ 16 := by decide

theorem capEntries_header (s : State) : ∀ e ∈ capEntries s, e.id < 2 ^ 16 ∧ e.version < 2 ^ 8 := by
  have hversion (id : Nat) : capVersion id < 2 ^ 8 := (Config.identityByte 5 id 0).isLt
  simp only [capEntries, List.forall_mem_cons, hversion]
  decide

theorem bar0Read_capability {s : State} {o : Nat} (ho : o < 0x10000) (h4 : o % 4 = 0) :
    bar0Read s o 4 = fieldOf (capRegion s) o 4 := by
  have hserved : barServes o 4 = true := (barServes_iff o 4).mpr ⟨.inl rfl, h4⟩
  rw [bar0Read, hserved, if_neg (by simp), if_pos ho]

/-- Beyond the list the capability region reads 0. -/
theorem bar0Read_beyond_list {s : State} {o : Nat} (h : 208 ≤ o) (ho : o < 0x10000) : bar0Read s o 8 = 0 := by
  have hlen : (capRegion s).length = 208 := by
    rw [capRegion, length_capChain, map_capLength_capEntries]
    rfl
  rw [bar0Read, if_pos ho, fieldOf_beyond 8 (hlen ▸ h), ite_self]

/-- What the host reads of an entry: its header and its words in order. -/
theorem bar0Read_capEntry {s : State} {k : Nat} {e : CapEntry} (hk : (capEntries s)[k]? = some e) :
    bar0Read s (capOffset k) 4 = e.id + e.version * 2 ^ 16 ∧
      bar0Read s (capOffset k + 4) 4 = capLength e + capNext k * 2 ^ 16 ∧
      ∀ n w, e.words[n]? = some w → bar0Read s (capOffset k + 8 + 4 * n) 4 = w % 2 ^ 32 := by
  have hcount : (capEntries s).length = 6 := rfl
  obtain ⟨hk6, -⟩ := List.getElem?_eq_some_iff.mp hk
  obtain ⟨h4, hnext, hend⟩ := capOffset_bounds k (hcount ▸ hk6)
  obtain ⟨hid, hver⟩ := capEntries_header s e (List.mem_of_getElem? hk)
  have hfits := hend _ (capLengths_getElem? hk)
  have hread (x : Nat) (hx : x + 4 ≤ capLength e) (hx4 : x % 4 = 0) :
      bar0Read s (capOffset k + x) 4 = fieldOf (capBytes e (capNext k)) x 4 := by
    have hchain := fieldOf_capChain hk 0 hx
    rw [map_capLength_capEntries, hcount, Nat.zero_add] at hchain
    rw [bar0Read_capability (by omega) (by omega)]
    exact hchain
  have hbody : 8 + e.words.length * 4 ≤ capLength e := by rw [capLength]; omega
  obtain ⟨hfirst, hsecond⟩ := fieldOf_capBytes_header hid hver (by omega) hnext
  refine ⟨(hread 0 (by omega) rfl).trans hfirst, (hread 4 (by omega) rfl).trans hsecond, fun n w hw => ?_⟩
  obtain ⟨hn, -⟩ := List.getElem?_eq_some_iff.mp hw
  rw [Nat.add_assoc, hread _ (by omega) (by omega), fieldOf_capBytes_word _ hw]

/-- The entry as the statement lists it: ID, LENGTH, NEXT and words that it begins with; its VERSION is free. -/
theorem capEntry_listed (s : State) (k : Nat) {e : CapEntry} {len : Nat} {words : List Nat}
    (hk : (capEntries s)[k]? = some e) (hlen : capLengths[k]? = some len) (hwords : words <+: e.words) :
    bar0Read s (capOffset k) 4 % 2 ^ 16 = e.id ∧ bar0Read s (capOffset k) 4 / 2 ^ 24 = 0 ∧
      bar0Read s (capOffset k + 4) 4 = len + capNext k * 2 ^ 16 ∧
      ∀ n w, words[n]? = some w → bar0Read s (capOffset k + 8 + 4 * n) 4 = w % 2 ^ 32 := by
  obtain ⟨hfirst, hsecond, hrest⟩ := bar0Read_capEntry hk
  obtain ⟨hid, hver⟩ := capEntries_header s e (List.mem_of_getElem? hk)
  obtain ⟨more, hmore⟩ := hwords
  obtain rfl : len = capLength e := Option.some.inj (hlen.symm.trans (capLengths_getElem? hk))
  refine ⟨by omega, by omega, hsecond, fun n w hw => hrest n w ?_⟩
  obtain ⟨hn, -⟩ := List.getElem?_eq_some_iff.mp hw
  rw [← hmore, List.getElem?_append_left hn, hw]

/-! ## Kick pages (R360) -/

theorem kickRead_lt (s : State) (c r : Nat) : kickRead s c r < 2 ^ 64 := by
  have hrun := flag_le (ctxOf s c).run 1
  have herr := flag_le (ctxOf s c).err 2
  rw [kickRead]
  repeat' refine iteInduction (motive := (· < 2 ^ 64)) (fun _ => ?_) (fun _ => ?_)
  all_goals omega

theorem kickPage_own {c o : Nat} (hc : c < 64) (ho : o < 4096) : kickPage (4096 * c + o) = (0, c) := by
  rw [kickPage, show (4096 * c + o) / 4096 = c by omega, Nat.div_eq_of_lt hc, Nat.mod_eq_of_lt hc]

/-- A doubleword of a slot's own kick page. -/
theorem bar2Read_kick {s : State} {c o : Nat} (hc : c < 64) (ho : o < 4096) (h8 : o % 8 = 0) :
    bar2Read s (4096 * c + o) 8 = kickRead s c o := by
  have hserved : barServes (4096 * c + o) 8 = true := (barServes_iff _ 8).mpr ⟨.inr rfl, by omega⟩
  rw [bar2Read, kickPage_own hc ho, hserved, if_pos (by simp), show (4096 * c + o) % 4096 / 8 * 8 = o by omega,
    partOfWord_doubleword (kickRead_lt s c o) (by omega)]

theorem bar2Read_reserved {s : State} {c o : Nat} (hc : c < 64) (h : 0x18 ≤ o) (ho : o < 4096) :
    bar2Read s (4096 * c + o) 8 = 0 := by
  by_cases h8 : o % 8 = 0
  · rw [bar2Read_kick hc ho h8, kickRead, if_neg (by omega), if_neg (by omega), if_neg (by omega)]
  · exact bar2Read_unserved (by simp [barServes]; omega)

theorem bar2Write_tail {s : State} {c : Nat} (hc : c < 64) (v : Dword) :
    bar2Write s (4096 * c) 8 v = kickTail s c (v.setWidth 32) := by
  have hserved : barServes (4096 * c) 8 = true := (barServes_iff _ 8).mpr ⟨.inr rfl, by omega⟩
  have hpage := kickPage_own (o := 0) hc (by decide)
  rw [Nat.add_zero] at hpage
  rw [bar2Write, hserved, hpage, if_pos (by simp)]

theorem bar2Write_other {s : State} {o : Nat} (h : o % 4096 ≠ 0) (v : Dword) : bar2Write s o 8 v = s := by
  simp [bar2Write, h]

/-- KICK_TAIL_WRITE is a write of TAIL through BAR2 (R361). -/
theorem exec_kickTailWrite (s : State) {c : Nat} (hc : c < 64) (v : Dword) :
    exec (.kickTailWrite c (v.extractLsb' 0 32)) s = .next (bar2Write s (4096 * c) 8 v) := by
  rw [bar2Write_tail hc, BitVec.setWidth_eq_extractLsb' (by decide)]
  rfl

/-! ## The statement -/

/-- The window and event registers, where the boot did not fail. -/
theorem regRead_served {s : State} (hboot : s.hub.bootResult ≠ 2) :
    regRead s 0x10100 = s.hub.fwwinb.toNat ∧ regRead s 0x10108 = s.hub.fwwins.toNat ∧
      regRead s 0x10110 = s.hub.fwpasid.toNat ∧ regRead s 0x10118 = s.hub.evhead.toNat ∧
      regRead s 0x10120 = s.hub.evtail.toNat ∧ regRead s 0x10128 = s.hub.evlost.toNat :=
  ⟨if_neg hboot, if_neg hboot, if_neg hboot, if_neg hboot, if_neg hboot, if_neg hboot⟩

/-- Settles O17: each access is the doubleword it lies in, and each entry of the capability list lies at its offset. -/
theorem hostReadsItsRegisters : Obligations.HostReadsItsRegisters := by
  intro s u m at_
  have hreg {o : Nat} (h8 : o % 8 = 0) : at_ o = regRead s (0x10000 + o) := bar0Read_register (by omega) (by omega)
  obtain ⟨-, -, hdevice⟩ := bar0Read_capEntry (s := s) (k := 0) rfl
  refine ⟨hreg rfl, hreg rfl, (hreg rfl).trans (regRead_unlisted (by decide)), fun n => ?arg, fun n => ?res,
    fun hboot => ?served, hreg rfl, fun o ho => ?unlisted, fun hboot o ho hne => ?failed, fun o n h => ?unserved,
    fun o ho h8 => ?half, ?list, hdevice 3 _ rfl, hdevice 4 _ rfl, fun o => bar0Read_beyond_list, fun c x hc hx => ?kick,
    fun c v hc => exec_kickTailWrite s hc v, fun o v h => bar2Write_other h v⟩
  case arg => rw [hreg (by omega), ← Nat.add_assoc]; exact regRead_arg s n
  case res => rw [hreg (by omega), ← Nat.add_assoc]; exact regRead_res s n
  case served =>
    obtain ⟨hbase, hsize, hpasid, hhead, htail, hlost⟩ := regRead_served hboot
    exact ⟨(hreg rfl).trans hbase, (hreg rfl).trans hsize, (hreg rfl).trans hpasid, (hreg rfl).trans hhead,
      (hreg rfl).trans htail, (hreg rfl).trans hlost⟩
  case unlisted => exact bar0Read_eq_zero (by omega) (regRead_unlisted (by omega))
  case failed => exact bar0Read_eq_zero (by omega) (regRead_failed hboot ho hne)
  case unserved =>
    have hserves : barServes o n = false := by
      rw [Bool.eq_false_iff, Ne, barServes_iff]
      omega
    exact ⟨bar0Read_unserved hserves, bar2Read_unserved hserves⟩
  case half => rw [bar0Read_register ho h8]; exact bar0Read_half ho h8
  case list =>
    simp only [List.forall_mem_cons]
    exact ⟨capEntry_listed s 0 rfl rfl ⟨_, rfl⟩, capEntry_listed s 1 rfl rfl ⟨_, rfl⟩,
      capEntry_listed s 2 rfl rfl ⟨_, rfl⟩, capEntry_listed s 3 rfl rfl ⟨_, rfl⟩,
      capEntry_listed s 4 rfl rfl ⟨_, rfl⟩, capEntry_listed s 5 rfl rfl ⟨_, rfl⟩, by simp⟩
  case kick =>
    have hctx : ctxOf s c = x := by rw [ctxOf, hx, Option.getD_some]
    have hread {o : Nat} (ho : o < 4096) (h8 : o % 8 = 0) := bar2Read_kick (s := s) hc ho h8
    subst hctx
    exact ⟨hread (o := 0) (by decide) rfl, hread (o := 8) (by decide) rfl, hread (o := 0x10) (by decide) rfl,
      fun o => bar2Read_reserved hc⟩

end Sys2Proof.Proofs
end
